-- ==== Sys2Proof/Word.lean ====
section
/-! DEFINITION. The plain word types of the block. -/
namespace Sys2Proof

/-- One byte. -/
abbrev Byte := BitVec 8
/-- One 32-bit CFG register word, and every 32-bit field software sees as a word. -/
abbrev Word := BitVec 32
/-- A 64-bit host or fabric address, or a counter. -/
abbrev DWord := BitVec 64
/-- The 256-byte payload of a flit (R496). -/
abbrev Payload := BitVec 2048
/-- The 32-byte tag of a flit (R496). -/
abbrev FlitTag := BitVec 256
/-- A 64-byte descriptor (R466). -/
abbrev DescBytes := BitVec 512
/-- A timetable line (R58). -/
abbrev TLine := BitVec 1024

end Sys2Proof
end

