-- ==== Sys2Proof/Syntax.lean ====
section
/-! DEFINITION. The commands of the block: one constructor per row of spec/opcode_table.json, in its order.
An operand is what comes from outside the block with the event: the flit, the register word, the bytes that a read of host
memory returned, the time of the event in CLK_CORE cycles (1,300 per µs, R490), or an outcome that the manual leaves to
the block's own timing. A descriptor's bytes are not an operand: they were taken at a doorbell read (R457) and wait in the
state, and a descriptor command applies the oldest one not yet checked (R456). -/
namespace Sys2Proof

/-- What one ring gives to a doorbell read (R452, R455): whether the read of its driver line succeeded (R531), the line,
and the descriptors from HEAD onward, as many as could be read. -/
structure RingView where
  ok     : Bool
  tail   : Word
  cqHead : Word
  atTick : Nat
  descs  : List DescBytes
  deriving DecidableEq, Repr

/-- A consignment of a timetable (R97, R515). -/
structure ConsPlan where
  num   : Nat
  kind  : Nat      -- 0 u, 1 score, 2 gather, 3 backward, 4 staged by a special working's fragment (R99)
  stop  : Nat
  pass  : Nat
  group : Nat      -- the manifest window; of a fragment, the segment's place in its pass, and `part` its own number
  size  : Nat      -- row-group size S of R97
  part  : Nat
  len   : Nat      -- flits as sent
  deriving DecidableEq, Repr

/-- A split entry of a segment table (R148): its parent, the run of the parent's positions and the span. -/
structure Split where
  stop   : Nat
  pass   : Nat
  parent : Nat
  ptr    : Nat      -- first position, from the parent's ROW_PTR
  rows   : Nat
  span   : Nat
  spans  : Nat      -- spans in the split
  deriving DecidableEq, Repr

/-- A fragment as it is woven into a program (R71): the place of its segment in its pass, or 2048 and the shared slot; the train that
serves it, the entry of that train's car 0, and the line that each of its lines stands in. -/
structure Woven where
  stop  : Nat
  pass  : Nat
  place : Nat
  train : Nat
  base  : Nat
  lines : List Nat
  deriving DecidableEq, Repr

/-- The builder's product for one tick: what the manual leaves to it within R50 to R57, R103, R109, R112, R147, R163 and R278.
`kept` gives for each cluster the bytes of its platform that the tick's working buffers and its merge accumulators take (R109, R277). -/
structure Built where
  lines  : List TLine
  fetch  : List DWord
  splits : List Split
  kept   : List (Nat × Nat)
  woven  : List Woven
  deriving DecidableEq, Repr

/-- Occupancy of a governor window (R551): the first four in car-beats (of 325 beats each), the depot in channel-beats,
the ports in data cycles (of 1,300 each). -/
structure Occupancy where
  mac8  : Nat
  mac4  : Nat
  bf16  : Nat
  other : Nat
  depot : Nat
  fm    : Nat
  rows  : Nat
  xch   : Nat
  deriving DecidableEq, Repr

/-- One 10 µs report of the sensors and monitors (R561, R566): T_j in 0.25 °C, the site giving it, rails in mV. -/
structure SensorRep where
  tj       : Int
  site     : Nat
  vddIx    : Nat
  vddDep   : Nat
  vddIo    : Nat
  procMin  : Nat
  procMax  : Nat
  procMean : Nat
  deriving DecidableEq, Repr

/-- The outcome of a firmware load (R542). -/
inductive FwResult where
  | running (major minor : BitVec 8)
  | badSignature
  | wrongBlock
  | loadError
  deriving DecidableEq, Repr

/-- The instructions of the test wrapper (R536). -/
inductive WrapperInstr where
  | bypass | extest | intest | fuseProg (cluster : Nat) | memTest
  deriving DecidableEq, Repr

/-- The scopes of ENABLE and QUIESCE (R480). -/
inductive ScopeId where
  | engine | ring (k : Nat) | tenant (t : Nat) | train (t : Nat)
  deriving DecidableEq, Repr

/-- The commands (spec/opcode_table.json). -/
inductive Instr where
  | tickEdge (t : Nat) (v : List RingView)
  | heldEdgeRelease (v : List RingView)
  | strictOverrunStart (v : List RingView)
  | tickHeader (t : Nat) (hdr : Payload)
  | tickHeaderTimeout
  | idleTimeout
  | quiesceEdgeTimeout
  | timetableBuild (t : Nat) (b : Built)
  | stopOpen (stop : Nat)
  | stopClose
  | stopDataFlit (port : Nat) (tag : FlitTag) (payload : Payload)
  | timetableWaitRelease (fetchDone credit : Bool)
  | tickWorkDone (t : Nat)
  | xchReturnedFlit (tag : FlitTag) (payload : Payload)
  | consignmentComplete (num : Nat)
  | digestCompare
  | routingPlacement (stop group : Nat)
  | ringHeaderRead (hdrs : List (Nat × DescBytes))
  | headDecision (t : Nat) (group : Nat)
  | tokenIrqHoldoffExpiry
  | stepBoundary (line : Nat) (hdrs : List (Word × DescBytes))
  | ttlExpiry (slot n : Nat)
  | pageMoveLanded (slot idx : Nat)
  | runMoveRemap (addr : Nat)
  | conversionRemap (slot : Nat)
  | writeBackLanded (addr : Nat)
  | depotCrcMismatch (addr : Nat) (wagonCheck : Bool) (train rereads : Nat) (readable : Bool)
  | platformParityError (addr train : Nat) (thirdInTick : Bool)
  | loadBuildComplete (slot : Nat) (image : List Byte)
  | releaseComplete (slot : Nat)
  | rowUpdateWritten (ring num : Nat) (records : List Byte)
  | adaptStateReady (slot : Nat)
  | quiesceDrainDone (scope : ScopeId)
  | nop
  | negotiate
  | enableEngine (hdrs : List (Word × DescBytes))
  | enableRing
  | enableTenant
  | enableTrain
  | quiesceEngine
  | quiesceRing
  | quiesceTenant
  | quiesceTrain
  | snapshot
  | snapshotLogbook
  | snapshotCapturePoint
  | snapshotWritesDone
  | openRequest (param : Option (BitVec 1024))
  | cancel
  | pause
  | resume
  | setSampling
  | loadAdapter
  | tableLoad
  | swapAdapterStage
  | swapAdapterCommit
  | retireAdapter
  | setQuota
  | tableRowUpdate
  | adaptEnableAdapter
  | adaptEnableRequest
  | loadSpecial (image : Option (List Byte))
  | unloadSpecial
  | linkInit (port : Nat) (tag : FlitTag) (payload : Payload)
  | flitReceive (port : Nat) (tag : FlitTag) (payload : Payload)
  | ackReceive (port : Nat) (seq : BitVec 8) (nak par : Bool)
  | replayTimeout (port : Nat)
  | fmReadData (id flit : Nat) (payload : Payload)
  | fmReadError (id : Nat)
  | fmWriteAck (t : Nat) (entries : List (Nat × Bool))
  | fmTimeout (id : Nat)
  | partnerLost
  | join
  | joinComplete
  | joinTimeout
  | portReset (v : Word)
  | dbWake (v : List RingView)
  | ringCfgValid (k : Nat) (v : Word)
  | tickCountLoRead
  | rcFieldRead (off : Nat)
  | errStatusClear (v : Word)
  | irqPendClear (v : Word)
  | complHoldoffExpiry
  | pwrCapWrite (v : Word)
  | pubkeyLock (v : Word)
  | fwLoad
  | fwLoadDone (r : FwResult)
  | logSave
  | logRestore (half0 half1 : List Byte)
  | rbStart
  | rbAbort
  | rbCaptureDone (changed unreachable parity : Bool) (hostBytes : List Byte)
  | registerWrite (off : Nat) (v : Word)
  | rstNAssert
  | rstNRelease
  | reserveInitDone
  | warmRstN
  | throttleAssert
  | throttleRelease
  | governorWindow (occ : Occupancy)
  | sensorReport (r : SensorRep)
  | pThermUpdate
  | droop
  | droopClear
  | supplyHalt
  | internalHalt
  | heartbeat
  | tickBudgetExpiry (t : Nat)
  | linkInitResend (port : Nat)
  | cacheFillDone (slot row : Nat)
  | powerLoss
  | powerUp
  | wrapperInstruction (i : WrapperInstr)
  deriving DecidableEq, Repr

end Sys2Proof
end

