-- ==== Sys2Proof/Config.lean ====
section
/-! DEFINITION. The values the manual leaves open, as constants without a body: nothing can be proved of what they are.
Each is applied to the state's plain counter `free` or to the operands it depends on (assumption log 2, 3, 4). -/
namespace Sys2Proof.Config
open Sys2Proof

/-- A binary32 value that the manual only bounds, by the counter and its place among those formed together (R1, R113 to R116, R327). -/
opaque element : Nat → Nat → Word
/-- The payload of an exchange flit that a special working's fragment stages, or of a record without valid candidates (R99, R369). -/
opaque freePayload : Nat → Payload
/-- A 32-bit value the manual leaves to the block (the first LOC of a placement, R247; a measured latency; a draw that has no row). -/
opaque freeWord : Nat → Word
/-- The summed gradient of an element, which the manual only bounds (R439). -/
opaque gradient : Nat → Word
/-- pow(B, t) on binary32, one fixed method; it stands where it lies within 2 ulp (R442). -/
opaque powF : Word → Nat → Word
/-- z, then the codes, of a stored row whose scale underflows to 0 or whose values are not finite (R217, R218 state none). -/
opaque rowCode : List Word → Nat → Int
/-- A byte of the depot that reads undefined after a SUPPLY halt (R237, R565), by the counter, the item selected and its place. -/
opaque haltByte : List Nat → Byte
/-- A byte of a split table's code area, by the codes of its rows and its offset: the manual does not say where the slices lie (R332). -/
opaque splitByte : List Byte → Nat → Byte
/-- exp on binary32, one fixed method; it stands where it lies within 2 ulp (R178). -/
opaque expF : Word → Word
/-- The mean power p_t of a train in a build, in milliwatts (R556); the manual does not say how the builder weighs its lines. -/
opaque trainPower : Nat → Nat
/-- The lines that a tick's schedule needs after loop compression, by its plan (R57); the manual gives no measure of it. -/
opaque scheduleLines : List Nat → Nat
/-- P_io of R556, in milliwatts. -/
opaque portPower : Nat → Nat

end Sys2Proof.Config
end

