-- ==== Sys2Proof/Machine/State.lean ====
section
/-! DEFINITION. The state of the block: everything the manual gives it, as plain data. A register that software reads and
writes whole stands in `regs` under its CFG offset; every other register is read from the fields below (Machine/Regs.lean). -/
namespace Sys2Proof.Machine
open Sys2Proof

/-- Reasons to stop. -/
inductive Fault where
  /-- Raised by WRAPPER_INSTRUCTION alone: an instruction other than WS_BYPASS selected with RST_N high. R536 requires
  RST_N low for it and gives no effect otherwise. Safe: the machine stops where the manual says nothing. -/
  | wrapperInOperation
  deriving DecidableEq, Repr

/-- Reasons to have no meaning. -/
inductive Refusal where
  /-- Raised by an arm of exec that has no meaning yet. Safe: nothing can be proved of it. -/
  | notModelled (mnemonic : String)
  deriving DecidableEq, Repr

/-- The configurations of R2. -/
inductive Build where
  | ix128 | ix256 | ix512
  deriving DecidableEq, Repr

/-- Scope states (R480). -/
inductive Scope where
  | enabled | quiescing | held | quiesced
  deriving DecidableEq, Repr

/-- Link states (R504). -/
inductive LinkSt where
  | down | init | up | fatal
  deriving DecidableEq, Repr

/-- A flit: payload and tag; the tag's CRC bytes (R496) are formed when it is sent. -/
structure Flit where
  payload : Payload
  tag     : FlitTag
  deriving DecidableEq, Repr

/-- One link (R499 to R504). -/
structure Link where
  st       : LinkSt
  gotInit  : Bool          -- a LINK_INIT with a good CRC came since INIT: SEEN of R502
  gotSeen  : Bool          -- one with SEEN 1 came
  sentSeen : Bool          -- IX7 has sent one with SEEN 1
  txSeq    : BitVec 8      -- SEQ of the next flit sent
  rxSeq    : BitVec 8      -- next SEQ expected
  nakSent  : Bool          -- a NAK for rxSeq stands
  ackOut   : Option (BitVec 8 × Bool)   -- last acknowledgement sent: ACK_SEQ, NAK
  replay   : List Flit     -- sent and unacknowledged, oldest first (R501)
  waiting  : List Flit     -- not yet sent
  fails    : List (BitVec 8 × Nat)   -- consecutive failures per unacknowledged SEQ (R504)
  resends  : Nat           -- PORT_STATUS.RESENDS
  failMax  : Nat           -- PORT_STATUS.FAIL_MAX
  rxQ      : List Flit     -- delivered to the layer above and not yet taken
  initOut  : Option Flit   -- the LINK_INIT sent last in INIT (R502)
  deriving DecidableEq, Repr

/-- What a write to host memory is for (R529, R531). -/
inductive WKind where
  | completion (ring : Nat) | statusLine (ring : Nat) | tokenRecord (slot : Nat) | prod | manifest (line : Nat) | backwardList
  | pageList | snapshot | logbook | msi (src : Nat)
  | writeBack (addr : Nat) | pageMove (slot idx : Nat)   -- of a wagon to its pool (R296), of a page to its new place (R404)
  | raise (src : Nat)      -- not a transaction: the interrupt that follows the writes it names (R464, R383)
  deriving DecidableEq, Repr

/-- A write to host memory of at most 256 bytes, in order of issue. It may go out once every write in `after` is
acknowledged (R529); `port` is the FM port code it went out on, or last failed on with `issued` false. -/
structure HostWrite where
  id     : Nat
  kind   : WKind
  addr   : Nat
  data   : List Byte
  after  : List Nat
  issued : Bool
  failed : Bool            -- waits for the next tick start or wake read (R531)
  port   : Nat
  deriving DecidableEq, Repr

/-- What an outstanding read or internal transfer over FM is for (R531). -/
inductive RKind where
  | image (slot : Nat) | firmware | rowRecords (ring num : Nat) | special (ring num : Nat) | wagon (addr : Nat) | writeBack (addr : Nat)
  | pageMove (slot idx : Nat) | capture
  deriving DecidableEq, Repr

/-- An outstanding read over FM (R527): its length in 64-byte units and the flits that have come. It goes out as requests of at most 256
units, whose identifiers count on from `id`; `sent` of them are out. `port` is the FM port code they went out on; 0 marks a transfer
within the block and 1 a read that waits for a usable port. -/
structure FmRead where
  id     : Nat
  port   : Nat
  kind   : RKind
  addr   : Nat
  units  : Nat
  sent   : Nat
  flits  : List (Nat × Payload)
  failed : Bool            -- a page move whose read has failed waits for the next tick start (R531)
  again  : Bool            -- a write-back whose wagon an optimiser step has dirtied again (R297)
  tries  : Nat             -- failures of a wagon's fetch (R303, R531)
  deriving DecidableEq, Repr

/-- What a taken descriptor waits for (R463, R597). -/
inductive Pend where
  | unchecked
  | quiesce (s : ScopeId) | enable (s : ScopeId)
  | build (slot : Nat)                 -- a load or stage
  | commit (slot due : Nat) | retire (slot : Nat)
  | pause (slot : Nat) | resume (slot : Nat)
  | rows (slot first count due : Nat)  -- TABLE_ROW_UPDATE
  | rowsDiscarded                      -- discarded by a warm reset (R349)
  | adapt (slot charge : Nat) | adaptRelease (slot : Nat)
  | special                            -- a LOAD_SPECIAL whose image is being read
  | snapshot
  | enableCancelled | quiesceOk | quiesceSave     -- owed at WARM_RST_N or R533 (R480), or waiting for its save (R579)
  deriving DecidableEq, Repr

/-- A descriptor taken and not yet completed (R597). -/
structure Taken where
  ring     : Nat
  num      : Word
  bytes    : DescBytes
  readTick : Nat
  quiet    : Bool          -- taken at a wake read with the engine QUIESCED: adds nothing to a digest (R420)
  lag      : Nat           -- FLIP_LAG at the read (R344, R454)
  seq      : Nat           -- its place among all descriptors taken
  pend     : Pend
  deriving DecidableEq, Repr

/-- Ring k beside its registers (R451, R452, R487). -/
structure Ring where
  head   : Word
  cqTail : Word
  cqHead : Word            -- CQ_HEAD of the most recent doorbell read (R461)
  cqResv : Nat
  st     : Scope
  tick   : Nat             -- n of the most recent read that took descriptors
  deriving DecidableEq, Repr

/-- An unsolicited completion that waits (R465). -/
structure Unsol where
  status  : Nat
  result0 : Word
  result1 : Word
  stamp   : Word
  deriving DecidableEq, Repr

/-- A tick header as IX7 uses it (R31, R34). -/
structure Header where
  kind     : Nat
  line     : Nat
  layer    : Nat
  stops    : BitVec 6
  deriving DecidableEq, Repr

/-- An edge between its arrival and its TICK_ACK (R25, R37, R43). -/
inductive Edge where
  | none
  | held (t : Nat)
  | waiting (t : Nat) (lenient cold overrun : Bool)   -- started; awaits its header
  | building (t : Nat) (h : Payload)                  -- header in; its timetable is being built before TICK_ACK
  | strict (t : Nat) (h : Option Payload)             -- overrun under the strict policy: waits for the old work
  deriving DecidableEq, Repr

/-- A visit of a segment (R120, R151). -/
structure Visit where
  row  : Nat
  slot : Nat
  g    : Word
  deriving DecidableEq, Repr

/-- A segment of a stop (R120, R144). -/
structure Seg where
  routed  : Bool
  handle  : Word
  tenant  : Nat
  expert  : Nat
  prio    : Nat
  dead    : Option Nat
  prefill : Bool           -- YARD (R157)
  cap     : Nat
  rank8   : Nat            -- RANK_M8
  form    : Nat
  fmt     : Nat
  hasS    : Bool
  hasV    : Bool
  swId    : Nat
  wagon   : Nat            -- WAGON_ADDR
  wagons  : Nat
  visits  : List Visit     -- for a routed segment, filled by the junction
  empty   : Bool           -- R127
  run     : List Visit     -- its visits as planned: the sorted-map positions that it keeps (R127, R151)
  deriving DecidableEq, Repr

/-- The plan of one stop (R119 to R137, R191). -/
structure StopPlan where
  stop    : Nat
  rows    : List Nat                -- the rows of the stop (R119, R354, R434)
  passes  : List (List Seg)
  removed : Nat                     -- segments removed under R125
  late    : List Nat                -- rows beyond the last pass (R126, R129, R137)
  gone    : List Nat                -- those of them with a visit in a removed segment (R126), the same on every block of the group
  routing : List (Nat × Nat)        -- routing rows: host row, tenant's set slot
  noScore : List Nat                -- tenants beyond the 2,047th (R174)
  learned : List (Nat × Nat × Nat)  -- rows with scores in a consignment: host row, set slot, E (R172)
  probe   : List Nat                -- probe rows (R192)
  exitPt  : Option Nat              -- active exit point (R191)
  shared  : List Word               -- shared parts of the stop (R82)
  sharedU : List Nat                -- ranks of those with low-rank factors, in slot order (R99)
  cut     : Nat                     -- segments removed under R57 or R98
  miss    : Nat                     -- skipped slots or heads, per row (R167, R358)
  bad     : List Nat                -- rows that visit an object poisoned at the build (R305)
  score   : List Seg                -- the score list (R173, R174)
  deriving DecidableEq, Repr

/-- The sampling block (R361, R362). -/
structure Sampling where
  temp      : Word
  topP      : Word
  minP      : Word
  repPen    : Word
  topK      : Nat
  penWin    : Nat
  drafts    : Nat
  plane     : Nat
  outHead   : Word
  specHead  : Word
  planeHead : Word
  seed      : DWord
  eos       : Word
  deriving DecidableEq, Repr

/-- An optimiser step that a timetable schedules for a trained part: what it uses as it stood at the build (R427, R441). -/
structure StepPlan where
  stop   : Nat
  handle : Word
  opt    : Nat
  pmask  : Nat
  hyper  : List Word       -- LR, B1, B2, EPS, WD, GSCALE, CLIP
  t      : Nat
  tick   : Nat             -- the OPT's tick, which keys its draws (R444)
  copy   : Nat             -- identity of the copy in force at the build, which alone it steps (R269)
  cars   : List (Nat × Nat)   -- wagon and cluster: the car that holds and updates each of the part's wagons (R440)
  deriving DecidableEq, Repr

/-- A timetable (R50, R68). -/
structure Timetable where
  hdr      : Header
  tick     : Nat
  lines    : List TLine
  fetch    : List DWord
  cons     : List ConsPlan
  splits   : List Split              -- R147, R148
  areas    : List Nat                -- frames of each cluster's wagon area (R277)
  merge    : List Nat                -- bytes of each cluster's platform reserved for merge accumulators (R109)
  homes    : List (Nat × Nat × Nat)  -- stop, row and cluster: the home cars of the rows (R109)
  places   : List (Nat × Nat × List Nat)  -- stop and pass: the table entry of each segment (R56, R145)
  onCar    : List (Nat × Nat)        -- cluster and wagon: the wagons of the entries where they are worked on (R280)
  bcast    : List (Nat × List Nat)   -- wagons of shared parts with the clusters that they are broadcast to (R95)
  look     : List (List Nat)         -- wagons of each of the two ticks predicted after it (R278, R279)
  visits   : List (Word × Nat)       -- planned visits of objects by rows (R283)
  needs    : List (Nat × Nat)        -- wagons that its work uses: first address and number (R279)
  plan     : List StopPlan
  samp     : List (Nat × Sampling × Nat)  -- HEAD: slot, block at the build (R363), parts of its SPEC_HEAD resolved
  allow    : Nat
  standing : Bool
  idle     : List Nat                -- trains that get only IDLE slots (R158, R481, R556)
  prefillN : Nat                     -- trains of the prefill yard (R159, R160)
  steps    : List StepPlan           -- BACKWARD
  deriving DecidableEq, Repr

/-- The run of the executing timetable (R67): the next line, the open loops (line, level, iterations left), beats. -/
structure Run where
  pc     : Nat
  loops  : List (Nat × Nat × Nat)
  ended  : Bool            -- TICK_END reached
  slots  : List Nat        -- per train, the slot issued in the most recent beat (TRAIN_SLOT)
  busy   : List Nat        -- per train, beats with an OP other than IDLE
  groups : List Nat        -- fetch groups outstanding
  cursors : List Nat       -- per fetch slot, the fetch-list position after the beats issued (R67)
  accepts : List (Nat × Nat × Nat × Nat)   -- rows that activation slots have accepted: stop, first position, rows, ports (R64)
  merging : List (Nat × Nat)  -- stop and row: the rows that the merge stage has admitted (R109)
  expects : List Nat       -- consignments that exchange slots expect (R63)
  walk   : List (Nat × Nat)  -- per train, the SEG_BASE its walkers are on and the beats since they began on it (R67)
  yard   : List Nat        -- busy beats on work of a yard, shared work excluded (R159)
  deriving DecidableEq, Repr

/-- A stop of the current tick (R15 to R21). -/
structure Stop where
  stop    : Nat
  plan    : StopPlan
  framing : Bool           -- a framing error: rows discarded, all-set mask, not counted (R20)
  ingress : Bool           -- STOP_VALID asserted
  next0   : Nat            -- next FIDX expected on AIN0 (R507)
  next1   : Nat
  flits   : Nat            -- flits the row count requires
  late    : List Nat
  emitted : List Nat
  ended   : Bool           -- STOP_END passed, or closed by the rules
  masked  : Bool           -- its late-row mask has been sent
  done    : Bool           -- STOP_DONE has been pulsed
  exits   : List Nat       -- requests (slots) newly marked to exit here (R193)
  exitMask : Bool          -- its exit mask has been sent
  pass    : Nat            -- pass now running (R133)
  placed  : List Nat       -- row groups with routing rows that the junction has placed, in order (R187); of a HEAD stop, decided
  waits   : Nat            -- routing waits of the stop already passed (R187)
  judged  : List Nat       -- row groups whose probe rows have been judged (R193)
  confs   : List (Nat × Word)      -- confidence per probe row (R193)
  data    : List (Nat × Payload)   -- the flits that have arrived (R85, R138, R317, R355)
  gathered : Bool          -- EMBED: the gather has run (R324)
  terms   : List Nat       -- EMBED: rows with a valid term (R322)
  spoiled : List Nat       -- EMBED: rows whose lookup or bag names a poisoned table (R351)
  tick    : Nat            -- the tick that opened it
  deriving DecidableEq, Repr

/-- A consignment of the current tick (R97, R517). -/
structure Consign where
  plan  : ConsPlan
  kind  : Nat              -- flit KIND: 0x21, 0x22 or 0x23
  sent  : Bool
  ended : Bool             -- ended under R105 or abandoned under R106
  left  : Bool             -- sent before the lenient end that abandoned it: its flits still complete it (R39, R106)
  done  : Bool             -- complete and released (R104)
  got   : List (Nat × Nat × Payload)   -- SRC, FIDX, payload
  deriving DecidableEq, Repr

/-- A routing record (R190). -/
structure RouteRec where
  stop     : Nat
  row      : Nat
  nonfin   : Bool
  probed   : Bool
  exited   : Bool
  mode     : Nat
  k        : Nat
  choice   : List Nat      -- CHOICE0 to CHOICE3, as bytes
  final    : List Nat      -- FINAL0 to FINAL3, as bytes
  conf     : BitVec 16
  tenant   : Nat
  g        : List Word
  deriving DecidableEq, Repr

/-- States of a request that is not FREE (R391). -/
inductive ReqSt where
  | queued | prefill | decode | pausing | paused | resuming
  deriving DecidableEq, Repr

/-- A request entry (R391) with its token history (R364) and page list (R402). -/
structure Req where
  slot      : Nat
  st        : ReqSt
  line      : Nat
  pre       : ReqSt
  prio      : Nat
  exitEn    : Bool
  adapt     : Bool
  routeMode : Nat
  cancelP   : Bool
  pauseP    : Bool
  resumeP   : Bool
  endP      : Bool
  held      : Bool
  skipped   : Bool
  wmask     : Nat
  tag       : Word
  tenant    : Nat
  comp      : List Word
  w         : List Word
  vocab     : Word
  bag       : Word
  deadline  : Option Nat
  ttlAt     : Option Nat
  ttl       : Nat
  promptLen : Nat
  done      : Nat
  pos       : Nat
  maxGen    : Nat
  seq       : Nat
  samp      : Sampling
  ringBase  : DWord
  ringLog2  : Nat
  drafts    : List Word
  steps     : Nat
  openTick  : Nat
  trainMask : Nat
  bwdSteps  : Nat
  hist      : List Word             -- emitted tokens, oldest first, at most 64
  lastTok   : Word                  -- token of row 0 of a decode step
  pages     : List (Bool × Nat)     -- PARKED, page number
  moves     : List (Nat × Nat)      -- page moves under way: list index, destination page
  own2      : List Nat              -- pages of the T2 pool that the request holds (R403, R404)
  own4      : List Nat              -- pages of the parking pool that it holds
  lastRows  : Nat × Nat             -- first KV position and rows of the last step (R399)
  lastFinal : Bool                  -- the last step held the final prefill chunk
  cancelAt  : Option Nat            -- tick from which its rows are cancelled (R396)
  exitAt    : Option Nat            -- tick from which its rows are exited (R52)
  noRoom    : Bool                  -- R382
  prod      : Word                  -- PROD of its ring at the last header read (R382), and as written since
  cons      : Word
  irqMode   : Nat
  irqN      : Nat
  sinceIrq  : Nat                   -- records written since the last interrupt for the ring (R380)
  deriving DecidableEq, Repr

/-- A row fetched in the most recent completed EMBED tick of a line (R337, R338). -/
structure Fetched where
  handle : Word
  row    : Nat
  mult   : Nat
  band   : Nat            -- load of its band
  chan   : Nat            -- load of the channel that served it
  deriving DecidableEq, Repr

/-- What the gather of an EMBED tick gave (R324, R338, R352). -/
structure Gathered where
  distinct : Nat
  invalid  : Nat
  maxBlk   : Nat
  meanBlk  : Nat
  fetched  : List Fetched           -- rows read from the depot
  bands    : List (Word × List (Nat × Nat))
  base     : Nat                    -- the model's free values of its pooled vectors begin here (R325)
  deriving DecidableEq, Repr

/-- The tick machinery (R12 to R68). -/
structure TickSt where
  count    : Nat                    -- the tick counter (R28)
  latchHi  : Word                   -- R49
  cur      : Option Timetable       -- the timetable of the current tick
  next     : Option Timetable       -- built for the following tick
  build    : Nat                    -- TICK_STATUS.BUILD
  buildFor : Option Header          -- the tick being built
  run      : Run
  active   : Bool                   -- the current tick has unfinished work
  ackAt    : Nat
  late     : Bool                   -- TICK_LATE
  idle     : Bool
  execBuf  : Bool
  edge     : Edge
  lastEdge : Option Nat             -- last accepted or overrun edge (R25)
  lastRise : Nat
  starts   : List Nat               -- arrivals of the two most recent edges that started a tick, newest first (R30)
  cold     : Bool                   -- the next accepted edge is a cold start (R43)
  ann      : Option Header          -- announcement in force (R32)
  stops    : List Stop              -- opened stops, in the order opened
  pinStop  : Option Nat             -- STOP_VALID with STOP_ID
  shut     : List Nat               -- stops framed and closed while two others were open, which open later (R18)
  cons     : List Consign
  lateRows : Nat                    -- late rows counted in this tick (H2)
  skipped  : List Nat               -- head rows of a skipped HEAD stop (R21)
  recs     : List RouteRec          -- routing records of the current tick
  prevRecs : List RouteRec          -- of the last completed tick
  exitMasks : List (Nat × List Byte)   -- stops and payloads of this tick's exit masks
  prevMasks : List (Nat × List Byte)
  sided    : Nat
  dropped  : Nat
  gather   : Option Gathered        -- EMBED: the gather's outcome
  decided  : List Nat               -- HEAD: requests decided or held (R371, R376)
  undo     : List Req               -- their entries before the decision, until the line's boundary (R421)
  tokWant  : Bool                   -- a ring written in this HEAD tick asks for its interrupt (R385)
  tokens   : Nat                    -- HEAD_STATUS and HEAD_DRAFTS of this tick (R386)
  heldReq  : Nat
  accepted : Nat
  verified : Nat
  skips    : List Nat               -- stops skipped under R21
  steps    : Nat                    -- ADAPT_STATUS of this tick (R449)
  abandoned : Nat
  failed   : List Nat               -- wagons whose frames failed parity three times in this tick (R304)
  deriving DecidableEq, Repr

/-- A frame of a car's wagon area and the wagon it is allocated to (R277, R280), with the location that its fetch reads (R281). -/
structure Frame where
  train : Nat
  car   : Nat
  slot  : Nat
  addr  : Nat
  last  : Nat              -- the last tick of the window that uses it
  group : Option Nat       -- the fetch group that still fetches it
  home  : Nat              -- the fetch group that fetched it last
  tier  : Nat              -- where its fetch reads: tier and run number; tier 0 is another frame (R298)
  loc   : Word
  fails : Nat              -- parity failures in the current tick (R304)
  deriving DecidableEq, Repr

/-- Status of the last completed ticks (PASS_STATUS, ROUTE_STATUS, HEAD_STATUS, HEAD_DRAFTS, EMBED_STATUS, CHAN_LOAD,
ADAPT_STATUS, WINDOW_STATUS, XCH_STATUS.RED_LAT_NS, TIER_LAT.MEAS_NS, per-train status). -/
structure LastTick where
  passes   : Nat
  removed  : Nat
  sided    : Nat
  dropped  : Nat
  tokens   : Nat
  heldReq  : Nat
  accepted : Nat
  verified : Nat
  distinct : Nat
  invalid  : Nat
  maxBlk   : Nat
  meanBlk  : Nat
  steps    : Nat
  abandoned : Nat
  minFrames : Nat
  depth    : Nat
  redLat   : Nat
  measLat  : List Nat
  trainBusy : List Nat
  trainFrames : List Nat
  deriving DecidableEq, Repr

/-- A final record that waits (R409). -/
structure FinalRec where
  tag      : Word
  status   : Nat
  stamp    : Word
  ringBase : DWord
  ringLog2 : Nat
  since    : Nat           -- records written since the ring's last interrupt (R380)
  asked    : Bool          -- its ring's header is being read, the slot having been freed by an expiry (R408)
  deriving DecidableEq, Repr

/-- A row of a manifest (R412). -/
structure MRow where
  slot    : Nat
  tag     : Word
  token   : Word
  kv      : Nat
  page    : Word
  prefill : Bool
  head    : Bool
  first   : Bool
  draft   : Nat
  held    : Bool
  tenant  : Nat
  deriving DecidableEq, Repr

/-- A row of a backward set (R431): host row, request, its priority, the trained slots with handle, version and weight. -/
structure BRow where
  row    : Nat
  prio   : Nat
  train  : Nat
  parts  : List (Nat × Word × Word × Word)   -- slot, handle, version, g
  outAt  : Option Nat                        -- tick from which the row had left the layers
  deriving DecidableEq, Repr

/-- One line (R12 to R14, R410, R431). -/
structure LineSt where
  step     : Nat                     -- STEP of the manifest last published
  manTick  : Nat
  rows     : List MRow
  last     : Option (Nat × Nat)      -- kind and layer of the line's last tick (R13)
  boundary : Bool                    -- a HEAD tick has ended and its boundary is due
  headTick : Nat                     -- that HEAD tick
  embTok   : List (Nat × Word)       -- token ids of the line's most recent EMBED tick
  prefillN : Nat                     -- YARD_STATUS.PREFILL_Ll
  busyP    : Nat
  busyD    : Nat
  lastP    : Nat                     -- of the most recent completed step (R162)
  lastD    : Nat
  stepped  : Bool                    -- a step has completed (R162)
  back     : List BRow
  layerAt  : List (Nat × Nat)        -- layer, tick at which it ran in the current step
  visits   : List (Word × Nat)       -- planned visits of the step, per handle (R283)
  started  : Bool                    -- a manifest has been published since RST_N
  deriving DecidableEq, Repr

/-- A part-table entry (R212). -/
structure Part where
  layer  : Nat
  stop   : Nat
  rank8  : Nat
  inW64  : Nat
  outW64 : Nat
  first  : Nat
  aW     : Nat
  bW     : Nat
  sW     : Nat
  vW     : Nat
  xW     : Nat
  expert : Nat
  router : Bool
  deriving DecidableEq, Repr

/-- A stored table row (R330): the header entry and the codes of both slots. -/
structure TRow where
  scale0  : BitVec 16
  zero0   : Byte
  gen0    : BitVec 16
  scale1  : BitVec 16
  zero1   : Byte
  gen1    : BitVec 16
  active  : Bool
  pending : Bool
  int4    : Bool           -- REGION
  regIdx  : Nat
  codes0  : List Byte
  codes1  : List Byte
  deriving DecidableEq, Repr

/-- A copy of an object (R211, R214, R232). -/
structure Copy where
  regionB : Bool           -- copy region B of R231
  kind    : Nat
  sealed  : Bool
  trainable : Bool
  shared  : Bool
  xtenant : Bool
  version : Word
  fmt     : Nat
  mx6v    : Bool
  origFmt : Nat
  form    : Nat
  swId    : Nat
  route   : Word
  cf      : Nat
  salt    : Word
  wagons  : Nat
  bodyOff : Nat
  keySlot : Nat
  cols    : Nat            -- tenant tables
  split   : Bool
  parts   : List Part
  rows    : List TRow
  head    : Nat            -- the identity of its head units (R241)
  deriving DecidableEq, Repr

/-- Slot states other than FREE (R264). -/
inductive SlotSt where
  | loading | stagedNew | installed | staging | staged | releasing
  deriving DecidableEq, Repr

/-- Optimiser state of a trained copy (R447) beside the moment blocks held in the adapter space. -/
structure OptSt where
  opt   : Nat
  pmask : Nat
  hyper : List Word        -- LR, B1, B2, EPS, WD, GSCALE, CLIP
  t     : List Nat         -- step count per part
  ready : Bool             -- its zeros have landed (R427)
  closing : Bool           -- released by an ADAPT_ENABLE with OPT 0; steps already built still run
  deriving DecidableEq, Repr

/-- An occupied directory slot (R214, R264). -/
structure Dir where
  slot     : Nat
  handle   : Word
  tenant   : Nat
  st       : SlotSt
  cur      : Option Copy
  next     : Option Copy
  landing  : Nat           -- of the build under way
  image    : Nat × Nat     -- IMAGE_ADDR and LENGTH of the build under way
  table    : Bool          -- the build was asked for by TABLE_LOAD
  poisoned : Bool
  heat     : Nat
  accFmt   : Nat           -- format and wagons in the accounting (R288, R289)
  accWag   : Nat
  opt      : Option OptSt
  conv     : Option Nat    -- format of a decided conversion that is not yet remapped (R288, R289, R292)
  old      : Option (Nat × Option Copy)   -- until this tick's TICK_ACK the handle resolves to the copy named here (R266)
  headRead : Option Nat    -- BODY_OFFSET of the build's image, once its header is read and passes check 1 (R264)
  prior    : Option (Nat × Copy)   -- the copy before a conversion, for ticks up to the one named, built before the remap (R251)
  convRuns : Nat × List Nat   -- tier and run numbers taken for the new runs of a decided conversion (R251, R294)
  former   : Option Copy   -- the copy that a commit has replaced, until its space is released (R233, R268)
  optNext  : Option OptSt  -- the state that an ADAPT_ENABLE creates once the steps of the one before it have run (R427)
  deriving DecidableEq, Repr

/-- What a charge is for (R252). -/
inductive ChargeKind where
  | head | wagons | table | state
  deriving DecidableEq, Repr

/-- An entry of the accounting (R252, R293). -/
structure Charge where
  slot    : Nat
  copy    : Nat            -- identity of the copy (its `head`), also of the copy that a state serves
  kind    : ChargeKind
  tenant  : Nat
  tier    : Nat
  wagons  : Nat
  runs    : Nat
  entries : Nat            -- tier-map entries
  relAt   : Option Nat     -- TICK_ACK at which it leaves the accounting
  deriving DecidableEq, Repr

/-- A tier-map entry (R245) with its run's address and its move record (R292). -/
structure TRun where
  addr   : Nat
  loc    : Word
  tier   : Nat             -- TIER, the assigned tier
  moving : Bool
  dirty  : BitVec 16
  dest   : Option Word     -- the run of the destination that a move under way fills
  src    : Nat             -- the tier that LOC lies in; 0 while a new copy waits for runs (R294)
  due    : Bool            -- decided for a move or conversion and not yet remapped
  built  : Bool            -- its part of a conversion has been built
  deriving DecidableEq, Repr

/-- A source run that still serves fetches or ticks issued before its remap (R249, R251). -/
structure Stale where
  addr : Nat
  tier : Nat
  loc  : Word
  tick : Nat               -- the last tick built before the remap of a conversion; 0 for a move
  deriving DecidableEq, Repr

/-- What the tier of a dirty wagon, or of a state block, holds until its write-back lands (R262, R295), the tick whose step wrote it
last, and tick and bytes of the write-back under way (R297). -/
structure TierCopy where
  addr  : Nat
  tick  : Nat
  bytes : List Byte
  sent  : Option (Nat × List Byte)
  deriving DecidableEq, Repr

/-- An update of one table row in flight (R343). -/
structure RowUp where
  ring    : Nat
  num     : Word
  slot    : Nat
  row     : Nat
  gen     : BitVec 16
  due     : Nat
  started : Bool                    -- WRITING: its record is being read (R343)
  written : Bool
  deriving DecidableEq, Repr

/-- A tenant's record beside its charges (R595). -/
structure Tenant where
  id    : Nat
  quota : List (Option Word)   -- tiers 1 to 4; none follows QUOTA_DEFk
  st    : Scope
  deriving DecidableEq, Repr

/-- An installed special working (R70). -/
structure Special where
  id    : Nat
  image : List Byte
  deriving DecidableEq, Repr

/-- A result record (R378). -/
structure ResRec where
  row    : Nat
  tag    : Word
  pos    : Nat
  out    : List (Word × BitVec 16 × Bool)   -- token, PROB, DRAFT
  drafts : List Word
  fin    : Bool
  masked : Bool
  exited : Bool
  held   : Bool
  full   : Bool
  dseq   : Bool
  deriving DecidableEq, Repr

/-- The exchange unit beside its link (R519 to R524). -/
structure Xch where
  st      : Nat            -- 0 DOWN, 1 LINKED, 2 JOINED, 3 LOST
  joinErr : Nat
  joining : Bool
  joinGot : List (Nat × Payload)
  timeout : Nat            -- XCH_TIMEOUT in force (R548)
  deriving DecidableEq, Repr

/-- The group digest (R416 to R420). -/
structure Digest where
  sec1     : List (Nat × List Byte)   -- tick of the read, bytes
  sec1Done : List (Nat × List Byte)   -- TABLE_ROW_UPDATEs completed since the previous digest: place read, bytes
  sec4     : List (Nat × Word)   -- decision lists' CRCs with the tick whose digest takes them (R290)
  sec7     : List Byte
  expired  : List (Nat × Nat × Word)   -- tick, slot, tag
  results  : Option (List Byte)   -- result records of the most recent HEAD tick, none before the first (R417)
  fresh    : Bool          -- the first tick after an ENABLE of the engine (R420)
  flits    : List (Nat × Payload)   -- returned for the digest that was sent last
  compared : List (Nat × Payload)   -- the most recent compared tick's (ITEM 0x1A)
  sent     : Option Payload
  sections : Nat           -- DIGEST_STATUS.SECTIONS
  tickLo   : Word
  deriving DecidableEq, Repr

/-- Causes of a halt (R567). -/
inductive HaltCause where
  | thermal | supply | internal
  deriving DecidableEq, Repr

/-- Power, thermal and supply state (R550 to R570). Powers in 0.25 W, T_j in 0.25 °C, rails in mV. -/
structure Power where
  duty     : Nat
  pTherm   : Nat
  cEff     : Nat
  pEst     : Nat           -- P_est of the last window, in mW
  prePause : Nat           -- P_est of the last window before the pause (R555)
  sumEst   : Nat           -- over the current tick
  nEst     : Nat
  meanTick : Nat
  throttle : Bool          -- THROTTLE_N low
  droop    : Bool
  ramping  : Nat           -- µs of the resume ramp left (R559)
  warn     : Bool
  tthrot   : Bool
  clamped  : Bool
  halted   : Option HaltCause
  trip     : Bool          -- THERM_TRIP_N asserted
  tj       : Int
  site     : Nat
  tjPeak   : Int
  vddIx    : Nat
  vddDep   : Nat
  vddIo    : Nat
  vixLow   : Nat
  procMin  : Nat
  procMean : Nat
  energy   : Nat           -- nJ below a joule (CNT_ENERGY_J)
  us       : Nat           -- µs below a second (CNT_UPTIME_S)
  hUs      : Nat           -- µs below a ms (H3, H4)
  usable   : Nat           -- U′ of R556 when the executing timetable was built (GOVERNED, R569)
  deriving DecidableEq, Repr

/-- The logbook (R575 to R580). -/
structure Logbook where
  cnt      : Vector DWord 64
  hist     : List (Vector DWord 32)   -- H0 to H4
  saves    : Nat
  restore  : Nat           -- 0 not attempted, 1 DONE, 2 FAILED, 3 in progress
  busy     : List Nat      -- host writes of a save in progress
  tjMax    : Int
  vixMin   : Nat
  vixMax   : Nat
  procMin  : Nat
  procMax  : Nat
  deriving DecidableEq, Repr

/-- The readback window (R591, R592). -/
structure Readback where
  st       : Nat           -- 0 IDLE, 1 BUSY, 2 READY, 3 ABORTED, 4 ERROR
  cause    : Nat
  unmapped : Bool
  parity   : Bool
  bytes    : List Byte
  tick     : Nat
  deriving DecidableEq, Repr

/-- A SNAPSHOT that is not complete (R602 to R607). -/
structure Snap where
  ring     : Nat
  num      : Word
  logOnly  : Bool
  dest     : Nat
  limit    : Nat
  readTick : Nat
  size     : Nat
  tick     : Nat
  writes   : List Nat      -- host writes it waits for
  taken    : Bool          -- captured
  atOnce   : Bool          -- IX7 was idle, or the engine not ENABLED, at its read (R602)
  held     : Bool          -- after a warm reset: waits for the next ENABLE of the engine (R607)
  deriving DecidableEq, Repr

/-- Tenant-table cache selection (R336, R337): handle, row (none: the whole table), valid. -/
structure CacheEnt where
  handle : Word
  row    : Option Nat
  valid  : Bool
  deriving DecidableEq, Repr

/-- What a build works from, as it stood when the build began (R50, R51). -/
structure Inputs where
  reqs     : List Req
  lines    : Vector LineSt 2
  dirs     : List Dir
  exitCfg  : List (List Word)
  trains   : List (Scope × Nat)
  power    : Power
  regs     : List (Nat × Word)
  specials : List Special
  free     : Nat
  frames   : List Frame    -- as the fetches of the program that runs will leave them
  dirty    : List Nat      -- dirty wagons
  flying   : List Nat      -- wagons and blocks whose write-back is under way
  deriving DecidableEq, Repr

/-- The machine. -/
structure State where
  pending  : List Instr
  now      : Nat                     -- time of the latest timed event, in CLK_CORE cycles
  free     : Nat                     -- the model's own counter of free values used
  build    : Build
  fuses    : List Nat                -- clusters fused off, ascending (R573)
  powered  : Bool
  rstN     : Bool
  warmN    : Bool
  wrapper  : WrapperInstr
  hb       : Bool
  tickAck  : Bool                    -- TICK_ACK was pulsed by the latest command
  stopDone : List Nat                -- stops whose STOP_DONE the latest command pulsed
  regs     : List (Nat × Word)       -- RW registers by CFG offset, ascending
  keys     : List (List Word)        -- publisher keys (R222)
  budget   : Nat                     -- TICK_CTL.BUDGET in force (R47)
  shuntBw  : Word                    -- in force (R312)
  shuntCfg : List Word               -- SHUNT_CTL and the HEAT registers in force
  yardCfg  : List Word               -- YARD_CFG in force, per line (R165)
  manCfg   : List Word               -- MANIFEST_CFG in force, per line (R423)
  exitCfg  : List (List Word)        -- EXIT_CTL0, EXIT_HANDLE0, ... latched, per line (R198)
  tableCfg : Word                    -- TABLE_CFG in force (R353)
  negot    : List Nat                -- NEG_STATUS: descriptor, ring record, port, timetable
  fw       : Nat × Nat × Nat         -- FW_STATUS.STATE, FW_MAJOR, FW_MINOR
  reserve  : Bool                    -- RESERVE_DONE
  errs     : BitVec 17               -- ERR_STATUS
  errFirst : Option Nat
  errTick  : Word
  irqPend  : BitVec 5
  complAt  : Option Nat              -- time of the last COMPL interrupt
  complDue : Bool                    -- one is deferred (R485)
  tokenAt  : Option Nat
  tokenDue : Bool
  engine   : Scope
  quiesceAt : Nat                    -- time of the engine QUIESCE's read
  trains   : List (Scope × Nat)      -- per train: state, tick of the QUIESCE's read
  rings    : Vector Ring 8
  taken    : List Taken
  unsol    : List Unsol
  writes   : List HostWrite
  reads    : List FmRead
  nextId   : Nat
  links    : Vector Link 32          -- by port code of R505
  xch      : Xch
  tick     : TickSt
  last     : LastTick
  lines    : Vector LineSt 2
  inputs   : Option Inputs           -- of the build under way (R51)
  frames   : List Frame              -- the wagon areas of the platforms (R277 to R280)
  digest   : Digest
  reqs     : List Req                -- occupied slots, ascending
  gens     : List (Nat × Nat)        -- generations that are not 0, ascending
  opens    : Nat                     -- accepted opens (SEQ)
  finals   : List FinalRec           -- oldest first
  used2    : List Nat                -- T2 pages in use
  used4    : List Nat
  dirs     : List Dir                -- occupied slots, ascending
  charges  : List Charge
  headRuns : List (List Nat)         -- T1 head runs: 16 units each, 0 free, else the copy's identity
  tmap     : List TRun
  stale    : List Stale
  tierOld  : List TierCopy
  tenants  : List Tenant
  rowUps   : List RowUp
  flips    : List (Nat × Nat)        -- slot and row flipped in the tick under way (R343)
  lastSeq  : Nat                     -- descriptors taken
  specials : List Special
  trainErr : List (Nat × Nat)        -- TRAIN_ERR: PARITY and REREAD, per train (R590)
  cache    : List CacheEnt
  fetched  : List (List Fetched)     -- per line
  bands    : List (Word × List (Nat × Nat))  -- per table, loads of its bands in the last EMBED tick (R338)
  results  : List ResRec             -- of the HEAD tick under way
  snaps    : List Snap
  rb       : Readback
  power    : Power
  log      : Logbook
  adMem    : List Host.Cell          -- the adapter space; an unlisted address reads 0 (R235)
  deriving DecidableEq, Repr

/-- Canonical form of the adapter space: addresses strictly rising, no entry equal to 0. -/
abbrev Memory.wf (m : List Host.Cell) : Prop :=
  m.Pairwise (fun a b => a.1 < b.1) ∧ ∀ c ∈ m, c.2 ≠ 0

/-- A link in state `st` with nothing sent or received. -/
def Link.fresh (st : LinkSt) : Link :=
  ⟨st, false, false, false, 0, 0, false, none, [], [], [], 0, 0, [], none⟩

/-- The trains of a configuration (R2). -/
def Build.trains : Build → Nat
  | .ix128 => 8 | .ix256 => 16 | .ix512 => 32

/-- The fabric ports of a configuration (R2). -/
def Build.fmPorts : Build → Nat
  | .ix128 => 4 | .ix256 => 8 | .ix512 => 16

/-- The RW registers with their reset values, by CFG offset: the tables of each chapter (R587). T1_LIMIT and FM_CFG.MASK
depend on the configuration and are those of IX7-512 with no cluster disabled (assumption log 1). -/
def resetRegs : List (Nat × Word) :=
  [(0x0104, 0), (0x0180, 0), (0x0188, 0), (0x01C0, 0), (0x01C4, 0), (0x01C8, 0), (0x1000, 0), (0x1004, 0), (0x100C, 0x40)]
  ++ (List.range 8).flatMap (fun k => [(0x1040 + 0x20 * k, 0), (0x1044 + 0x20 * k, 0), (0x1048 + 0x20 * k, 0),
      (0x104C + 0x20 * k, 0), (0x1050 + 0x20 * k, 0x606)])
  ++ [(0x2000, 0), (0x2004, 0x10), (0x2008, 0), (0x200C, 0x32), (0x2020, 0)]
  ++ (List.range 6).map (fun k => (0x2040 + 4 * k, 0xF9F))
  ++ [(0x2060, 0x00040402)]
  ++ (List.range 8).flatMap (fun p => [(0x2080 + 8 * p, 0x3F80), (0x2084 + 8 * p, 0)])
  ++ [(0x20C0, 0x3FE1F), (0x20C4, 0), (0x20D0, 0x08002000), (0x20D4, 0x08002000), (0x20D8, 0), (0x20DC, 0), (0x20E0, 0),
      (0x20E4, 0), (0x2100, 0), (0x2108, 0), (0x210C, 0), (0x2110, 0), (0x2114, 0), (0x3000, 0x2D0), (0x3008, 4)]
  ++ [(0x4000, 0xFFFFFFFF), (0x4004, 0xFFFFFFFF), (0x4008, 0xFFFFFFFF), (0x400C, 0xFFFFFFFF), (0x4010, 122368)]
  ++ (List.range 3).flatMap (fun k => [(0x4020 + 16 * k, 0), (0x4024 + 16 * k, 0), (0x4028 + 16 * k, 0)])
  ++ [(0x4050, 200), (0x4054, 1000), (0x4058, 3000), (0x405C, 10000), (0x4080, 0xF4100000), (0x4084, 0x808),
      (0x4088, 0x100), (0x408C, 0x20), (0x4090, 0x1000), (0x40A0, 0x04043010), (0x40A4, 0x20), (0x40A8, 0x40000),
      (0x40C0, 0x83FF0010), (0x40C4, 0), (0x40C8, 0), (0x40CC, 0), (0x40D0, 0), (0x40D4, 0), (0x40D8, 0), (0x40DC, 0),
      (0x40E0, 0)]
  ++ [(0x5004, 0), (0x5010, 0), (0x5018, 0), (0x5020, 0), (0x5024, 0), (0x5028, 0), (0x5034, 0x0064FFFF), (0x7000, 0),
      (0x7004, 0), (0x8000, 0), (0x8004, 0), (0x8008, 0), (0x800C, 1)]

/-- No header. -/
def Header.zero : Header := ⟨0, 0, 0, 0⟩

/-- The tick machinery after RST_N. -/
def TickSt.reset : TickSt :=
  ⟨0, 0, none, none, 0, none, ⟨0, [], true, [], [], [], [], [], [], [], [], []⟩, false, 0, false, true, false, .none, none, 0, [], true, none, [],
   none, [], [], 0, [], [], [], [], [], 0, 0, none, [], [], false, 0, 0, 0, 0, [], 0, 0, []⟩

/-- The status of completed ticks after RST_N. -/
def LastTick.reset : LastTick := ⟨0, 0, 0, 0, 0, 0, 0, 0, 0, 0, 0, 0, 0, 0, 0, 0, 0, [0, 0, 0, 0], [], []⟩

/-- A line after RST_N. -/
def LineSt.reset : LineSt := ⟨0, 0, [], none, false, 0, [], 0, 0, 0, 0, 0, false, [], [], [], false⟩

/-- Power state after RST_N (R562, R582, R583). -/
def Power.reset : Power :=
  ⟨64, 1000, 720, 0, 0, 0, 0, 0, false, false, 0, false, false, false, none, false, 0, 0, 0, 0, 0, 0, 0xFFFF, 0, 0, 0, 0, 0, 0⟩

/-- The logbook after RST_N, before its rise is counted (R575). -/
def Logbook.reset : Logbook :=
  ⟨Vector.replicate 64 0, List.replicate 5 (Vector.replicate 32 0), 0, 0, [], -32768, 65535, 0, 65535, 0⟩

/-- The block while RST_N is low and every rail is in range (R541). -/
def State.inReset : State where
  pending := []
  now := 0
  free := 0
  build := .ix512
  fuses := []
  powered := true
  rstN := false
  warmN := true
  wrapper := .bypass
  hb := false
  tickAck := false
  stopDone := []
  regs := resetRegs
  keys := List.replicate 16 (List.replicate 8 0)
  budget := 0
  shuntBw := 0x808
  shuntCfg := [0xF4100000, 0x100, 0x20, 0x1000]
  yardCfg := [0x00040402, 0x00040402]
  manCfg := [0x08002000, 0x08002000]
  exitCfg := List.replicate 2 ((List.range 8).flatMap fun _ => [0x3F80, 0])
  tableCfg := 0x04043010
  negot := [0, 0, 0, 0]
  fw := (0, 0, 0)
  reserve := false
  errs := 0
  errFirst := none
  errTick := 0
  irqPend := 0
  complAt := none
  complDue := false
  tokenAt := none
  tokenDue := false
  engine := .quiesced
  quiesceAt := 0
  trains := List.replicate 32 (.enabled, 0)
  rings := Vector.replicate 8 ⟨0, 0, 0, 0, .enabled, 0⟩
  taken := []
  unsol := []
  writes := []
  reads := []
  nextId := 1
  links := Vector.replicate 32 (Link.fresh .down)
  xch := ⟨0, 0, false, [], 0x32⟩
  tick := TickSt.reset
  last := LastTick.reset
  lines := Vector.replicate 2 LineSt.reset
  inputs := none
  frames := []
  digest := ⟨[], [], [], [], [], none, true, [], [], none, 0, 0⟩
  reqs := []
  gens := []
  opens := 0
  finals := []
  used2 := []
  used4 := []
  dirs := []
  charges := []
  headRuns := []
  tmap := []
  stale := []
  tierOld := []
  tenants := []
  rowUps := []
  flips := []
  lastSeq := 0
  specials := []
  trainErr := List.replicate 32 (0, 0)
  cache := []
  fetched := [[], []]
  bands := []
  results := []
  snaps := []
  rb := ⟨0, 0, false, false, [], 0⟩
  power := Power.reset
  log := Logbook.reset
  adMem := []

/-- The machine right after reset: RST_N has risen, CFG is ready and every link is in INIT (R540, R541); the reserve is
not yet initialised and no firmware is loaded. The rise of RST_N has counted (R575 index 42). -/
def State.reset : State :=
  { State.inReset with
    rstN := true
    links := Vector.replicate 32 (Link.fresh .init)
    log := { Logbook.reset with cnt := (Vector.replicate 64 0).setIfInBounds 42 1 } }

end Sys2Proof.Machine
end

