-- ==== Sys2Proof/Machine/Bits.lean ====
section
/-! DEFINITION. Bit fields, byte strings, CRC-32C (R497), serial numbers (R384) and the adapter space's bytes. Memory is
little-endian and a field hi:lo starts at bit lo (00_scope, notation). -/
namespace Sys2Proof.Machine
open Sys2Proof

/-- Field of `len` bits at bit `lo`. -/
def fld {n : Nat} (w : BitVec n) (lo len : Nat) : Nat := (w.toNat >>> lo) % 2 ^ len

/-- A value placed in a field of `len` bits at bit `lo`. -/
def put (lo len v : Nat) : Nat := (v % 2 ^ len) <<< lo

/-- A register word from its fields: (lo, len, value). -/
def packN (fs : List (Nat × Nat × Nat)) : Nat := fs.foldl (fun a f => a + put f.1 f.2.1 f.2.2) 0

/-- A 32-bit register word from its fields. -/
def packWord (fs : List (Nat × Nat × Nat)) : Word := BitVec.ofNat 32 (packN fs)

/-- A Bool as a bit. -/
def b2n (b : Bool) : Nat := if b then 1 else 0

/-- `n` bytes of a value, least significant first. -/
def leBytes : Nat → Nat → List Byte
  | 0, _ => []
  | n + 1, v => BitVec.ofNat 8 v :: leBytes n (v / 256)

/-- The value of a byte string, least significant byte first. -/
def leNat : List Byte → Nat
  | [] => 0
  | b :: bs => b.toNat + 256 * leNat bs

/-- Bytes `off` to `off + n - 1` of a string as a value; absent bytes read 0. -/
def bytesAt (bs : List Byte) (off n : Nat) : Nat := leNat ((bs.drop off).take n)

/-- A byte string padded with zeros to a length. -/
def padTo (n : Nat) (bs : List Byte) : List Byte := bs ++ List.replicate (n - bs.length) 0

/-- Smallest multiple of `m` at or above `n`. -/
def roundUp (n m : Nat) : Nat := (n + m - 1) / m * m

/-- Division rounding up. -/
def ceilDiv (n m : Nat) : Nat := (n + m - 1) / m

/-- Bit-serial step of CRC-32C, reflected: the polynomial 0x1EDC_6F41 reversed (R497). -/
def crcBit : Nat → Nat → Nat
  | 0, c => c
  | n + 1, c => crcBit n (if c % 2 = 1 then (c / 2) ^^^ 0x82F63B78 else c / 2)

/-- CRC-32C of a byte string (R497); of no bytes it is 0. -/
def crc32c (bs : List Byte) : Word :=
  BitVec.ofNat 32 (bs.foldl (fun c b => crcBit 8 (c ^^^ b.toNat)) 0xFFFFFFFF ^^^ 0xFFFFFFFF)

/-- a is later than b as serial numbers of `m` values (R384, R342). -/
def serialAfter (m a b : Nat) : Bool :=
  let d := (a + m - b % m) % m
  decide (1 ≤ d ∧ d < m / 2)

/-- Bytes of a bit vector, least significant first. -/
def bvBytes {n : Nat} (v : BitVec n) : List Byte := leBytes (n / 8) v.toNat

/-- List update at an index; out of range it leaves the list. -/
def setAt {α : Type} : List α → Nat → α → List α
  | [], _, _ => []
  | _ :: xs, 0, v => v :: xs
  | x :: xs, i + 1, v => x :: setAt xs i v

/-- Modify every element that satisfies `p`. -/
def updWhere {α : Type} (p : α → Bool) (f : α → α) (xs : List α) : List α := xs.map fun x => if p x then f x else x

/-- Field of a byte string: byte, bit within it, length. -/
def bF (bs : List Byte) (byte lo len : Nat) : Nat := (bytesAt bs byte 8 >>> lo) % 2 ^ len

/-- Change the first element that meets a condition. -/
def updFirst {α : Type} (p : α → Bool) (f : α → α) : List α → List α
  | [] => []
  | x :: xs => if p x then f x :: xs else x :: updFirst p f xs

/-- Insert or replace by a Nat key, ascending. -/
def putKey {α : Type} (key : α → Nat) (v : α) : List α → List α
  | [] => [v]
  | x :: xs => if key v < key x then v :: x :: xs else if key v = key x then v :: xs else x :: putKey key v xs

/-- The byte the adapter space holds at an address (R235, R248). -/
def memGet : List Host.Cell → Nat → Byte
  | [], _ => 0
  | c :: cs, a => if c.1 = a then c.2 else if a < c.1 then 0 else memGet cs a

/-- Write one byte, keeping the canonical form. -/
def memPut : List Host.Cell → Nat → Byte → List Host.Cell
  | [], a, v => if v = 0 then [] else [(a, v)]
  | c :: cs, a, v =>
    if a < c.1 then (if v = 0 then c :: cs else (a, v) :: c :: cs)
    else if c.1 = a then (if v = 0 then cs else (a, v) :: cs)
    else c :: memPut cs a v

/-- Write a byte string from an address upward. -/
def memPutAll (m : List Host.Cell) : Nat → List Byte → List Host.Cell
  | _, [] => m
  | a, b :: bs => memPut (memPutAll m (a + 1) bs) a b

/-- Read `n` bytes from an address upward. -/
def memGetAll (m : List Host.Cell) (a : Nat) : Nat → List Byte
  | 0 => []
  | n + 1 => memGet m a :: memGetAll m (a + 1) n

/-- Drop every byte of a range. -/
def memClear (m : List Host.Cell) (lo hi : Nat) : List Host.Cell := m.filter fun c => decide (c.1 < lo ∨ hi ≤ c.1)

/-- Insertion sort by a strict order. -/
def insertBy {α : Type} (lt : α → α → Bool) (v : α) : List α → List α
  | [] => [v]
  | x :: xs => if lt x v then x :: insertBy lt v xs else v :: x :: xs

/-- Stable sort by a strict order. -/
def sortBy {α : Type} (lt : α → α → Bool) (xs : List α) : List α := xs.foldr (insertBy lt) []

/-- Lexicographic comparison of key lists. -/
def keyLt : List Nat → List Nat → Bool
  | [], [] => false
  | [], _ :: _ => true
  | _ :: _, [] => false
  | a :: as, b :: bs => if a < b then true else if b < a then false else keyLt as bs

end Sys2Proof.Machine
end

