-- ==== Sys2Proof/Machine/Fp.lean ====
section
/-! DEFINITION. IEEE 754 binary32 arithmetic, round to nearest with ties to even (R117, R178), and bf16. Each operation is
formed exactly on integers and rounded once. -/
namespace Sys2Proof.Machine
open Sys2Proof

/-- A binary32 value: NaN, an infinity, or sign and magnitude m × 2^e. -/
inductive FpVal where
  | nan
  | inf (neg : Bool)
  | fin (neg : Bool) (m : Nat) (e : Int)
  deriving DecidableEq, Repr

/-- The value of a binary32 word. -/
def fpVal (w : Word) : FpVal :=
  let neg := fld w 31 1 = 1
  let ex := fld w 23 8
  let fr := fld w 0 23
  if ex = 255 then (if fr = 0 then .inf neg else .nan)
  else if ex = 0 then .fin neg fr (-149) else .fin neg (fr + 0x800000) (ex - 150)

/-- The canonical quiet NaN (R118). -/
def fpNaN : Word := 0x7FC00000
/-- Infinity of a sign. -/
def fpInf (neg : Bool) : Word := if neg then 0xFF800000 else 0x7F800000
/-- 1.0. -/
def fpOne : Word := 0x3F800000
/-- Largest finite value of a sign. -/
def fpMax (neg : Bool) : Word := if neg then 0xFF7FFFFF else 0x7F7FFFFF

/-- Round the positive rational num/den × 2^e to binary32: nearest, ties to even, subnormals kept. -/
def fpRound (neg : Bool) (num den : Nat) (e : Int) : Word :=
  if num = 0 ∨ den = 0 then (if neg then 0x80000000 else 0) else
  -- choose q so that num/den × 2^e = (value in [2^23, 2^24)) × 2^q, then floor q at -149
  let lg : Int := (Nat.log2 num : Int) - (Nat.log2 den : Int)
  let q0 : Int := lg + e - 23
  let fits (q : Int) : Nat × Nat :=     -- numerator and denominator of value / 2^q
    if 0 ≤ e - q then (num * 2 ^ (e - q).toNat, den) else (num, den * 2 ^ (q - e).toNat)
  let q1 : Int := if (fits q0).1 < 0x800000 * (fits q0).2 then q0 - 1 else q0
  let q : Int := if q1 < -149 then -149 else q1
  let n := (fits q).1
  let d := (fits q).2
  let fl := n / d
  let r := n % d
  let m := if 2 * r > d ∨ (2 * r = d ∧ fl % 2 = 1) then fl + 1 else fl
  let m' := if m = 0x1000000 then 0x800000 else m
  let q' : Int := if m = 0x1000000 then q + 1 else q
  if m' < 0x800000 then BitVec.ofNat 32 ((if neg then 0x80000000 else 0) + m')
  else if q' + 150 ≥ 255 then fpInf neg
  else BitVec.ofNat 32 ((if neg then 0x80000000 else 0) + (q' + 150).toNat * 0x800000 + (m' - 0x800000))

/-- Sum, one rounding. -/
def fpAdd (a b : Word) : Word :=
  match fpVal a, fpVal b with
  | .nan, _ => fpNaN
  | _, .nan => fpNaN
  | .inf s, .inf t => if s = t then fpInf s else fpNaN
  | .inf s, _ => fpInf s
  | _, .inf t => fpInf t
  | .fin s m e, .fin t n f =>
    let g := min e f
    let x : Int := (if s then -1 else 1) * (m * 2 ^ (e - g).toNat : Nat)
    let y : Int := (if t then -1 else 1) * (n * 2 ^ (f - g).toNat : Nat)
    let z := x + y
    if z = 0 then (if s ∧ t then 0x80000000 else 0) else fpRound (z < 0) z.natAbs 1 g

/-- Negation. -/
def fpNeg (a : Word) : Word := a ^^^ 0x80000000

/-- Difference, one rounding. -/
def fpSub (a b : Word) : Word := fpAdd a (fpNeg b)

/-- Product, one rounding. -/
def fpMul (a b : Word) : Word :=
  match fpVal a, fpVal b with
  | .nan, _ => fpNaN
  | _, .nan => fpNaN
  | .inf s, .inf t => fpInf (s != t)
  | .inf s, .fin t n _ => if n = 0 then fpNaN else fpInf (s != t)
  | .fin s m _, .inf t => if m = 0 then fpNaN else fpInf (s != t)
  | .fin s m e, .fin t n f => fpRound (s != t) (m * n) 1 (e + f)

/-- Quotient, one rounding. -/
def fpDiv (a b : Word) : Word :=
  match fpVal a, fpVal b with
  | .nan, _ => fpNaN
  | _, .nan => fpNaN
  | .inf _, .inf _ => fpNaN
  | .inf s, .fin t _ _ => fpInf (s != t)
  | .fin s _ _, .inf t => if s != t then 0x80000000 else 0
  | .fin s m e, .fin t n f =>
    if n = 0 then (if m = 0 then fpNaN else fpInf (s != t))
    else fpRound (s != t) m n (e - f)

/-- The integer square root of n, built bit by bit below 2^k on `r`. -/
def sqrtBits (n : Nat) : Nat → Nat → Nat
  | 0, r => r
  | k + 1, r => sqrtBits n k (if (r + 2 ^ k) * (r + 2 ^ k) ≤ n then r + 2 ^ k else r)

/-- Square root, correctly rounded (R442): the root of the significand scaled by 2^80 or 2^81, with a sticky bit. -/
def fpSqrt (a : Word) : Word :=
  match fpVal a with
  | .nan => fpNaN
  | .inf s => if s then fpNaN else fpInf false
  | .fin s m e =>
    if m = 0 then a else if s then fpNaN else
    let odd := e % 2 = 1
    let n := m * 2 ^ (if odd then 81 else 80)
    let r := sqrtBits n 54 0
    fpRound false (2 * r + if r * r = n then 0 else 1) 1 ((e - if odd then 81 else 80) / 2 - 1)

/-- Ordered comparison a < b; false when either is NaN. +0 and −0 are equal. -/
def fpLt (a b : Word) : Bool :=
  match fpVal a, fpVal b with
  | .nan, _ => false
  | _, .nan => false
  | .inf s, .inf t => s && !t
  | .inf s, _ => s
  | _, .inf t => !t
  | .fin s m e, .fin t n f =>
    let g := min e f
    let x : Int := (if s then -1 else 1) * (m * 2 ^ (e - g).toNat : Nat)
    let y : Int := (if t then -1 else 1) * (n * 2 ^ (f - g).toNat : Nat)
    decide (x < y)

/-- a ≤ b on ordered values. -/
def fpLe (a b : Word) : Bool := !fpLt b a && fpVal a != .nan && fpVal b != .nan

/-- The value is a NaN. -/
def fpIsNaN (a : Word) : Bool := fpVal a == .nan

/-- The value is finite. -/
def fpFinite (a : Word) : Bool := fld a 23 8 ≠ 255

/-- Zero of either sign. -/
def fpZero (a : Word) : Bool := fld a 0 31 = 0

/-- binary32 to bf16, nearest with ties to even (R117). -/
def toBf16 (a : Word) : BitVec 16 :=
  if fpIsNaN a then 0x7FC0 else
  let n := a.toNat
  let up := n / 65536
  let r := n % 65536
  BitVec.ofNat 16 (if r > 32768 ∨ (r = 32768 ∧ up % 2 = 1) then up + 1 else up)

/-- bf16 to binary32, exact (R200). -/
def ofBf16 (h : BitVec 16) : Word := BitVec.ofNat 32 (h.toNat * 65536)

/-- A natural number as binary32. -/
def fpOfNat (n : Nat) : Word := fpRound false n 1 0

end Sys2Proof.Machine
end

