-- ==== Sys2Proof/Machine/Real.lean ====
section
/-! DEFINITION. Exact dyadic values, references with the sum of the magnitudes of their terms, and binary32 values that are free
within a bound around a reference (R113 to R116, R327, R439). -/
namespace Sys2Proof.Machine
open Sys2Proof

/-- The value m × 2^e. -/
structure Dyad where
  m : Int
  e : Int
  deriving DecidableEq, Repr

/-- Sum. -/
def Dyad.add (a b : Dyad) : Dyad :=
  if a.m = 0 then b else if b.m = 0 then a else
  let g := min a.e b.e
  ⟨a.m * 2 ^ (a.e - g).toNat + b.m * 2 ^ (b.e - g).toNat, g⟩
/-- Product. -/
def Dyad.mul (a b : Dyad) : Dyad := ⟨a.m * b.m, a.e + b.e⟩
/-- Negation. -/
def Dyad.neg (a : Dyad) : Dyad := ⟨-a.m, a.e⟩
/-- Magnitude. -/
def Dyad.abs (a : Dyad) : Dyad := ⟨a.m.natAbs, a.e⟩
/-- a ≤ b. -/
def Dyad.le (a b : Dyad) : Bool :=
  let g := min a.e b.e
  decide (a.m * 2 ^ (a.e - g).toNat ≤ b.m * 2 ^ (b.e - g).toNat)
/-- A value divided by a power of two. -/
def Dyad.shift (a : Dyad) (k : Nat) : Dyad := ⟨a.m, a.e - k⟩
/-- The value of a finite binary32 word. -/
def Dyad.ofWord (w : Word) : Option Dyad :=
  match fpVal w with
  | .fin neg m e => some ⟨if neg then -(m : Int) else m, e⟩
  | _ => none
/-- The quotient by a positive number, rounded to binary32. -/
def Dyad.round (a : Dyad) (den : Nat) : Word := fpRound (decide (a.m < 0)) a.m.natAbs den a.e

/-! exp and pow: one fixed method each, within 2 ulp (R178, R442). -/

/-- A binary32 word that a method gives for the positive value num × 2^e: its own word where that lies within 2 ulp of the value, else
the value rounded. -/
def withinUlps (own : Word) (num : Nat) (e : Int) : Word :=
  let r := fpRound false num 1 e
  match Dyad.ofWord r with
  | none => r
  | some d =>
    let below := d.le ⟨num, e⟩
    let i := if below then r.toNat else r.toNat - 1
    let lo := if below && Dyad.le ⟨num, e⟩ d then i - 2 else i - 1
    if lo ≤ own.toNat ∧ own.toNat ≤ i + 2 ∧ own.toNat ≤ 0x7F800000 then own else r

/-- ln 2 × 2^200, rounded down. -/
def ln2Fix : Nat := 0xb17217f7d1cf79abc9e3b39803f2f6af40f343267298b62d8a

/-- The terms of the exponential series from the k-th on, `n` of them, in units of 2^−200; `t` is the k-th. -/
def expTerms (r : Nat) : Nat → Nat → Nat → Nat
  | 0, _, _ => 0
  | n + 1, k, t => t + expTerms r n (k + 1) (t * r / 2 ^ 200 / (k + 1))

/-- exp of a finite value x, as num × 2^e to far more digits than binary32 holds; beyond ±128 it is as at that bound, where every
binary32 result is an infinity or 0. -/
def expFix (x : Dyad) : Nat × Int :=
  let fix : Int := if 0 ≤ x.e + 200 then x.m * 2 ^ (x.e + 200).toNat else x.m / 2 ^ (-(x.e + 200)).toNat
  let lim : Int := 128 * 2 ^ 200
  let v := max (-lim) (min lim fix)
  let n := v / ln2Fix
  (expTerms (v - n * ln2Fix).toNat 60 0 (2 ^ 200), n - 200)

/-- exp on binary32 (R178). -/
def expWord (x : Word) : Word :=
  match fpVal x with
  | .nan => fpNaN
  | .inf neg => if neg then 0 else fpInf false
  | .fin neg m e =>
    let v := expFix ⟨if neg then -(m : Int) else m, e⟩
    withinUlps (Config.expF x) v.1 v.2

/-- A positive value with at most 256 significant bits. -/
def trim256 (m : Nat) (e : Int) : Nat × Int :=
  let k := Nat.log2 m - 255
  (m / 2 ^ k, e + k)

/-- b^t for t of `n` bits, to far more digits than binary32 holds. -/
def powFix : Nat → Nat → Nat × Int → Nat × Int
  | 0, _, _ => (1, 0)
  | n + 1, t, b =>
    let sq := trim256 (b.1 * b.1) (b.2 + b.2)
    let r := powFix n (t / 2) sq
    if t % 2 = 1 then trim256 (r.1 * b.1) (r.2 + b.2) else r

/-- pow(b, t) for 0 ≤ b < 1 on binary32 (R442). -/
def powWord (b : Word) (t : Nat) : Word :=
  match fpVal b with
  | .fin _ m e =>
    if m = 0 then (if t = 0 then fpOne else 0) else
    let v := powFix 32 t (m, e)
    if v.2 + Nat.log2 v.1 < -400 then withinUlps (Config.powF b t) 1 (-400) else withinUlps (Config.powF b t) v.1 v.2
  | _ => fpNaN

/-- The class of an exact sum under R117: finite, an infinity of a sign, or NaN. -/
inductive Cls where
  | fin | inf (neg : Bool) | nan
  deriving DecidableEq, Repr

/-- The class of a sum. -/
def Cls.add : Cls → Cls → Cls
  | .nan, _ => .nan
  | _, .nan => .nan
  | .inf a, .inf b => if a = b then .inf a else .nan
  | .inf a, .fin => .inf a
  | .fin, c => c

/-- The class of a product of two values whose finite parts are given: zero by an infinity is NaN. -/
def Cls.mul (a : Cls) (x : Dyad) (b : Cls) (y : Dyad) : Cls :=
  match a, b with
  | .nan, _ => .nan
  | _, .nan => .nan
  | .inf s, .inf t => .inf (s != t)
  | .inf s, .fin => if y.m = 0 then .nan else .inf (s != decide (y.m < 0))
  | .fin, .inf t => if x.m = 0 then .nan else .inf (decide (x.m < 0) != t)
  | .fin, .fin => .fin

/-- A reference value with the sum of the magnitudes of its terms, the class that terms which are not finite give it, the number of
its terms that are not zero, the exponent of a power of two that divides each of these, and whether each enters the pair as it is, with no
more than 24 bits. -/
structure Ref where
  val   : Dyad
  mag   : Dyad
  cls   : Cls
  terms : Nat
  grain : Int
  plain : Bool
  deriving DecidableEq, Repr

/-- No term. -/
def Ref.zero : Ref := ⟨⟨0, 0⟩, ⟨0, 0⟩, .fin, 0, 0, true⟩
/-- One exact term. -/
def Ref.ofDyad (d : Dyad) : Ref :=
  let p := Nat.gcd d.m.natAbs (2 ^ 512)
  ⟨d, d.abs, .fin, b2n (d.m != 0), d.e + Nat.log2 p, decide (d.m.natAbs < 0x1000000 * p) || d.m = 0⟩
/-- One term that a binary32 word holds. -/
def Ref.ofWord (w : Word) : Ref :=
  match fpVal w with
  | .fin neg m e => Ref.ofDyad ⟨if neg then -(m : Int) else m, e⟩
  | .inf neg => { Ref.zero with cls := .inf neg }
  | .nan => { Ref.zero with cls := .nan }
/-- Sum: the terms of both. -/
def Ref.add (a b : Ref) : Ref :=
  ⟨a.val.add b.val, a.mag.add b.mag, a.cls.add b.cls, a.terms + b.terms,
    if a.terms = 0 then b.grain else if b.terms = 0 then a.grain else min a.grain b.grain, a.plain && b.plain⟩
/-- Product of two single terms. -/
def Ref.mul (a b : Ref) : Ref := { Ref.ofDyad (a.val.mul b.val) with cls := Cls.mul a.cls a.val b.cls b.val }
/-- Sum of a list. -/
def Ref.sum (xs : List Ref) : Ref := xs.foldl Ref.add Ref.zero
/-- Σ f i × g i for i below n: every term of one with every term of the other. -/
def Ref.dot (n : Nat) (f g : Nat → List Ref) : Ref :=
  Ref.sum ((List.range n).flatMap fun i => (f i).flatMap fun a => (g i).map a.mul)
/-- Every term of a sum by one factor. -/
def Ref.scale (k : Ref) (a : Ref) : Ref :=
  { val := k.val.mul a.val, mag := k.mag.mul a.mag, cls := Cls.mul k.cls k.val a.cls a.val, terms := a.terms, grain := k.grain + a.grain
    plain := k.plain && a.plain }

/-- A NaN in its canonical form (R118). -/
def canonNaN (w : Word) : Word := if fpIsNaN w then fpNaN else w

/-- A finite word lies within a distance of a value ÷ den. -/
def withinOf (w : Word) (den : Nat) (v bound : Dyad) : Bool :=
  match Dyad.ofWord w with
  | some d => (((d.mul ⟨den, 0⟩).add v.neg).abs).le bound
  | none => false

/-- The pair holds the sum of the terms without error, in whatever order they come (R92): one term; two terms that enter it as they are;
or terms whose rounding errors, each at most 2^−24 of the magnitude sum, the error word adds without a rounding of its own. -/
def Ref.held (r : Ref) : Bool :=
  decide (r.terms ≤ 1) || (r.plain && decide (-149 ≤ r.grain)
    && (decide (r.terms ≤ 2) || Dyad.le ((Dyad.mk r.terms 0).mul r.mag) ⟨1, r.grain + 48⟩))

/-- A sum that one compensated pair forms, folded to binary32 (R92). Where the pair holds the sum, the word is the reference ÷ den rounded
once; `few` says for how much that stands: 0 for nothing, 1 for one term, 2 for whatever the pair holds. Otherwise the manual fixes the
sum only to within num × 2^−k of the magnitude sum: the free word where it lies within that, else the rounded reference. Below 2^−125
that is less than the smallest magnitude, and the word is the reference rounded once (assumption log 2). A sum that is finite is never
an infinity for an overflow on the way (assumption log 107). What is not finite follows IEEE 754 (R117, R118), and so does what rounds
to an infinity. -/
def Ref.pick (free : Word) (den num k few : Nat) (r : Ref) : Word :=
  match r.cls with
  | .nan => fpNaN
  | .inf neg => fpInf neg
  | .fin =>
    let exact := r.val.round den
    if (1 ≤ few && decide (r.terms ≤ 1)) || (2 ≤ few && r.held) || !fpFinite exact || !Dyad.le ⟨den, -125⟩ r.mag then exact
    else if withinOf free den r.val ⟨r.mag.m * num, r.mag.e - k⟩ then free else exact

/-- Whether the fold is the reference itself, rounded once. -/
def Ref.once (r : Ref) : Bool := r.cls == .fin && (r.held || !Dyad.le ⟨1, -125⟩ r.mag)

/-- A binary32 word of a value that has the value's own bf16 rounding: where the word lies halfway between two bf16 values and the value
does not, the next word on the value's side (R110: one rounding, from the pair to bf16). -/
def towards (v : Dyad) (w : Word) : Word :=
  match Dyad.ofWord w with
  | some d =>
    if w.toNat % 65536 != 0x8000 || (d.le v && v.le d) then w
    else if d.abs.le v.abs then w + 1 else w - 1
  | none => w

/-- The fold of binary32 words, and of a sum ÷ den where one is given, from one compensated pair. -/
def foldRef (free : Word) (den num k few : Nat) (low : Option Ref) (terms : List Word) : Word :=
  let up (t : Word) : Ref := Ref.scale (Ref.ofDyad ⟨den, 0⟩) (Ref.ofWord t)
  ((low.getD Ref.zero).add (Ref.sum (terms.map up))).pick free den num k few

end Sys2Proof.Machine
end

