-- ==== Sys2Proof/Machine/Elements.lean ====
section
/-! DEFINITION. Elements of wagons: the generator Philox, the values of elements (R199 to R204), the draws of R219, and rows stored
again in a format (R217, R218). -/
namespace Sys2Proof.Machine
open Sys2Proof

/-! The generator (R219, R372). -/

/-- One round of Philox4x32-10 on counter words a, b, c, d with key words k0, k1: the high and low halves of two products. -/
def philoxRound (k0 k1 a b c d : Word) : Word × Word × Word × Word :=
  let p0 := a.toNat * 0xD2511F53
  let p1 := c.toNat * 0xCD9E8D57
  let hi (p : Nat) : Word := BitVec.ofNat 32 (p / 2 ^ 32)
  let lo (p : Nat) : Word := BitVec.ofNat 32 p
  (hi p1 ^^^ b ^^^ k0, lo p1, hi p0 ^^^ d ^^^ k1, lo p0)

/-- `n` rounds, the key rising by the Weyl constants between rounds. -/
def philox : Nat → Word → Word → Word × Word × Word × Word → Word × Word × Word × Word
  | 0, _, _, x => x
  | n + 1, k0, k1, x =>
    philox n (k0 + 0x9E3779B9) (k1 + 0xBB67AE85) (philoxRound k0 k1 x.1 x.2.1 x.2.2.1 x.2.2.2)

/-! Elements (R200, R201, R203). -/

/-- A small float of `ew` exponent and `mw` mantissa bits with a bias, as binary32. -/
def smallFp (ew mw bias v : Nat) : Word :=
  let neg := v / 2 ^ (ew + mw) % 2 = 1
  let ex := v / 2 ^ mw % 2 ^ ew
  let m := v % 2 ^ mw
  if ex = 0 then fpRound neg m 1 (1 - (bias : Int) - mw) else fpRound neg (2 ^ mw + m) 1 ((ex : Int) - bias - mw)

/-- A two's complement number of `n` bits as binary32. -/
def signedFp (n v : Nat) (e : Int) : Word := if v < 2 ^ (n - 1) then fpRound false v 1 e else fpRound true (2 ^ n - v) 1 e

/-- Bytes `off` to `off + n - 1` of what a reader gives, as a value. -/
def readNat (rd : Nat → Byte) (off n : Nat) : Nat := leNat ((List.range n).map fun i => rd (off + i))

/-- Bits of element j of row `l` of the wagon that a reader gives (R203). -/
def elemBits (fmt : Nat) (rd : Nat → Byte) (l j : Nat) : Nat :=
  if fmt = 0 then readNat rd (64 * l + 2 * j) 2
  else if fmt = 4 then readNat rd (64 * l + j / 2) 1 / 16 ^ (j % 2) % 16
  else if fmt = 5 then readNat rd (32 * l + j / 2) 1 / 16 ^ (j % 2) % 16
  else if fmt = 6 then readNat rd (48 * l + 6 * j / 8) 2 / 2 ^ (6 * j % 8) % 64
  else readNat rd (64 * l + j) 1

/-- The value of an element (R200). -/
def elemVal (fmt : Nat) (mx6v : Bool) (v : Nat) : Word :=
  match fmt with
  | 0 => ofBf16 (BitVec.ofNat 16 v)
  | 1 => if v % 128 = 127 then fpNaN else smallFp 4 3 7 v
  | 2 => if v / 4 % 32 = 31 then (if v % 4 = 0 then fpInf (v / 128 = 1) else fpNaN) else smallFp 5 2 15 v
  | 3 => signedFp 8 v 0
  | 4 => signedFp 4 v 0
  | 5 => smallFp 2 1 1 v
  | 6 => if mx6v then smallFp 3 2 3 v else smallFp 2 3 1 v
  | _ => signedFp 8 v (-6)

/-- SCALE of row `l` as the wagon holds it for element j: σ of FMT 0 to 4, 2^(E − 127) of the block otherwise (R204). -/
def scaleVal (fmt : Nat) (rd : Nat → Byte) (l j : Nat) : Word :=
  if fmt ≤ 4 then ofBf16 (BitVec.ofNat 16 (readNat rd (4096 + 2 * l) 2))
  else
    let e := readNat rd (4096 + 2 * l + j / 32) 1
    if e = 255 then fpNaN else fpRound false 1 1 ((e : Int) - 127)

/-- The terms of the dequantised value of element j of row `l` (R201): σ e, and the offset −σ z of R91 where z is not 0. With z = 0 the
offset is 0, and no term 0 × x is formed: an infinite x stays an infinity (R107; assumption log 107). -/
def weightTerms (fmt : Nat) (mx6v : Bool) (rd : Nat → Byte) (l j : Nat) : List Ref :=
  let x := Ref.ofWord (elemVal fmt mx6v (elemBits fmt rd l j))
  let sc := Ref.ofWord (scaleVal fmt rd l j)
  let z := BitVec.toInt (rd (4224 + l))
  if decide (fmt ≤ 4) && z != 0 then [sc.mul x, sc.mul (Ref.ofDyad ⟨-z, 0⟩)] else [sc.mul x]

/-- A sum word beyond the largest finite value is an infinity (R117). -/
def Ref.overflowed (r : Ref) : Ref :=
  if r.cls == .fin && !fpFinite (r.val.round 1) then { r with cls := .inf (decide (r.val.m < 0)) } else r

/-- The terms of elements e with activations x over one wagon row: σ · Σ e x, and −σ z · Σ x where z is not 0 (R91). A scale that is a
power of two takes no rounding. -/
def spanRef (sc : Ref) (z : Int) (xs : List (Ref × Ref)) : Ref :=
  let main := Ref.scale sc (Ref.sum (xs.map fun p => p.1.mul p.2)).overflowed
  let r := if z = 0 then main else main.add (Ref.scale (sc.mul (Ref.ofDyad ⟨-z, 0⟩)) (Ref.sum (xs.map (·.2))).overflowed)
  { r with plain := r.plain && z = 0 && sc.val.m.natAbs = Nat.gcd sc.val.m.natAbs (2 ^ 64) }

/-- Runs of neighbours with one key. -/
def spansOf {α : Type} [DecidableEq α] (key : Nat → α) : List Nat → List (α × List Nat)
  | [] => []
  | i :: is =>
    match spansOf key is with
    | (k, js) :: rest => if k = key i then (k, i :: js) :: rest else (key i, [i]) :: (k, js) :: rest
    | [] => [(key i, [i])]

/-- The dequantised value as binary32 (R201). -/
def deqVal (fmt : Nat) (mx6v : Bool) (rd : Nat → Byte) (l j : Nat) : Word :=
  let r := Ref.sum (weightTerms fmt mx6v rd l j)
  if r.cls = .fin then r.val.round 1 else fpNaN

/-- Elements of a wagon row (R199). -/
def rowCount (fmt : Nat) : Nat := if fmt = 0 then 32 else if fmt = 4 then 128 else 64

/-- A factor wagon holds a non-finite value (R202). -/
def wagonNonfinite (fmt : Nat) (mx6v : Bool) (wag : List Byte) : Bool :=
  let rd (i : Nat) : Byte := wag.getD i 0
  (List.range 64).any fun l => (List.range (rowCount fmt)).any fun j =>
    !fpFinite (elemVal fmt mx6v (elemBits fmt rd l j)) || !fpFinite (scaleVal fmt rd l j)

/-! Building wagons. -/

/-- Floor of a finite binary32 value. -/
def fpFloor (w : Word) : Int :=
  match fpVal w with
  | .fin neg m e =>
    let x : Int := if neg then -(m : Int) else m
    if 0 ≤ e then x * 2 ^ e.toNat else x / 2 ^ (-e).toNat
  | _ => 0

/-- A finite binary32 value rounded to an integer, half to even. -/
def fpRoundEven (w : Word) : Int :=
  match fpVal w with
  | .fin neg m e =>
    let x : Int := if neg then -(m : Int) else m
    if 0 ≤ e then x * 2 ^ e.toNat else
    let d : Int := 2 ^ (-e).toNat
    let q := x / d
    let r := x % d
    if 2 * r > d ∨ (2 * r = d ∧ q % 2 = 1) then q + 1 else q
  | _ => 0

/-- An integer held to a range. -/
def clampInt (lo hi v : Int) : Int := if v < lo then lo else if hi < v then hi else v

/-- The smallest bf16 at or above a non-negative binary32 value. -/
def bf16Up (w : Word) : BitVec 16 := BitVec.ofNat 16 (w.toNat / 65536 + (if w.toNat % 65536 = 0 then 0 else 1))

/-- A small integer as binary32. -/
def fpOfInt (v : Int) : Word := fpRound (decide (v < 0)) v.natAbs 1 0

/-- The draw d of element i of row `l` (R219). -/
def drawOf (tick addr l i : Nat) : Nat :=
  let x := philox 10 (BitVec.ofNat 32 tick) (BitVec.ofNat 32 addr) (BitVec.ofNat 32 l, BitVec.ofNat 32 (i / 8), 0, 0)
  let w := match i % 8 / 2 with | 0 => x.1 | 1 => x.2.1 | 2 => x.2.2.1 | _ => x.2.2.2
  if i % 2 = 0 then w.toNat % 65536 else w.toNat / 65536

/-- A row in an affine format: σ, z and the codes (R217). -/
structure NarrowRow where
  scale : BitVec 16
  zero  : Int
  codes : List Int
  deriving DecidableEq, Repr

/-- Store a row as codes from `low` to −`low` − 1 over `steps` steps (R217, R218). A scale that underflows to 0, or a value that is
not finite, gives codes the manual does not state. -/
def affineRow (steps : Nat) (low : Int) (draw : Nat → Nat) (vs : List Word) : NarrowRow :=
  let lo := vs.foldl (fun a v => if fpLt v a then v else a) 0
  let hi := vs.foldl (fun a v => if fpLt a v then v else a) 0
  if !fpLt lo hi then ⟨0, 0, vs.map fun _ => 0⟩ else
  let sigma := bf16Up (fpDiv (fpSub hi lo) (fpOfNat steps))
  let free (i : Nat) : Int := clampInt low (-low - 1) (Config.rowCode vs i)
  if sigma = 0 || vs.any (fun v => !fpFinite v) then ⟨sigma, free 0, (List.range vs.length).map fun i => free (i + 1)⟩ else
  let sg := ofBf16 sigma
  let z := fpRoundEven (fpSub (fpOfInt low) (fpDiv lo sg))
  let code (v : Word) (i : Nat) : Int :=
    clampInt low (-low - 1) (fpFloor (fpAdd (fpAdd (fpDiv v sg) (fpOfInt z)) (fpRound false (draw i) 1 (-16))))
  ⟨sigma, z, vs.zipIdx.map fun x => code x.1 x.2⟩

/-- Narrow one 128-element row (R217). -/
def narrowRow (tick addr l : Nat) (vs : List Word) : NarrowRow := affineRow 15 (-8) (drawOf tick addr l) vs

/-- A byte of two's complement. -/
def intByte (v : Int) : Byte := BitVec.ofInt 8 v

/-- Pack int4 codes, the even element in the low nibble (R203). -/
def packNibbles : List Int → List Byte
  | a :: b :: rest => BitVec.ofNat 8 ((BitVec.ofInt 4 a).toNat + 16 * (BitVec.ofInt 4 b).toNat) :: packNibbles rest
  | _ => []

/-! Re-quantisation (R218, R444). -/

/-- An E4M3 magnitude by its code below 127. -/
def e4m3Mag (c : Nat) : Word := smallFp 4 3 7 c

/-- The code of the largest E4M3 magnitude not above a magnitude. -/
def e4m3Floor (a : Word) : Nat := (List.range 127).foldl (fun best c => if fpLe (e4m3Mag c) a then c else best) 0

/-- One of the two E4M3 values around x: the upper one when d ÷ 65,536 is below x's place between them (R218). -/
def e4m3Round (d : Nat) (x : Word) : Byte :=
  let neg := x.getLsbD 31
  let a : Word := x &&& 0x7FFFFFFF
  let c := e4m3Floor a
  let lo := e4m3Mag c
  let hi := e4m3Mag (c + 1)
  let dd := fpRound false d 1 (-16)
  let m :=
    if fpLe a lo || c = 126 then c
    else if neg then (if fpLt dd (fpDiv (fpSub hi a) (fpSub hi lo)) then c else c + 1)
    else if fpLt dd (fpDiv (fpSub a lo) (fpSub hi lo)) then c + 1 else c
  BitVec.ofNat 8 (m + if neg then 128 else 0)

/-- One of the two bf16 values around x by the same comparison: the low half of x is its place between them (R218). -/
def bf16Draw (d : Nat) (x : Word) : BitVec 16 :=
  let t := x.toNat / 65536
  let r := x.toNat % 65536
  let away := if x.getLsbD 31 then decide (65536 - r ≤ d) else decide (d < r)
  BitVec.ofNat 16 (if r = 0 || !fpFinite x || t % 32768 = 0x7F7F || !away then t else t + 1)

/-- A row's payload, σ and z in the wagon's format, from the row's values and its former σ and z (R217, R218, R444). -/
def requantRow (fmt : Nat) (draw : Nat → Nat) (scale : BitVec 16) (zero : Byte) (vs : List Word) : List Byte × BitVec 16 × Byte :=
  match fmt with
  | 4 =>
    let r := affineRow 15 (-8) draw vs
    (packNibbles r.codes, r.scale, intByte r.zero)
  | 3 =>
    let r := affineRow 255 (-128) draw vs
    (r.codes.map intByte, r.scale, intByte r.zero)
  | 1 =>
    if vs.all fpZero then (vs.map fun _ => 0, 0, 0) else
    let top := vs.foldl (fun (a v : Word) => if fpLt a (v &&& 0x7FFFFFFF) then v &&& 0x7FFFFFFF else a) 0
    let sigma := bf16Up (fpDiv top (fpOfNat 448))
    if sigma = 0 || vs.any (fun v => !fpFinite v) then ((List.range vs.length).map fun i => intByte (Config.rowCode vs i), sigma, 0)
    else (vs.zipIdx.map fun x => e4m3Round (draw x.2) (fpDiv x.1 (ofBf16 sigma)), sigma, 0)
  | _ =>
    if vs.all fpZero then (vs.flatMap fun _ => [0, 0], 0, 0) else
    let kept := fpZero (ofBf16 scale)
    let sigma : BitVec 16 := if kept then 0x3F80 else scale
    let z : Byte := if kept then 0 else zero
    (vs.zipIdx.flatMap fun x =>
      leBytes 2 (bf16Draw (draw x.2) (fpAdd (fpDiv x.1 (ofBf16 sigma)) (signedFp 8 z.toNat 0))).toNat, sigma, z)

end Sys2Proof.Machine
end

