-- ==== Sys2Proof/Machine/Regs.lean ====
section
/-! DEFINITION. The RW registers: what a write stores (the clamps and reserved bits of each register table) and what the
rest of the model reads from them. -/
namespace Sys2Proof.Machine
open Sys2Proof

/-- The stored word of an RW register. -/
def State.reg (s : State) (off : Nat) : Word := ((s.regs.find? fun r => r.1 = off).map (·.2)).getD 0

/-- Field of a stored RW register. -/
def State.rf (s : State) (off lo len : Nat) : Nat := fld (s.reg off) lo len

/-- Store a word in an RW register that exists. -/
def State.setReg (s : State) (off : Nat) (v : Word) : State :=
  { s with regs := s.regs.map fun r => if r.1 = off then (off, v) else r }

/-- The engine counts as enabled (R482). -/
def State.engOn (s : State) : Bool := s.engine != .quiesced

/-- Clamp to a range. -/
def clampN (lo hi v : Nat) : Nat := if v < lo then lo else if hi < v then hi else v

/-- Clusters of the configuration (R2). -/
def State.clusters (s : State) : Nat := s.build.trains * 16

/-- Cluster c is enabled (R573). -/
def State.clusterOn (s : State) (c : Nat) : Bool := decide (c < s.clusters) && !s.fuses.contains c

/-- Enabled clusters. -/
def State.enabledClusters (s : State) : Nat := ((List.range s.clusters).filter s.clusterOn).length

/-- Runs per depot channel: the channel less its share of the reserve, in runs of 69,632 bytes (R237, R240). -/
def runsPerChannel (b : Build) : Nat := (16777216 - 67108864 / (b.trains * 16)) / 69632

/-- TIER_CAP1 (R240). -/
def State.tierCap1 (s : State) : Nat := runsPerChannel s.build * s.enabledClusters

/-- Two RW words as a 64-bit address. -/
def State.addr64 (s : State) (lo : Nat) : Nat := (s.reg lo).toNat + 2 ^ 32 * (s.reg (lo + 4)).toNat

/-- Whether IX7 ignores a write to the whole register while the engine is enabled (R86, R276, R353, R387, R423, R450,
R488, R518, R549, R585). -/
def lockedOn (off : Nat) : Bool :=
  off = 0x2020 || (0x2040 ≤ off && off ≤ 0x2054) || off = 0x20C0 || (0x20D8 ≤ off && off ≤ 0x20E4) || off = 0x2100
  || (0x2108 ≤ off && off ≤ 0x2114) || (0x4000 ≤ off && off ≤ 0x4010) || (0x4020 ≤ off && off ≤ 0x4048)
  || off = 0x40A4 || off = 0x40A8 || (0x40C0 ≤ off && off ≤ 0x40E0) || off = 0x1000 || off = 0x1004 || off = 0x5034
  || off = 0x7000 || off = 0x7004

/-- Ring number of a ring register offset, and its place in the ring's group (R487). -/
def ringOff (off : Nat) : Option (Nat × Nat) :=
  if 0x1040 ≤ off ∧ off < 0x1140 ∧ (off - 0x1040) % 0x20 ≤ 0x14 then some ((off - 0x1040) / 0x20, (off - 0x1040) % 0x20) else none

/-- Registers whose bits 11:0 are ignored and read 0. -/
def pageAligned (off : Nat) : Bool :=
  [0x01C0, 0x1000, 0x20D8, 0x20E0, 0x2108, 0x2110, 0x4020, 0x4030, 0x4040, 0x40C4, 0x40D0, 0x40DC, 0x7000].contains off
  || (match ringOff off with | some (_, p) => p = 0 || p = 8 | none => false)

/-- What a write of `v` to RW register `off` stores: reserved bits 0, reserved values and ranges clamped. -/
def State.stored (s : State) (off : Nat) (v : Word) : Word :=
  let f (lo len : Nat) := fld v lo len
  if pageAligned off then packWord [(12, 20, f 12 20)]
  else if off = 0x0104 || off = 0x200C || off = 0x5018 || off = 0x8008 || (0x4050 ≤ off && off ≤ 0x405C) then
    packWord [(0, 16, if off = 0x200C && f 0 16 = 0 then 1 else f 0 16)]
  else if off = 0x0180 || off = 0x2020 || off = 0x3008 || off = 0x40A4 then packWord [(0, 8, f 0 8)]
  else if off = 0x0188 then packWord [(0, 17, f 0 17)]
  else if off = 0x01C8 || off = 0x40CC || off = 0x40D8 then packWord [(0, 24, f 0 24)]
  else if off = 0x100C || off = 0x800C then packWord [(0, 9, clampN 1 256 (f 0 9))]
  else if off = 0x2000 then
    packWord [(22, 10, if s.engOn then s.rf 0x2000 22 10 else f 22 10), (6, 16, f 6 16)]
  else if off = 0x2004 then packWord [(0, 20, clampN 16 100000 (f 0 20))]
  else if off = 0x2008 then packWord [(0, 1, f 0 1)]
  else if 0x2040 ≤ off && off ≤ 0x2054 then
    packWord [(16, 2, if f 16 2 ≥ 2 then 0 else f 16 2), (14, 2, if f 14 2 ≥ 2 then 0 else f 14 2), (0, 14, f 0 14)]
  else if off = 0x2060 then packWord [(31, 1, f 31 1), (0, 30, f 0 30)]
  else if 0x2080 ≤ off && off < 0x20C0 && off % 8 = 0 then packWord [(28, 4, f 28 4), (0, 26, f 0 26)]
  else if off = 0x20C0 then packWord [(9, 23, f 9 23), (0, 7, f 0 7)]
  else if off = 0x20C4 then packWord [(16, 16, f 16 16)]
  else if off = 0x20D0 || off = 0x20D4 then
    packWord [(16, 14, clampN 1 8192 (f 16 14)), (0, 14, clampN 1 8192 (f 0 14))]
  else if off = 0x2100 then
    packWord [(16, 2, if f 16 2 = 3 then 0 else f 16 2), (14, 2, if f 14 2 ≥ 2 then 0 else f 14 2)]
  else if off = 0x4010 then packWord [(0, 20, min (f 0 20) s.tierCap1)]
  else if off = 0x4080 then
    packWord [(28, 4, f 28 4), (24, 4, max 1 (f 24 4)), (16, 8, max 1 (f 16 8))]
  else if off = 0x4084 then packWord [(8, 8, min 64 (f 8 8)), (0, 8, min 64 (f 0 8))]
  else if off = 0x40A0 then
    packWord [(24, 8, max 1 (f 24 8)), (16, 8, max 1 (f 16 8)), (8, 8, min 96 (f 8 8)), (0, 8, f 0 8)]
  else if off = 0x40C0 then packWord [(28, 4, clampN 4 10 (f 28 4)), (16, 12, f 16 12), (0, 16, max 1 (f 0 16))]
  else if off = 0x5004 then packWord [(0, 17, f 0 17)]
  else if off = 0x5010 then packWord [(0, 20, f 0 20)]
  else if off = 0x5020 then packWord [(2, 30, f 2 30)]
  else if off = 0x5034 then packWord [(16, 16, max 1 (f 16 16)), (0, s.build.fmPorts, f 0 s.build.fmPorts)]
  else if off = 0x8000 then packWord [(24, 8, f 24 8), (16, 2, f 16 2)]
  else v

/-- A field of the RW registers with a name. -/
def State.layersM1 (s : State) : Nat := s.rf 0x2000 22 10
/-- OVERRUN_POLICY.POLICY: lenient (R36). -/
def State.lenient (s : State) : Bool := s.rf 0x2008 0 1 = 1
/-- GROUP_CFG.POS (R547). -/
def State.pos (s : State) : Nat := s.rf 0x2020 4 4
/-- The group size (R547). -/
def State.groupSize (s : State) : Nat := s.rf 0x2020 0 4 + 1
/-- IN_W of a stop (R85). -/
def State.inW (s : State) (stop : Nat) : Nat := (s.rf (0x2040 + 4 * stop) 0 7 + 1) * 64
/-- OUT_W of a stop. -/
def State.outW (s : State) (stop : Nat) : Nat := (s.rf (0x2040 + 4 * stop) 7 7 + 1) * 64
/-- IN_FMT is fp8 E4M3. -/
def State.inFp8 (s : State) (stop : Nat) : Bool := s.rf (0x2040 + 4 * stop) 14 2 = 1
/-- OUT_FMT is fp32. -/
def State.outFp32 (s : State) (stop : Nat) : Bool := s.rf (0x2040 + 4 * stop) 16 2 = 1
/-- Flits of an input row of a LAYER stop (R87). -/
def State.inFlits (s : State) (stop : Nat) : Nat := ceilDiv (s.inW stop * (if s.inFp8 stop then 1 else 2)) 256
/-- Flits of a delta row (R87). -/
def State.outFlits (s : State) (stop : Nat) : Nat := ceilDiv (s.outW stop * (if s.outFp32 stop then 4 else 2)) 256
/-- HID_W (R386). -/
def State.hidW (s : State) : Nat := (s.rf 0x20C0 0 7 + 1) * 64
/-- VOCAB_W. -/
def State.vocabW (s : State) : Nat := (s.rf 0x20C0 9 11 + 1) * 64
/-- EXT_W. -/
def State.extW (s : State) : Nat := s.rf 0x20C0 20 11 * 64
/-- Positions per KV page (R402). -/
def State.pagePos (s : State) : Nat := 2 ^ s.rf 0x40C0 28 4
/-- Page-list entries per slot. -/
def State.plistMax (s : State) : Nat := s.rf 0x40C0 16 12 + 1
/-- CTX_LIMIT (R392). -/
def State.ctxLimit (s : State) : Nat := s.plistMax * s.pagePos
/-- Microseconds of the clock (R490). -/
def State.nowUs (s : State) : Nat := s.now / 1300

end Sys2Proof.Machine
end

