-- ==== Sys2Proof/Machine/Operands.lean ====
section
/-! DEFINITION. Operand forms: the layouts of descriptors (R466, R470 to R475), completion records (R462), status lines
(R452), flit tags (R496, R502, R506, R510, R514, R526) and the tick header (R31). -/
namespace Sys2Proof.Machine
open Sys2Proof

/-! Descriptors. -/

/-- Field of a descriptor: byte, bit within it, length in bits. -/
def dF (b : DescBytes) (byte lo len : Nat) : Nat := fld b (8 * byte + lo) len

/-- OPCODE (R466). -/
def opcodeOf (b : DescBytes) : Nat := dF b 0 0 8
/-- IRQ. -/
def irqOf (b : DescBytes) : Bool := dF b 1 0 1 = 1
/-- DFMT. -/
def dfmtOf (b : DescBytes) : Nat := dF b 2 0 8
/-- COOKIE. -/
def cookieOf (b : DescBytes) : Nat := dF b 4 0 32
/-- The word at byte 8: TAG or HANDLE (R472, R473, R474). -/
def word8 (b : DescBytes) : Word := BitVec.ofNat 32 (dF b 8 0 32)
/-- The word at byte 12. -/
def word12 (b : DescBytes) : Word := BitVec.ofNat 32 (dF b 12 0 32)
/-- SCOPE of ENABLE and QUIESCE (R475). -/
def scopeOf (b : DescBytes) : Nat := dF b 8 0 2
/-- TARGET of ENABLE and QUIESCE. -/
def targetOf (b : DescBytes) : Nat := dF b 10 0 16
/-- COMMIT of SWAP_ADAPTER (R473). -/
def commitOf (b : DescBytes) : Bool := dF b 15 0 1 = 1

/-- First descriptor format that holds an opcode (R468, R469); none for a code not listed. -/
def formatOf (op : Nat) : Option Nat :=
  if op ≤ 0x04 || (0x10 ≤ op && op ≤ 0x14) || (0x20 ≤ op && op ≤ 0x23) then some 1
  else if op = 0x24 || op = 0x25 then some 2
  else if op = 0x26 || op = 0x27 then some 3
  else none

/-- The descriptor format in force holds the opcode (R468). -/
def formatHolds (fmt op : Nat) : Bool := match formatOf op with | some f => decide (f ≤ fmt) | none => false

/-- A shared-state descriptor (R459 and the list before it). -/
def isShared (b : DescBytes) : Bool :=
  let op := opcodeOf b
  (0x10 ≤ op && op ≤ 0x14) || (0x20 ≤ op && op ≤ 0x27) || ((op = 2 || op = 3) && scopeOf b != 3)

/-- The scope that an ENABLE or QUIESCE names (R475). -/
def scopeIdOf (b : DescBytes) : ScopeId :=
  if scopeOf b = 0 then .engine else if scopeOf b = 1 then .ring (targetOf b)
  else if scopeOf b = 2 then .tenant (targetOf b) else .train (targetOf b)

/-- What a completion says beside what it echoes (R462). -/
structure Answer where
  status : Nat
  detail : Nat
  r0     : Nat
  r1     : Nat
  r2     : Nat
  deriving DecidableEq, Repr

/-- An answer with no result words. -/
def ans (status detail : Nat) : Answer := ⟨status, detail, 0, 0, 0⟩
/-- OK with result words. -/
def ansOk (r0 r1 r2 : Nat) : Answer := ⟨0, 0, r0, r1, r2⟩

/-- PHASE of record number C (R462). -/
def phaseOf (c : Word) (cqLog2 : Nat) : Nat := 1 - fld c cqLog2 1

/-- A completion record (R462). -/
def completionBytes (opcode phase ring cookie num : Nat) (unsol : Bool) (a : Answer) (stamp : Nat) : List Byte :=
  leBytes 1 opcode ++ leBytes 1 a.status ++ leBytes 1 (phase + 2 * b2n unsol) ++ leBytes 1 ring ++ leBytes 4 cookie
  ++ leBytes 4 num ++ leBytes 4 a.detail ++ leBytes 4 a.r0 ++ leBytes 4 a.r1 ++ leBytes 4 a.r2 ++ leBytes 4 stamp

/-- The code of a scope state (R452, R487). -/
def Scope.code : Scope → Nat
  | .enabled => 0 | .quiescing => 1 | .held => 2 | .quiesced => 3

/-- A status line (R452). -/
def statusLineBytes (r : Ring) : List Byte :=
  leBytes 4 r.head.toNat ++ leBytes 4 r.cqTail.toNat ++ leBytes 8 r.tick ++ leBytes 4 r.cqResv ++ leBytes 1 r.st.code
  ++ List.replicate 43 0

/-! Flit tags. -/

/-- Field of a tag: byte, bit within it, length. -/
def tF (t : FlitTag) (byte lo len : Nat) : Nat := fld t (8 * byte + lo) len
/-- SEQ (R496). -/
def tagSeq (t : FlitTag) : BitVec 8 := BitVec.ofNat 8 (tF t 4 0 8)
/-- KIND. -/
def tagKind (t : FlitTag) : Nat := tF t 5 0 8
/-- The CRC a tag must carry (R496). -/
def flitCrc (payload : Payload) (t : FlitTag) : Word := crc32c (bvBytes payload ++ (bvBytes t).drop 4)
/-- The CRC of a received flit is right. -/
def crcOk (payload : Payload) (t : FlitTag) : Bool := flitCrc payload t == BitVec.ofNat 32 (tF t 0 0 32)
/-- A tag from fields (byte, bit, length, value); the CRC field is formed when the flit is sent. -/
def mkTag (fs : List (Nat × Nat × Nat × Nat)) : FlitTag :=
  BitVec.ofNat 256 (packN (fs.map fun f => (8 * f.1 + f.2.1, f.2.2.1, f.2.2.2)))
/-- A tag with SEQ and CRC set, as it crosses the link. -/
def sealTag (payload : Payload) (t : FlitTag) (seq : BitVec 8) : FlitTag :=
  let base := BitVec.ofNat 256 (t.toNat - tF t 0 0 40 + put 32 8 seq.toNat)
  BitVec.ofNat 256 (base.toNat + (flitCrc payload base).toNat)

/-- A LINK_INIT tag (R502). -/
def initTag (seen : Bool) : FlitTag := mkTag [(8, 0, 8, 1), (9, 0, 1, b2n seen)]
/-- FIDX of an AIN flit (R506). -/
def ainFidx (t : FlitTag) : Nat := tF t 8 0 24
/-- STOP of an AIN flit. -/
def ainStop (t : FlitTag) : Nat := tF t 11 0 3
/-- A DOUT tag (R510). -/
def doutTag (kind index rfidx stop line : Nat) (last : Bool) (stamp : Nat) : FlitTag :=
  mkTag [(5, 0, 8, kind), (8, 0, 13, index), (10, 0, 10, rfidx), (12, 0, 3, stop), (12, 3, 1, line), (12, 4, 1, b2n last),
    (16, 0, 32, stamp)]
/-- An XCH tag (R514). -/
def xchTag (kind stamp consign src fidx len stop pass : Nat) : FlitTag :=
  mkTag [(5, 0, 8, kind), (8, 0, 32, stamp), (12, 0, 7, consign), (13, 0, 4, src), (14, 0, 14, fidx), (16, 0, 14, len),
    (18, 0, 3, stop), (18, 3, 2, pass)]
/-- An FM tag (R526). -/
def fmTag (kind addr txid arg : Nat) : FlitTag :=
  mkTag [(5, 0, 8, kind), (8, 0, 64, addr), (16, 0, 12, txid), (18, 0, 16, arg)]
/-- TXID of a received FM tag. -/
def fmTxid (t : FlitTag) : Nat := tF t 16 0 12
/-- STAMP of a received XCH tag. -/
def xchStamp (t : FlitTag) : Nat := tF t 8 0 32
/-- CONSIGN. -/
def xchConsign (t : FlitTag) : Nat := tF t 12 0 7
/-- SRC. -/
def xchSrc (t : FlitTag) : Nat := tF t 13 0 4
/-- FIDX. -/
def xchFidx (t : FlitTag) : Nat := tF t 14 0 14
/-- LEN. -/
def xchLen (t : FlitTag) : Nat := tF t 16 0 14

/-- A payload from bytes. -/
def payloadOf (bs : List Byte) : Payload := BitVec.ofNat 2048 (leNat (bs.take 256))

/-- Kinds a link delivers to the layer above (R498). -/
def kindOf (port kind : Nat) : Bool :=
  if port < 2 then kind = 1 || kind = 2
  else if port < 4 then false
  else if port = 4 then kind = 0x21 || kind = 0x22 || kind = 0x23 || kind = 0x24
  else kind = 0x34 || kind = 0x35 || kind = 0x36

/-! The tick header (R31). -/

/-- Field of a header: byte, bit, length. -/
def hF (h : Payload) (byte lo len : Nat) : Nat := fld h (8 * byte + lo) len

/-- Stops that a kind permits (R12). -/
def permitted (kind : Nat) : BitVec 6 := if kind = 1 ∨ kind = 3 then 0x3F else 1

/-- The header fields as the flit carries them. -/
def rawHeader (h : Payload) : Header := ⟨hF h 1 0 2, hF h 1 2 1, hF h 2 0 10, BitVec.ofNat 6 (hF h 4 0 6)⟩
/-- The NEXT fields as the flit carries them. -/
def rawNext (h : Payload) : Option Header :=
  if hF h 5 3 1 = 1 then some ⟨hF h 5 0 2, hF h 5 2 1, hF h 6 0 10, BitVec.ofNat 6 (hF h 8 0 6)⟩ else none
/-- A header with the stops its kind does not permit cleared (R34). -/
def Header.clean (h : Header) : Header := { h with stops := h.stops &&& permitted h.kind }
/-- HDR_VER. -/
def hdrVer (h : Payload) : Nat := hF h 0 0 8
/-- HOST_TICK. -/
def hostTick (h : Payload) : Nat := hF h 16 0 64
/-- The header names a stop. -/
def Header.has (h : Header) (stop : Nat) : Bool := h.stops.getLsbD stop

/-! Timetable lines (R58 to R66). -/

/-- Field of a line. -/
def lF (l : TLine) (lo len : Nat) : Nat := fld l lo len
/-- CTL_OP. -/
def ctlOp (l : TLine) : Nat := lF l 1020 4
/-- REPEAT. -/
def ctlRepeat (l : TLine) : Nat := lF l 1008 12
/-- LOOP_COUNT. -/
def ctlLoopCount (l : TLine) : Nat := lF l 996 12
/-- LOOP_LEVEL. -/
def ctlLoopLevel (l : TLine) : Nat := lF l 994 2
/-- WAIT_KIND. -/
def ctlWait (l : TLine) : Nat := lF l 989 3
/-- ARG. -/
def ctlArg (l : TLine) : Nat := lF l 960 24
/-- Train slot t. -/
def trainSlot (l : TLine) (t : Nat) : Nat := lF l (24 * t) 24
end Sys2Proof.Machine
end

