-- ==== Sys2Proof/Machine/Lines.lean ====
section
/-! DEFINITION. The slots of a timetable line (R59, R61 to R64), the loops of a program (R67), and the image of a special working with
the lines that it stands for (R70, R71). -/
namespace Sys2Proof.Machine
open Sys2Proof

/-! Slots. -/

/-- OP of a train slot. -/
def slotOp (w : Nat) : Nat := w / 2 ^ 19 % 32
/-- FMT of a train slot. -/
def slotFmt (w : Nat) : Nat := w / 2 ^ 16 % 8
/-- SEG_BASE. -/
def slotBase (w : Nat) : Nat := w / 2 ^ 5 % 2048
/-- BUF. -/
def slotBuf (w : Nat) : Nat := w / 8 % 4
/-- SHARED. -/
def slotShared (w : Nat) : Bool := w / 4 % 2 = 1
/-- FINAL. -/
def slotFinal (w : Nat) : Bool := w / 2 % 2 = 1
/-- CLR. -/
def slotClr (w : Nat) : Bool := w % 2 = 1
/-- The entry that car c works on under a slot; none when it idles: an IDLE slot, shared work, or an index past 2,047 (R59). -/
def slotEntry (w c : Nat) : Option Nat :=
  if slotOp w = 0 || slotShared w || 2048 ≤ slotBase w + c then none else some (slotBase w + c)
/-- A code of R60. -/
def opCode (op : Nat) : Bool := decide (op ≤ 0x15)
/-- Depot-fetch slot k. -/
def fetchSlot (l : TLine) (k : Nat) : Nat := lF l (768 + 32 * k) 32
/-- KIND of a fetch slot. -/
def fetchKind (w : Nat) : Nat := w / 2 ^ 30
/-- TRAIN. -/
def fetchTrain (w : Nat) : Nat := w / 2 ^ 25 % 32
/-- The wagons or rows that COUNT names. -/
def fetchCount (w : Nat) : Nat := w / 2 ^ 20 % 32 + 1
/-- GROUP. -/
def fetchGroup (w : Nat) : Nat := w / 2 ^ 17 % 8
/-- LIST_IDX. -/
def fetchIdx (w : Nat) : Nat := w % 2 ^ 17
/-- The adapter-space address of a fetch-list entry (R62). -/
def entryAddr (e : DWord) : Nat := e.toNat % 2 ^ 48
/-- Its car. -/
def entryCar (e : DWord) : Nat := e.toNat / 2 ^ 48 % 16
/-- Its platform slot. -/
def entrySlot (e : DWord) : Nat := e.toNat / 2 ^ 52 % 512
/-- Exchange slot. -/
def xchSlot (l : TLine) : Nat := lF l 896 32
/-- OP of an exchange slot. -/
def xchOp (w : Nat) : Nat := w / 2 ^ 29
/-- CONSIGN. -/
def xchNum (w : Nat) : Nat := w / 2 ^ 22 % 128
/-- LEN. -/
def xchFlits (w : Nat) : Nat := w / 2 ^ 8 % 2 ^ 14
/-- STOP. -/
def xchStopOf (w : Nat) : Nat := w / 2 ^ 5 % 8
/-- PASS. -/
def xchPassOf (w : Nat) : Nat := w / 2 ^ 3 % 4
/-- Activation slot. -/
def actSlot (l : TLine) : Nat := lF l 928 32
/-- OP of an activation slot. -/
def actOp (w : Nat) : Nat := w / 2 ^ 29
/-- STOP. -/
def actStop (w : Nat) : Nat := w / 2 ^ 26 % 8
/-- ROWS. -/
def actRows (w : Nat) : Nat := w / 2 ^ 12 % 2 ^ 14
/-- PORTS. -/
def actPorts (w : Nat) : Nat := w / 2 ^ 10 % 4
/-- First row position: ROW_BASE16. -/
def actBase (w : Nat) : Nat := 16 * (w / 2 % 512)

/-! Loops (R67). -/

/-- TT_FORMAT of a special-working image. -/
def swFormat (g : List Byte) : Nat := bytesAt g 0 1
/-- LINES. -/
def swLines (g : List Byte) : Nat := bytesAt g 2 2
/-- MAX_BEATS. -/
def swMaxBeats (g : List Byte) : Nat := bytesAt g 4 4
/-- WAGONS. -/
def swWagons (g : List Byte) : Nat := bytesAt g 8 2
/-- FLITS. -/
def swFlits (g : List Byte) : Nat := bytesAt g 10 2
/-- The mask of platform buffers. -/
def swBufs (g : List Byte) : Nat := bF g 12 0 4
/-- The timetable lines of the image. -/
def swBody (g : List Byte) : List TLine :=
  (List.range (swLines g)).map fun i => BitVec.ofNat 1024 (leNat ((g.drop (128 * (i + 1))).take 128))

/-- Loops pair at the levels below `max`: each LOOP_END closes the innermost open loop, and no level is open twice. -/
def loopsPair (max : Nat) : List Nat → List TLine → Bool
  | open_, [] => open_.isEmpty
  | open_, l :: ls =>
    if ctlOp l = 1 then decide (ctlLoopLevel l < max) && !open_.contains (ctlLoopLevel l) && loopsPair max (ctlLoopLevel l :: open_) ls
    else if ctlOp l = 2 then
      match open_ with
      | v :: rest => v = ctlLoopLevel l && loopsPair max rest ls
      | [] => false
    else loopsPair max open_ ls

/-- How often each line issues, loops and repeats expanded; `open_` holds the iterations of the open loops (R67). -/
def lineBeats : List Nat → List TLine → List Nat
  | _, [] => []
  | open_, l :: ls =>
    let now := if ctlOp l = 1 then (ctlLoopCount l + 1) :: open_ else open_
    (now.foldl (· * ·) (ctlRepeat l + 1)) :: lineBeats (if ctlOp l = 2 then now.drop 1 else now) ls

/-- A sum over the lines, each as often as it issues. -/
def expanded (f : TLine → Nat) (ls : List TLine) : Nat := ((lineBeats [] ls).zip ls).foldl (fun a x => a + x.1 * f x.2) 0

/-- Wagons that a line's fetch slots name (R61). -/
def lineWagons (l : TLine) : Nat :=
  (List.range 4).foldl (fun a k => if fetchKind (fetchSlot l k) = 0 then a else a + fetchCount (fetchSlot l k)) 0

/-- Flits of a line's exchange slot (R63). -/
def lineFlits (l : TLine) : Nat := if xchOp (xchSlot l) = 0 then 0 else xchFlits (xchSlot l)

/-! Fetches of a program (R61, R62, R67). -/

/-- The entries that a fetch slot names over its beats. -/
def slotEntries (tt : Timetable) (l : TLine) (w : Nat) : List DWord := (tt.fetch.drop (fetchIdx w)).take (fetchCount w * (ctlRepeat l + 1))

/-- The entries of the fetch slots of a kind, in program order, each with its slot's train. -/
def fetchesOf (tt : Timetable) (kind : Nat) : List (Nat × DWord) :=
  tt.lines.flatMap fun l => (List.range 4).flatMap fun k =>
    let w := fetchSlot l k
    if fetchKind w = kind then (slotEntries tt l w).map fun e => (fetchTrain w, e) else []

/-- The cluster of a fetch. -/
def fetchCar (f : Nat × DWord) : Nat := 16 * f.1 + entryCar f.2

/-- The clusters whose platforms take the wagon of a fetch: the one that it names, and for a wagon of a shared part all whose tile it
belongs to (R95). -/
def Timetable.castTo (tt : Timetable) (f : Nat × DWord) : List Nat :=
  match tt.bcast.find? fun x => x.1 = entryAddr f.2 with
  | some x => x.2
  | none => [fetchCar f]

/-- A frame of a cluster. -/
def Frame.cluster (f : Frame) : Nat := 16 * f.train + f.car

/-- A frame takes its platform slot: what stood there gives way, and so does an older frame of the same wagon on that car (R280). -/
def putFrame (fs : List Frame) (f : Frame) : List Frame :=
  fs.filter (fun y => !(y.cluster = f.cluster && (y.slot = f.slot || y.addr = f.addr))) ++ [f]

/-! Fragments (R71). -/

/-- The lines of a program with its loops expanded (R67), with `fuel` lines at most: the marks of loops go, repeats stay. `open_` holds
the first lines of the open loops with the iterations left. -/
def unroll (ls : Array TLine) : Nat → Nat → List (Nat × Nat) → List TLine
  | 0, _, _ => []
  | fuel + 1, pc, open_ =>
    match ls[pc]? with
    | none => []
    | some l =>
      let plain : TLine := if ctlOp l = 1 || ctlOp l = 2 then l &&& ~~~(BitVec.ofNat 1024 (15 * 2 ^ 1020)) else l
      if ctlOp l = 1 then
        plain :: unroll ls fuel (pc + 1) (match open_ with | (p, n) :: r => if p = pc then (p, n) :: r else (pc, ctlLoopCount l) :: open_
                                                           | [] => [(pc, ctlLoopCount l)])
      else if ctlOp l = 2 then
        match open_ with
        | (p, n) :: r => if n = 0 then plain :: unroll ls fuel (pc + 1) r else plain :: unroll ls fuel p ((p, n - 1) :: r)
        | [] => plain :: unroll ls fuel (pc + 1) []
      else plain :: unroll ls fuel (pc + 1) open_

/-- The lines that a fragment stands for: its loops expanded, without its TICK_END mark (R71). MAX_BEATS bounds their number. -/
def swProgram (g : List Byte) : List TLine :=
  (unroll (swBody g).toArray (swMaxBeats g + 1) 0 []).map fun l =>
    if ctlOp l = 6 then l &&& ~~~(BitVec.ofNat 1024 (15 * 2 ^ 1020)) else l

/-- The consignments that a fragment exchanges in one invocation, by their number within it, with their length in flits. -/
def swCons (g : List Byte) : List (Nat × Nat) :=
  (List.range 4).filterMap fun k =>
    ((swBody g).find? fun l => xchOp (xchSlot l) = 1 && xchNum (xchSlot l) = k).map fun l => (k, xchFlits (xchSlot l))

end Sys2Proof.Machine
end

