-- ==== Sys2Proof/Machine/Wire.lean ====
section
/-! DEFINITION. The transmitting side of the links (R499 to R501, R504) and the transactions of the FM ports (R526 to R531). -/
namespace Sys2Proof.Machine
open Sys2Proof

/-- The block can act: powered, out of both resets and not halted (R537, R567). -/
def State.live (s : State) : Bool := s.powered && s.rstN && s.warmN && s.power.halted.isNone

/-- CFG accesses reach the registers: neither a warm reset nor a halt stops the port (R494, R495, R537). -/
def State.cfgReady (s : State) : Bool := s.powered && s.rstN

/-- Issue and the transmitters are paused, by THROTTLE_N or by droop (R42, R558, R564). -/
def State.paused (s : State) : Bool := s.power.throttle || s.power.droop

/-- The link of a port code. -/
def State.link (s : State) (c : Nat) : Link := s.links.toList.getD c (Link.fresh .down)

/-- Replace the link of a port code. -/
def State.setLink (s : State) (c : Nat) (l : Link) : State := { s with links := s.links.setIfInBounds c l }

/-- Port codes of the FM ports that FM_CFG.MASK enables and that are UP; none in a halt (R530, R532, R567). -/
def State.fmPorts (s : State) : List Nat :=
  if !s.live then [] else
  ((List.range s.build.fmPorts).filter fun j => s.rf 0x5034 j 1 = 1 && (s.link (16 + j)).st == .up).map (16 + ·)

/-- Some fabric port can be used. -/
def State.fmUp (s : State) : Bool := !s.fmPorts.isEmpty

/-- Number flits from a SEQ on and set their CRC (R496, R499). -/
def sealFrom : BitVec 8 → List Flit → List Flit
  | _, [] => []
  | q, f :: fs => { f with tag := sealTag f.payload f.tag q } :: sealFrom (q + 1) fs

/-- Send what the replay buffer of 64 flits has room for, up to the first flit that must wait (R501). -/
def Link.pump (l : Link) (holds : Flit → Bool) : Link :=
  if l.st != .up then l else
  let go := (l.waiting.take (64 - l.replay.length)).takeWhile fun f => !holds f
  { l with
    replay := l.replay ++ sealFrom l.txSeq go
    waiting := l.waiting.drop go.length
    txSeq := l.txSeq + BitVec.ofNat 8 go.length }

/-- A mask on DOUT0 waits while a row of its stop and tick has not been sent on DOUT1, given what waits there (R511). -/
def maskWaits (rows : List Flit) (f : Flit) : Bool :=
  (tagKind f.tag = 0x12 || tagKind f.tag = 0x13)
  && rows.any fun r => tF r.tag 12 0 4 = tF f.tag 12 0 4 && tF r.tag 16 0 32 = tF f.tag 16 0 32

/-- A link sends what it may; while issue is paused no transmitter starts a new flit (R501, R558). -/
def State.pumpOne (s : State) (c : Nat) : State :=
  if s.paused then s else
  s.setLink c ((s.link c).pump fun f => c = 2 && maskWaits (s.link 3).waiting f)

/-- A link sends what it may; what DOUT1 has sent lets masks on DOUT0 go (R511). -/
def State.pumpLink (s : State) (c : Nat) : State := if c = 3 then (s.pumpOne 3).pumpOne 2 else s.pumpOne c

/-- Hand flits to a link's transmitter. -/
def State.send (s : State) (c : Nat) (fs : List Flit) : State :=
  let l := s.link c
  (s.setLink c { l with waiting := l.waiting ++ fs }).pumpLink c

/-! Background traffic (R300, R301). -/

/-- Background traffic may take beats of the FM ports, or of the depot channels: with no limit while no tick executes, and by its share
else (R301). -/
def State.shareMay (s : State) (fm depot : Bool) : Bool :=
  !s.tick.active || ((!fm || fld s.shuntBw 8 8 != 0) && (!depot || fld s.shuntBw 0 8 != 0))

/-- A background transfer makes progress now: issue is not paused, and its shares let it (R301, R558). -/
def State.landMay (s : State) (fm depot : Bool) : Bool := !s.paused && s.shareMay fm depot

/-- The runs of a conversion's former layout are read above the 48 bits of the adapter space, which no reader's address reaches (R251). -/
def oldSpace : Nat := 2 ^ 48

/-- The directory slot that owns an address (R231). -/
def slotOf (a : Nat) : Nat := a / 2 ^ 30 % 2 ^ 18

/-- The run of an adapter-space address. -/
def State.runOf (s : State) (a : Nat) : Option TRun := s.tmap.find? fun r => decide (r.addr ≤ a ∧ a < r.addr + 69632)

/-- The tier that holds an address, which is its source until a move is remapped; the state region lies in T1 (R243, R298). -/
def State.tierOf (s : State) (a : Nat) : Nat := match s.runOf a with | some r => r.src | none => 1

/-- A write-back is under way. -/
def State.writingBack (s : State) (a : Nat) : Bool := s.reads.any fun (r : FmRead) => r.kind == RKind.writeBack a

/-- DIRTY of a wagon; of an address in a state block, a step has written the block and it has not been written back (R295, R445). -/
def State.isDirty (s : State) (a : Nat) : Bool :=
  match s.runOf a with
  | some r => r.dirty.getLsbD ((a - r.addr) / 4352)
  | none => s.tierOld.any fun e => decide (e.addr ≤ a ∧ a < e.addr + e.bytes.length)

/-- Frames of a car that wait for a write-back (R300). -/
def State.owedFrames (s : State) (train car : Nat) : Nat :=
  (s.frames.filter fun f => f.train = train && f.car = car && (s.isDirty f.addr || s.writingBack f.addr)).length

/-- Dirty frames leave a car less than 128 frames of its wagon area (R300); `areas` are the wagon areas. -/
def State.pressed (s : State) (areas : List Nat) (train car : Nat) : Bool :=
  let a := areas.getD (16 * train + car) 0
  decide (0 < a ∧ a < 128 + s.owedFrames train car)

/-- A write-back has priority over the shares: a pressed car holds its wagon (R300). -/
def State.urgent (s : State) (a : Nat) : Bool :=
  match s.tick.cur with
  | some t => s.frames.any fun f => f.addr = a && s.pressed t.areas f.train f.car
  | none => false

/-- The page moves that a manifest waits for hold up a HEAD tick whose program is at its end (R301, R404). -/
def State.manifestHeld (s : State) : Bool :=
  match s.tick.cur with | some t => t.hdr.kind = 2 && s.tick.run.ended | none => false

/-- A transfer over FM may go on now, as far as the shares and a pause of issue bear on it (R301, R558). -/
def State.readMay (s : State) (k : RKind) : Bool :=
  match k with
  | .image _ | .rowRecords _ _ => s.shareMay true false
  | .writeBack a => s.urgent a || s.shareMay true false
  | .pageMove _ _ => s.manifestHeld || s.shareMay true false
  | _ => true

/-- A write over FM may go on now: a snapshot, and what carries a write-back or a page move, are background traffic (R301). -/
def State.writeMay (s : State) (k : WKind) : Bool :=
  match k with
  | .snapshot => s.shareMay true false
  | .writeBack a => s.urgent a || s.shareMay true false
  | .pageMove _ _ => s.manifestHeld || s.shareMay true false
  | _ => true

/-! Reads as requests (R527). -/

/-- Requests that a read is made as. -/
def FmRead.requests (r : FmRead) : Nat := max 1 (ceilDiv r.units 256)
/-- Units of request k. -/
def FmRead.unitsOf (r : FmRead) (k : Nat) : Nat := min 256 (r.units - 256 * k)
/-- Request k has been answered in full. -/
def FmRead.answered (r : FmRead) (k : Nat) : Bool :=
  (List.range (ceilDiv (r.unitsOf k) 4)).all fun f => r.flits.any fun x => x.1 = 64 * k + f
/-- Every flit of the read has come. -/
def FmRead.whole (r : FmRead) : Bool := r.flits.length = ceilDiv r.units 4
/-- What the flits of a read hold, in order. -/
def FmRead.bytes (r : FmRead) : List Byte :=
  ((List.range (ceilDiv r.units 4)).flatMap fun f => bvBytes (((r.flits.find? fun x => x.1 = f).map (·.2)).getD 0)).take (64 * r.units)
/-- The identifier of one of its requests. -/
def FmRead.owns (r : FmRead) (id : Nat) : Bool := decide (r.id ≤ id ∧ id < r.id + r.requests)

/-- An identifier is that of a transaction outstanding on a port (R527). -/
def State.txBusy (s : State) (port id : Nat) : Bool :=
  (s.reads.any fun r => r.port = port && !r.failed && (List.range r.sent).any fun k => (r.id + k) % 4096 = id % 4096 && !r.answered k)
  || s.writes.any fun w => w.issued && w.port = port && w.id % 4096 = id % 4096

/-- A write to some of the bytes from an address on is outstanding (R529). -/
def State.writeOut (s : State) (addr n : Nat) : Bool :=
  s.writes.any fun w => (w.issued || w.failed) && decide (w.addr < addr + n ∧ addr < w.addr + w.data.length)

/-- Flits of a link that its partner has not acknowledged. -/
def Link.unacked (l : Link) : List Flit := l.replay ++ l.waiting

/-- Port of a transaction: spread over the usable ports by its identifier (R530). -/
def State.pickPort (s : State) (id : Nat) : Nat :=
  let ps := s.fmPorts
  ps.getD (id % ps.length) 16

/-- The request flit of a write of at most 256 bytes (R526, R527). -/
def writeFlit (w : HostWrite) : Flit := ⟨payloadOf w.data, fmTag 0x32 w.addr (w.id % 4096) (ceilDiv w.data.length 4)⟩

/-- One write goes out when nothing stands before it, no failure holds it, and a port is usable on which its identifier is free (R527, R529,
R531). -/
def State.sendWrite (s : State) (w : HostWrite) : State × HostWrite :=
  match w.kind with
  | .raise _ => (s, w)
  | _ =>
    let p := s.pickPort w.id
    if w.after.isEmpty && !w.issued && !w.failed && s.fmUp && s.writeMay w.kind && !s.txBusy p w.id then
      (s.send p [writeFlit w], { w with issued := true, port := p })
    else (s, w)

/-- Every write that may go out does. -/
def State.sendReady (s : State) : State :=
  let go (a : State × List HostWrite) (w : HostWrite) : State × List HostWrite :=
    let r := a.1.sendWrite w
    (r.1, a.2 ++ [r.2])
  let r := s.writes.foldl go (s, [])
  { r.1 with writes := r.2 }

/-- Cut bytes into writes of at most 256 bytes that do not cross a 256-byte boundary of the address; at most `n` pieces. -/
def cutWrite : Nat → Nat → List Byte → List (Nat × List Byte)
  | 0, _, _ => []
  | n + 1, addr, bs =>
    let k := 256 - addr % 256
    if bs.length ≤ k then [(addr, bs)] else (addr, bs.take k) :: cutWrite n (addr + k) (bs.drop k)

/-- Queue a write to host memory after the writes it is ordered behind (R529). -/
def State.addWrite (s : State) (k : WKind) (addr : Nat) (data : List Byte) (after : List Nat) : State :=
  let pieces := cutWrite (data.length / 256 + 2) addr data
  let go (s : State) (p : Nat × List Byte) : State :=
    let w : HostWrite := ⟨s.nextId, k, p.1, p.2, after, false, false, 0⟩
    { s with nextId := s.nextId + 1, writes := s.writes ++ [w] }
  (pieces.foldl go s).sendReady

/-- Outstanding writes whose kind satisfies `p`. -/
def State.writeIds (s : State) (p : WKind → Bool) : List Nat := (s.writes.filter fun w => p w.kind).map (·.id)

/-- The next request of a read may go out now: a port is usable, its share lets it, no write to its bytes is outstanding, and its identifier is
free on the port, which all requests of a read share (R301, R527, R529, R530). -/
def State.mayRequest (s : State) (r : FmRead) (port : Nat) : Bool :=
  decide (r.sent < r.requests) && !r.failed && s.fmUp && s.readMay r.kind
  && !s.writeOut (r.addr + 16384 * r.sent) (64 * r.unitsOf r.sent) && !s.txBusy port (r.id + r.sent)

/-- The requests of a read go out as far as they may; at most `n` of them. -/
def State.sendRequests (s : State) (id : Nat) : Nat → State
  | 0 => s
  | n + 1 =>
    match s.reads.find? fun r => r.id = id with
    | none => s
    | some r =>
      let p := if r.sent = 0 then s.pickPort r.id else r.port
      if !s.mayRequest r p then s else
      let go (x : FmRead) : FmRead := if x.id = id then { x with port := p, sent := r.sent + 1 } else x
      (({ s with reads := s.reads.map go } : State).send p
        [⟨0, fmTag 0x31 (r.addr + 16384 * r.sent) ((id + r.sent) % 4096) (r.unitsOf r.sent)⟩]).sendRequests id n

/-- A read goes out from its first request on (R527, R530). -/
def State.sendRead (s : State) (r : FmRead) : State :=
  let back (x : FmRead) : FmRead := if x.id = r.id then { x with port := 1, failed := false, flits := [], sent := 0 } else x
  ({ s with reads := s.reads.map back } : State).sendRequests r.id r.requests

/-- Start a read of `units` 64-byte units (R527); with no usable port it waits for one. -/
def State.addRead (s : State) (k : RKind) (addr units : Nat) : State :=
  let r : FmRead := ⟨s.nextId, 1, k, addr, units, 0, [], false, false, 0⟩
  ({ s with nextId := s.nextId + r.requests, reads := s.reads ++ [r] } : State).sendRequests r.id r.requests

/-- What waits for a usable port, an identifier, a write or its share goes out (R301, R527, R529, R530). -/
def State.resumeTraffic (s : State) : State :=
  let s := s.sendReady
  (s.reads.filter fun r => r.port != 0 && decide (r.sent < r.requests)).foldl (fun s r => s.sendRequests r.id r.requests) s

end Sys2Proof.Machine
end

