-- ==== Sys2Proof/Machine/Flags.lean ====
section
/-! DEFINITION. Status flags and what rises with them: ERR_STATUS (R572), counters (R575), interrupts (R484 to R486), and
the writes to host memory with their order (R529). -/
namespace Sys2Proof.Machine
open Sys2Proof

/-- A command begins: the one-beat pulses of the previous one are over (R19, R23). -/
def State.begin (s : State) : State := { s with tickAck := false, stopDone := [] }

/-- The clock reaches a timed event. -/
def State.advance (s : State) (t : Nat) : State := { s with now := max s.now t }

/-- A fresh value of the model's own counter. -/
def State.useFree (s : State) : State := { s with free := s.free + 1 }

/-- Counters by their index (R575). -/
inductive Cnt where
  | ticks | tickCoalesced | overrun | lateRow | nonfinite | composeMiss | siding | routeDrop | exit | invalidIndex
  | dupCoalesced | flipLate | draftAccepted | draftRejected | maskedOut | ringFull | refused | stepSkipped | kvStall
  | groupMismatch | optStep | optAbandoned | gradNonfinite | convertSkipped | depotReread | wagonReread | parityRefetch
  | poisoned | crcResend | portFatal | xchLost | fmErr | cqStall | evtLost | throttle | throttleUs | droop | govUs
  | thermWarn | thermThrottle | trip | halt | coldReset | warmReset | logSave | energyJ | uptimeS
  deriving DecidableEq, Repr

/-- The index of a counter. -/
def Cnt.idx : Cnt → Nat
  | .ticks => 0 | .tickCoalesced => 1 | .overrun => 2 | .lateRow => 3 | .nonfinite => 4 | .composeMiss => 5
  | .siding => 6 | .routeDrop => 7 | .exit => 8 | .invalidIndex => 9 | .dupCoalesced => 10 | .flipLate => 11
  | .draftAccepted => 12 | .draftRejected => 13 | .maskedOut => 14 | .ringFull => 15 | .refused => 16
  | .stepSkipped => 17 | .kvStall => 18 | .groupMismatch => 19 | .optStep => 20 | .optAbandoned => 21
  | .gradNonfinite => 22 | .convertSkipped => 23 | .depotReread => 24 | .wagonReread => 25 | .parityRefetch => 26
  | .poisoned => 27 | .crcResend => 28 | .portFatal => 29 | .xchLost => 30 | .fmErr => 31 | .cqStall => 32
  | .evtLost => 33 | .throttle => 34 | .throttleUs => 35 | .droop => 36 | .govUs => 37 | .thermWarn => 38
  | .thermThrottle => 39 | .trip => 40 | .halt => 41 | .coldReset => 42 | .warmReset => 43 | .logSave => 44
  | .energyJ => 45 | .uptimeS => 46

/-- 64-bit saturating addition (R575). -/
def satAdd64 (a : DWord) (n : Nat) : DWord := BitVec.ofNat 64 (min (a.toNat + n) (2 ^ 64 - 1))

/-- Raise a counter by `n`, saturating. -/
def State.count (s : State) (c : Cnt) (n : Nat) : State :=
  { s with log := { s.log with cnt := s.log.cnt.setIfInBounds c.idx (satAdd64 (s.log.cnt.toList.getD c.idx 0) n) } }

/-- The present value of a counter. -/
def State.cntVal (s : State) (c : Cnt) : Nat := (s.log.cnt.toList.getD c.idx 0).toNat

/-- Add to a histogram bin, saturating (R576). -/
def State.histAdd (s : State) (h bin n : Nat) : State :=
  let v := s.log.hist.getD h (Vector.replicate 32 0)
  { s with log := { s.log with hist := setAt s.log.hist h (v.setIfInBounds bin (satAdd64 (v.toList.getD bin 0) n)) } }

/-- Bits of ERR_STATUS (R584). -/
inductive Err where
  | stopFraming | tickHeader | tickSeq | xchSeq | xchLost | groupMismatch | portFatal | fmErr | platformParity | exitCfg
  | draftSeq | ringPtr | cqStall | evtLost | poisoned | internal | halt
  deriving DecidableEq, Repr

/-- The bit of an error. -/
def Err.bit : Err → Nat
  | .stopFraming => 0 | .tickHeader => 1 | .tickSeq => 2 | .xchSeq => 3 | .xchLost => 4 | .groupMismatch => 5
  | .portFatal => 6 | .fmErr => 7 | .platformParity => 8 | .exitCfg => 9 | .draftSeq => 10 | .ringPtr => 11
  | .cqStall => 12 | .evtLost => 13 | .poisoned => 14 | .internal => 15 | .halt => 16

/-- The error bit is set. -/
def State.err (s : State) (e : Err) : Bool := s.errs.getLsbD e.bit

/-- The error a link sets for a kind or a version it does not know (R498, R503). -/
def linkErr (port : Nat) : Err := if port < 4 then .stopFraming else if port = 4 then .xchSeq else .fmErr

/-- A message interrupt or a line: source `src` becomes pending; from 0 to 1 with EN and MSI set it sends MSI_DATA + src to
MSI_ADDR (R485, R486). -/
def State.raise (s : State) (src : Nat) : State :=
  if s.irqPend.getLsbD src then s else
  let s := { s with irqPend := s.irqPend ||| BitVec.ofNat 5 (2 ^ src) }
  if s.rf 0x5010 (4 * src + 3) 1 = 1 && s.rf 0x5010 (4 * src + 2) 1 = 1 then
    s.addWrite (.msi src) (s.addr64 0x5020) (leBytes 4 ((s.reg 0x5028).toNat + src)) []
  else s

/-- A COMPL interrupt is due: at once, or deferred by IRQ_HOLDOFF.COMPL_US (R485). -/
def State.raiseCompl (s : State) : State :=
  match s.complAt with
  | some t =>
    if s.now < t + s.rf 0x5018 0 16 * 1300 then { s with complDue := true }
    else ({ s with complAt := some s.now }).raise 0
  | none => ({ s with complAt := some s.now }).raise 0

/-- A TOKEN interrupt is due: at once, or deferred by HEAD_CFG.HOLDOFF_US (R385). -/
def State.raiseToken (s : State) : State :=
  match s.tokenAt with
  | some t =>
    if s.now < t + s.rf 0x20C4 16 16 * 1300 then { s with tokenDue := true }
    else ({ s with tokenAt := some s.now }).raise 1
  | none => ({ s with tokenAt := some s.now }).raise 1

/-- A due interrupt of a source, with its timing (R485). -/
def State.due (s : State) (src : Nat) : State :=
  if src = 0 then s.raiseCompl else if src = 1 then s.raiseToken else s.raise src

/-- ERR_STATUS holds an unmasked bit: the condition of ERR (R484). -/
def State.errDue (s : State) : Bool := s.errs &&& ~~~(BitVec.ofNat 17 (s.reg 0x5004).toNat) != 0

/-- ERR is due while its condition holds (R484, R485). -/
def State.errIrq (s : State) : State := if s.errDue then s.raise 3 else s

/-- IRQ[3:0]: a line is high while a source that IRQ_ROUTE routes to it is pending and enabled (R486, R489). -/
def State.irqLines (s : State) : BitVec 4 :=
  let on (l : Nat) : Bool := (List.range 5).any fun src =>
    s.irqPend.getLsbD src && s.rf 0x5010 (4 * src + 3) 1 = 1 && s.rf 0x5010 (4 * src + 2) 1 = 0 && s.rf 0x5010 (4 * src) 2 = l
  BitVec.ofNat 4 ((List.range 4).foldl (fun a l => if on l then a + 2 ^ l else a) 0)

/-- Set an ERR_STATUS bit; the first is recorded in ERR_FIRST and ERR_TICK (R572). -/
def State.setErr (s : State) (e : Err) : State :=
  ({ s with
    errs := s.errs ||| BitVec.ofNat 17 (2 ^ e.bit)
    errFirst := match s.errFirst with | none => some e.bit | some b => some b
    errTick := match s.errFirst with | none => BitVec.ofNat 32 s.tick.count | some _ => s.errTick }).errIrq

/-- Set an error only when a condition holds. -/
def State.errIf (s : State) (c : Bool) (e : Err) : State := if c then s.setErr e else s

/-- One pass of release: interrupts whose writes are acknowledged are raised, and writes with nothing ahead go out. -/
def State.releaseOnce (s : State) : State :=
  let isRaise (w : HostWrite) : Bool := match w.kind with | .raise _ => true | _ => false
  let ready := s.writes.filter fun w => w.after.isEmpty
  let raises := ready.filterMap fun w => match w.kind with | .raise src => some src | _ => none
  let s := { s with writes := s.writes.filter fun w => !(w.after.isEmpty && isRaise w) }
  (raises.foldl State.due s).sendReady

/-- A write is acknowledged: nothing waits for it any longer. -/
def State.ackWrite (s : State) (id : Nat) : State :=
  let strike (w : HostWrite) : HostWrite := { w with after := w.after.filter fun i => i != id }
  ({ s with writes := (s.writes.filter fun (w : HostWrite) => w.id != id).map strike } : State).releaseOnce

/-- A write that carries a write-back or a page move: it is retried at tick starts alone (R531). -/
def WKind.carries : WKind → Bool
  | .writeBack _ | .pageMove _ _ => true
  | _ => false

/-- The writes that failed are issued again, at a tick start or, in idle, at a wake read (R531). -/
def State.reissue (s : State) : State :=
  let clear (w : HostWrite) : HostWrite := { w with failed := w.failed && s.tick.idle && w.kind.carries }
  ({ s with writes := s.writes.map clear } : State).releaseOnce

/-- Raise interrupt `src` once the writes `after` are acknowledged, or at once when there are none. -/
def State.raiseAfter (s : State) (src : Nat) (after : List Nat) : State :=
  let w : HostWrite := ⟨s.nextId, .raise src, 0, [], after, false, false, 0⟩
  ({ s with nextId := s.nextId + 1, writes := s.writes ++ [w] } : State).releaseOnce

end Sys2Proof.Machine
end

