-- ==== Sys2Proof/Machine/Ops.lean ====
section
/-! DEFINITION. Shared operations: rings and completions (R461 to R465), the checks every descriptor meets (R467), directory
and tenant lookup, the accounting of tiers and quotas (R241, R252, R293), and poisoning (R305). -/
namespace Sys2Proof.Machine
open Sys2Proof

/-! Rings. -/

/-- Ring k. -/
def State.ring (s : State) (k : Nat) : Ring := s.rings.toList.getD k ⟨0, 0, 0, 0, .enabled, 0⟩
/-- Replace ring k. -/
def State.setRing (s : State) (k : Nat) (r : Ring) : State := { s with rings := s.rings.setIfInBounds k r }
/-- RING_CFGk.VALID (R487). -/
def State.ringValid (s : State) (k : Nat) : Bool := s.rf (0x1050 + 0x20 * k) 31 1 = 1
/-- CQ_LOG2 of ring k. -/
def State.cqLog2 (s : State) (k : Nat) : Nat := s.rf (0x1050 + 0x20 * k) 8 5
/-- SQ_LOG2 of ring k. -/
def State.sqLog2 (s : State) (k : Nat) : Nat := s.rf (0x1050 + 0x20 * k) 0 5

/-- Records of ring k that neither wait for the driver nor are reserved. -/
def State.cqFree (s : State) (k : Nat) : Nat :=
  let r := s.ring k
  2 ^ s.cqLog2 k - (r.cqTail - r.cqHead).toNat - r.cqResv

/-- The room of R461, with the 16 records that ring 0 holds back. -/
def State.cqRoom (s : State) (k : Nat) : Nat := s.cqFree k - (if k = 0 then 16 else 0)

/-- Write ring k's status line after its completion records and its earlier status lines (R452, R464). -/
def State.statusLine (s : State) (k : Nat) : State :=
  s.addWrite (.statusLine k) (s.addr64 0x1000 + 0x200 + 64 * k) (statusLineBytes (s.ring k))
    (s.writeIds fun w => w == .completion k || w == .statusLine k)

/-- The most recent status-line write of ring k that is outstanding. -/
def State.lastStatus (s : State) (k : Nat) : List Nat := s.writeIds fun w => w == .statusLine k

/-- Write one record into completion ring k, then its status line, then raise the interrupts `srcs` (R462, R464, R485). -/
def State.writeRecord (s : State) (k : Nat) (data : List Byte) (resv : Nat) (srcs : List Nat) : State :=
  let r := s.ring k
  let slot := r.cqTail.toNat % 2 ^ s.cqLog2 k
  let s := s.addWrite (.completion k) (s.addr64 (0x1048 + 0x20 * k) + 32 * slot) data []
  let s := s.setRing k { r with cqTail := r.cqTail + 1, cqResv := r.cqResv - resv }
  let s := s.statusLine k
  srcs.foldl (fun s src => s.raiseAfter src (s.lastStatus k)) s

/-- Where driver line k of the doorbell block lies (R452). -/
def State.driverLine (s : State) (k : Nat) : Nat := s.addr64 0x1000 + 64 * k
/-- Where descriptor number D of ring k lies (R451). -/
def State.descAddr (s : State) (k : Nat) (d : Word) : Nat := s.addr64 (0x1040 + 0x20 * k) + 64 * (d.toNat % 2 ^ s.sqLog2 k)

/-- Low 32 bits of the tick counter. -/
def State.tick32 (s : State) : Nat := s.tick.count % 2 ^ 32

/-- A taken descriptor completes (R462, R463): its record is written, its reservation ends. -/
def State.finish (s : State) (tk : Taken) (a : Answer) : State :=
  let k := tk.ring
  let rec_ := completionBytes (opcodeOf tk.bytes) (phaseOf (s.ring k).cqTail (s.cqLog2 k)) k (cookieOf tk.bytes) tk.num.toNat
    false a s.tick32
  let irq := irqOf tk.bytes || s.rf (0x1050 + 0x20 * k) 30 1 = 1
  let s := { s with taken := s.taken.filter fun t => !(t.ring = tk.ring && t.num = tk.num) }
  s.writeRecord k rec_ 1 (if irq then [0] else [])

/-- The SEC1 entry of a descriptor read at a tick's start (R417, R460). -/
def State.sec1Add (s : State) (tk : Taken) (status : Nat) (extra : List Byte) : State :=
  if isShared tk.bytes && !tk.quiet then
    { s with digest := { s.digest with
        sec1 := s.digest.sec1 ++ [(tk.readTick, bvBytes tk.bytes ++ leBytes 1 status ++ extra)] } }
  else s

/-- A TABLE_ROW_UPDATE completes: its bytes and final status go into the next digest, in read order, but for one taken while the engine is
QUIESCED (R347, R417, R420). -/
def State.doneAdd (s : State) (tk : Taken) (status : Nat) : State :=
  if tk.quiet || opcodeOf tk.bytes != 0x25 then s else
  { s with digest := { s.digest with
      sec1Done := putKey (fun (x : Nat × List Byte) => x.1) (tk.seq, bvBytes tk.bytes ++ leBytes 1 status) s.digest.sec1Done } }

/-- A TABLE_ROW_UPDATE that waited completes. -/
def State.finishRows (s : State) (tk : Taken) (a : Answer) : State := (s.doneAdd tk a.status).finish tk a

/-- A descriptor completes at its read. -/
def State.answer (s : State) (tk : Taken) (a : Answer) : State := ((s.sec1Add tk a.status []).doneAdd tk a.status).finish tk a

/-- A signal-box fault ends a descriptor without effect (R477). The command set has no such event; the internal fault that it has halts the block
(assumption log 111). -/
def State.signalBoxFault (s : State) (tk : Taken) : State := (s.setErr .internal).answer tk (ans 0x7F 0)

/-- A descriptor is accepted and waits; in SEC1 its status is 0xFF (R460). -/
def State.park (s : State) (tk : Taken) (p : Pend) : State :=
  let s := s.sec1Add tk 0xFF []
  { s with taken := updWhere (fun t => t.ring = tk.ring && t.num = tk.num) (fun t => { t with pend := p }) s.taken }

/-- Complete every waiting descriptor whose reason satisfies `p`, in read order. -/
def State.finishWhere (s : State) (p : Pend → Bool) (a : Answer) : State :=
  (s.taken.filter fun t => p t.pend).foldl (fun s t => s.finish t a) s

/-! Unsolicited completions (R465). -/

/-- Ring 0 can take an unsolicited record now. -/
def State.unsolRoom (s : State) : Bool := s.ringValid 0 && s.fmUp && decide (1 ≤ s.cqFree 0)

/-- Write one unsolicited record; it makes UNSOL due, and COMPL too when the ring asks for every completion (R484). -/
def State.unsolWrite (s : State) (u : Unsol) : State :=
  let rec_ := completionBytes 0xFF (phaseOf (s.ring 0).cqTail (s.cqLog2 0)) 0 0 0 true
    ⟨u.status, 0, u.result0.toNat, u.result1.toNat, 0⟩ u.stamp.toNat
  s.writeRecord 0 rec_ 0 (if s.rf 0x1050 30 1 = 1 then [0, 2] else [2])

/-- An event that no descriptor asked about: written at once when there is room, else queued, else lost. -/
def State.unsolEvent (s : State) (status r0 r1 : Nat) : State :=
  let u : Unsol := ⟨status, BitVec.ofNat 32 r0, BitVec.ofNat 32 r1, BitVec.ofNat 32 s.tick.count⟩
  if s.unsol.isEmpty && s.unsolRoom then s.unsolWrite u
  else if s.unsol.length < 64 then { s with unsol := s.unsol ++ [u] }
  else (s.count .evtLost 1).setErr .evtLost

/-- At a doorbell read the queued records are written, oldest first, as ring 0's room allows. -/
def State.unsolDrain (s : State) : List Unsol → State
  | [] => { s with unsol := [] }
  | u :: us => if s.unsolRoom then (s.unsolWrite u).unsolDrain us else { s with unsol := u :: us }

/-! Directory and tenants. -/

/-- TAG of a handle (R226). -/
def hTag (h : Word) : Nat := fld h 18 14
/-- SLOT of a handle. -/
def hSlot (h : Word) : Nat := fld h 0 18

/-- The record of an occupied slot. -/
def State.dirAt (s : State) (slot : Nat) : Option Dir := s.dirs.find? fun d => d.slot = slot
/-- The record that holds exactly this handle (R228). -/
def State.dirOf (s : State) (h : Word) : Option Dir := s.dirs.find? fun d => d.slot = hSlot h && d.handle = h
/-- Replace the record of a slot. -/
def State.setDir (s : State) (d : Dir) : State := { s with dirs := putKey Dir.slot d s.dirs }
/-- The slot becomes FREE. -/
def State.freeDir (s : State) (slot : Nat) : State := { s with dirs := s.dirs.filter fun d => d.slot != slot }

/-- The states in which a handle is installed (R265). -/
def SlotSt.inForce : SlotSt → Bool
  | .installed | .staging | .staged => true
  | _ => false

/-- A tenant's record; a tenant never named follows the defaults (R253) and is ENABLED (R480). -/
def State.tenant (s : State) (t : Nat) : Tenant :=
  (s.tenants.find? fun x => x.id = t).getD ⟨t, [none, none, none, none], .enabled⟩
/-- Replace a tenant's record. -/
def State.setTenant (s : State) (t : Tenant) : State := { s with tenants := putKey Tenant.id t s.tenants }

/-! Accounting. -/

/-- Quota of a tenant in tier k (R253). -/
def State.quota (s : State) (t k : Nat) : Nat :=
  match ((s.tenant t).quota.getD (k - 1) none) with
  | some q => q.toNat
  | none => (s.reg (0x4000 + 4 * (k - 1))).toNat

/-- Usage of a tenant in tier k, in wagons (R252). -/
def State.usage (s : State) (t k : Nat) : Nat :=
  s.charges.foldl (fun a c => if c.tenant = t && c.tier = k then a + c.wagons else a) 0

/-- Runs allocated in tier k, the head area included in T1 (R275). -/
def State.usedRuns (s : State) (k : Nat) : Nat :=
  s.charges.foldl (fun a c => if c.tier = k then a + c.runs else a) (if k = 1 then s.headRuns.length else 0)

/-- Tier-map entries in use (R246). -/
def State.tmapUsed (s : State) : Nat := s.charges.foldl (fun a c => a + c.entries) 0

/-- Runs that tier k gives to placement: T1_LIMIT or the pool (R242, R255). -/
def State.tierRuns (s : State) (k : Nat) : Nat :=
  if k = 1 then s.rf 0x4010 0 20 else (s.reg (0x4028 + 16 * (k - 2))).toNat

/-- Free runs of tier k in the accounting. -/
def State.freeRuns (s : State) (k : Nat) : Nat := s.tierRuns k - s.usedRuns k

/-- Free head units in head runs already taken (R241). -/
def State.freeHead (s : State) : Nat := s.headRuns.foldl (fun a r => a + (r.filter (· = 0)).length) 0

/-- Take `n` units of one head run for copy `id`; the run and what is still needed. -/
def takeUnits (id : Nat) : List Nat → Nat → List Nat × Nat
  | [], n => ([], n)
  | u :: us, n =>
    if u = 0 && 0 < n then let r := takeUnits id us (n - 1); (id :: r.1, r.2)
    else let r := takeUnits id us n; (u :: r.1, r.2)

/-- Take `n` head units: the lowest free units of the runs taken, in the order taken, then further runs (R241). -/
def takeHead (id : Nat) : List (List Nat) → Nat → List (List Nat)
  | [], n => (List.range (ceilDiv n 16)).map fun i => (takeUnits id (List.replicate 16 0) (min 16 (n - 16 * i))).1
  | r :: rs, n => let x := takeUnits id r n; x.1 :: takeHead id rs x.2

/-- Release the head units of a copy; emptied runs return to T1. -/
def State.dropHead (s : State) (id : Nat) : State :=
  let cleared := s.headRuns.map fun r => r.map fun u => if u = id then 0 else u
  { s with headRuns := cleared.filter fun r => r.any fun u => u != 0 }

/-- Check 12 of R255: the first tier whose quota the charges would exceed. -/
def State.overQuota (s : State) (t : Nat) (need : List (Nat × Nat)) : Option Nat :=
  [1, 2, 3, 4].find? fun k =>
    let n := need.foldl (fun a x => if x.1 = k then a + x.2 else a) 0
    decide (0 < n) && decide (s.quota t k < s.usage t k + n)

/-- Check 13 of R255: `runs` in tier k, `head` units, `entries` tier-map entries. -/
def State.roomFor (s : State) (k runs head entries : Nat) : Bool :=
  let f1 := s.freeRuns 1
  let left := if k = 1 then f1 - runs else f1
  decide (runs ≤ s.freeRuns k) && decide (head ≤ s.freeHead + 16 * left) && decide (s.tmapUsed + entries ≤ 4194304)

/-- Release from the accounting every charge that satisfies `p`, with the head units of its copy (R293). -/
def State.release (s : State) (p : Charge → Bool) : State :=
  let gone := (s.charges.filter fun c => p c && c.kind == .head).map (·.copy)
  let s := { s with charges := s.charges.filter fun c => !p c }
  gone.foldl State.dropHead s

/-- The accounting releases that fall due when the tick counter takes `n` (R293). -/
def State.releaseDue (s : State) (n : Nat) : State :=
  s.release fun c => match c.relAt with | some m => decide (m ≤ n) | none => false

/-- The charges of a copy that satisfy `p` leave the accounting at TICK_ACK of tick `n`, unless they leave earlier. -/
def State.releaseAt (s : State) (slot : Nat) (p : Charge → Bool) (n : Nat) : State :=
  let mark (c : Charge) : Charge := { c with relAt := some (match c.relAt with | some m => min m n | none => n) }
  { s with charges := updWhere (fun c => c.slot = slot && p c) mark s.charges }

/-! Physical runs (R240, R245, R294). -/

/-- Run numbers of tier k that runs, moves, conversions and stale sources hold on the block. -/
def State.runLocs (s : State) (k : Nat) : List Nat :=
  (s.tmap.filter fun r => r.src = k).map (·.loc.toNat)
  ++ ((s.tmap.filter fun r => r.tier = k).filterMap fun r => r.dest.map BitVec.toNat)
  ++ ((s.stale.filter fun e => e.tier = k).map (·.loc.toNat))
  ++ s.dirs.flatMap fun d => if d.convRuns.1 = k then d.convRuns.2 else []

/-- Runs of tier k that the head area and optimiser states hold; no tier-map entry names their places. -/
def State.otherRuns (s : State) (k : Nat) : Nat :=
  if k = 1 then s.charges.foldl (fun a c => if c.kind == .state then a + c.runs else a) s.headRuns.length else 0

/-- Runs that tier k has on the block. -/
def State.runCap (s : State) (k : Nat) : Nat := if k = 1 then s.tierCap1 else (s.reg (0x4028 + 16 * (k - 2))).toNat

/-- The first run number from `i` on, cyclically, that is not in use. -/
def nextRun (used : List Nat) (cap : Nat) : Nat → Nat → Nat
  | 0, i => i % cap
  | f + 1, i => if used.contains (i % cap) then nextRun used cap f (i + 1) else i % cap

/-- `n` runs, one after another over the channels: consecutive numbers lie on consecutive channels (R240, R245). -/
def pickRuns (cap : Nat) : Nat → List Nat → Nat → List Nat
  | 0, _, _ => []
  | n + 1, used, i => let l := nextRun used cap used.length i; l :: pickRuns cap n (l :: used) (l + 1)

/-- Places for `n` runs of tier k, the first at `start` or beyond it; none while too many are occupied (R294). -/
def State.takeRunsAt (s : State) (k n start : Nat) : Option (List Nat) :=
  let used := s.runLocs k
  let cap := s.runCap k
  if cap < used.length + s.otherRuns k + n then none else some (pickRuns cap n used (start % max 1 cap))

/-- Places for `n` runs of tier k. Where the first lies is the block's own (R247). -/
def State.takeRuns (s : State) (k n : Nat) : Option (List Nat) := s.takeRunsAt k n (Config.freeWord s.free).toNat

/-- A source run that no fetch reads any more and no tick built before its remap still needs is released (R249, R251). -/
def State.dropStale (s : State) : State :=
  let open_ (e : Stale) : Bool :=
    (s.frames.any fun f => f.group.isSome && f.tier = e.tier && f.loc = e.loc)
    || decide (s.tick.count < e.tick) || (decide (e.tick = s.tick.count) && s.tick.active)
  { s with stale := s.stale.filter open_ }

/-! Poisoning (R305, R351). -/

/-- The moves, fetches and write-backs of a slot's object end (R305). -/
def State.stopTraffic (s : State) (slot : Nat) : State :=
  let halt (r : TRun) : TRun := if slotOf r.addr = slot then { r with moving := false, dest := none, built := false } else r
  { s with
    tmap := s.tmap.map halt
    writes := s.writes.filter fun (w : HostWrite) => match w.kind with
      | .writeBack a => w.issued || slotOf a != slot
      | _ => true
    reads := s.reads.filter fun (r : FmRead) => match r.kind with
      | .wagon a | .writeBack a => slotOf a != slot
      | _ => true }

/-- Poison the object of a slot; an object already poisoned or a slot that holds nothing is left. -/
def State.poison (s : State) (slot : Nat) : State :=
  match s.dirAt slot with
  | none => s
  | some d =>
    if d.poisoned then s else
    ((((s.stopTraffic slot).setDir { d with poisoned := true, convRuns := (0, []) }).count .poisoned 1).setErr .poisoned).unsolEvent 0x51
      d.handle.toNat d.tenant

/-! What every descriptor meets (R456, R467). -/

/-- The oldest taken descriptor that has not been checked (R456). -/
def State.front (s : State) : Option Taken := s.taken.find? fun t => t.pend == .unchecked

/-- The object that owns an adapter-space address is poisoned. -/
def State.poisonedAt (s : State) (a : Nat) : Bool := match s.dirAt (slotOf a) with | some d => d.poisoned | none => false

/-- The dirty wagons of a run. -/
def TRun.dirtyAddrs (r : TRun) : List Nat :=
  (List.range 16).filterMap fun i => if r.dirty.getLsbD i then some (r.addr + 4352 * i) else none

/-- The wagons with DIRTY set. -/
def State.dirtyAddrs (s : State) : List Nat := s.tmap.flatMap TRun.dirtyAddrs

/-- Dirty wagons that may be written back: of runs that are not moving, of objects that are not poisoned (R250, R305). -/
def State.backAddrs (s : State) : List Nat :=
  (s.tmap.filter fun r => !(r.moving || s.poisonedAt r.addr)).flatMap TRun.dirtyAddrs

/-- The frames as the fetches of the program that runs leave them (R280). -/
def State.comingFrames (s : State) : List Frame :=
  match s.tick.cur with
  | some t =>
    if !s.tick.active || t.standing then s.frames else
    ((fetchesOf t 1).filter fun f => !s.poisonedAt (entryAddr f.2)).foldl
      (fun fs f => (t.castTo f).foldl
        (fun fs c => putFrame fs ⟨c / 16, c % 16, entrySlot f.2, entryAddr f.2, s.tick.count + 3, none, 0, 0, 0, 0⟩) fs) s.frames
  | none => s.frames

/-- What a build that begins now works from (R50). -/
def State.nowInputs (s : State) : Inputs :=
  { reqs := s.reqs, lines := s.lines, dirs := s.dirs, exitCfg := s.exitCfg, trains := s.trains, power := s.power, regs := s.regs
    specials := s.specials, free := s.free, frames := s.comingFrames, dirty := s.backAddrs
    flying := s.reads.filterMap fun (r : FmRead) => match r.kind with | .writeBack a => some a | _ => none }

/-- The state that a build sees: its inputs as they stood when it began (R51). -/
def State.withInputs (s : State) (i : Inputs) : State :=
  { s with reqs := i.reqs, lines := i.lines, dirs := i.dirs, exitCfg := i.exitCfg, trains := i.trains, power := i.power, regs := i.regs
           specials := i.specials, free := i.free, frames := i.frames }

/-- A step boundary of the header's line, or the write of its manifest, comes before the build (R414). -/
def State.boundaryDue (s : State) (h : Header) : Bool :=
  (h.kind = 0 || h.kind = 3) && ((s.lines.toList.getD h.line LineSt.reset).boundary || s.writes.any fun w => w.kind == .manifest h.line)

/-- The build under way begins, and its inputs are taken, once the descriptors of the tick's start are checked and no boundary of its
line is due (R50, R51, R414; assumption log 74). -/
def State.beginBuild (s : State) : State :=
  match s.tick.buildFor, s.inputs with
  | some h, none => if s.front.isSome || s.boundaryDue h then s else { s with inputs := some s.nowInputs, free := s.free + 1 }
  | _, _ => s

/-- Check G5 names this tenant (R467). -/
def State.gateTenant (s : State) (b : DescBytes) : Option Nat :=
  let op := opcodeOf b
  if op = 0x10 then some (dF b 12 0 16)
  else if op = 0x20 || op = 0x24 then some (dF b 12 0 16)
  else if op = 0x21 && !commitOf b then (s.dirOf (word8 b)).map (·.tenant)
  else none

/-- The first of the checks G1 to G5 that fails (R467). -/
def State.generalCheck (s : State) (b : DescBytes) : Option Answer :=
  let op := opcodeOf b
  let fmt := s.negot.getD 0 0
  let g1 := if fmt = 0 then op = 0 || op = 1 else op = 1 || dfmtOf b = fmt
  let g2 := if fmt = 0 then true else formatHolds fmt op
  if !g1 then some (ans 0x40 1)
  else if !g2 then some (ans 0x40 2)
  else if isShared b && s.err .groupMismatch && s.engine != .quiesced then some (ans 0x16 0)
  else if (s.engine == .quiescing || s.engine == .held) && !(op = 0 || op = 4 || op = 2 || op = 3) then some (ans 0x17 0)
  else match s.gateTenant b with
    | some t => if (s.tenant t).st != .enabled then some (ans 0x17 0) else none
    | none => none

/-- Descriptors in front whose opcode no format holds fail G1 or G2 (R467, R468); at most `n` of them. -/
def State.rejectUnknown (s : State) : Nat → State
  | 0 => s
  | n + 1 =>
    match s.front with
    | some tk =>
      if (formatOf (opcodeOf tk.bytes)).isNone then
        (s.answer tk ((s.generalCheck tk.bytes).getD (ans 0x40 2))).rejectUnknown n
      else s
    | none => s

/-- A descriptor command: it applies the oldest unchecked descriptor when its form is the command's, after the checks of
R467; with another descriptor in front, or none, it has no effect. -/
def State.withDesc (s : State) (form : DescBytes → Bool) (f : State → Taken → State) : State :=
  if !s.live then s else
  match s.front with
  | none => s
  | some tk =>
    if !form tk.bytes then s else
    let s := match s.generalCheck tk.bytes with
      | some a => s.answer tk a
      | none => f s tk
    (s.rejectUnknown s.taken.length).beginBuild

end Sys2Proof.Machine
end

