-- ==== Sys2Proof/Machine/Requests.lean ====
section
/-! DEFINITION. The request table (R388 to R409): opening, the request descriptors, expiry, token rings' memory (R380 to R383)
and final records. -/
namespace Sys2Proof.Machine
open Sys2Proof

/-! Lookup. -/

/-- GEN of a tag (R388). -/
def tagGen (t : Word) : Nat := fld t 12 20
/-- SLOT of a tag. -/
def tagSlot (t : Word) : Nat := fld t 0 12
/-- A tag. -/
def mkReqTag (gen slot : Nat) : Word := packWord [(12, 20, gen), (0, 12, slot)]

/-- The entry of an occupied slot. -/
def State.reqAt (s : State) (slot : Nat) : Option Req := s.reqs.find? fun r => r.slot = slot
/-- Replace an entry. -/
def State.setReq (s : State) (r : Req) : State := { s with reqs := putKey Req.slot r s.reqs }
/-- Change an entry if its slot is occupied. -/
def State.updReq (s : State) (slot : Nat) (f : Req → Req) : State := { s with reqs := updWhere (fun r => r.slot = slot) f s.reqs }
/-- The entry that a current tag names (R390). -/
def State.reqOf (s : State) (t : Word) : Option Req := s.reqs.find? fun r => r.slot = tagSlot t && r.tag = t
/-- Generation of a slot (R389). -/
def State.gen (s : State) (slot : Nat) : Nat := ((s.gens.find? fun g => g.1 = slot).map (·.2)).getD 0

/-- The lowest slot that is not in an ascending list of occupied slots, from `n` on. -/
def lowestFree : List Nat → Nat → Nat
  | [], n => n
  | x :: xs, n => if x = n then lowestFree xs (n + 1) else n

/-- `k` lowest-numbered free pages above an ascending list of used ones; fuel `k` + used (R403). -/
def lowestPages : Nat → Nat → List Nat → Nat → List Nat
  | 0, _, _, _ => []
  | _, 0, _, _ => []
  | f + 1, k + 1, [], n => n :: lowestPages f k [] (n + 1)
  | f + 1, k + 1, u :: us, n => if u = n then lowestPages f (k + 1) us (n + 1) else n :: lowestPages f k (u :: us) (n + 1)

/-- Take `k` pages of a pool of `limit` pages, if it has them. -/
def takePages (used : List Nat) (k limit : Nat) : Option (List Nat) :=
  let ps := lowestPages (k + used.length) k used 0
  if ps.all (fun p => decide (p < limit)) && ps.length = k then some ps else none

/-- Add pages to an ascending list. -/
def addPages (used ps : List Nat) : List Nat := ps.foldl (fun u p => putKey id p u) used

/-- Pages of the T2 pool and of the parking pool (R422). -/
def State.pool2 (s : State) : Nat := s.rf 0x40CC 0 24
/-- Pages of the parking pool. -/
def State.pool4 (s : State) : Nat := s.rf 0x40D8 0 24

/-! The sampling block (R361, R362). -/

/-- A sampling block from 48 bytes, as one number, with the replacements of R362. -/
def samplingOf (b : BitVec 384) : Sampling :=
  let w (byte : Nat) : Word := BitVec.ofNat 32 (fld b (8 * byte) 32)
  let f (byte lo len : Nat) := fld b (8 * byte + lo) len
  let temp := w 0; let topP := w 4; let minP := w 8; let rep := w 12
  { temp := if !fpFinite temp || fpLt temp 0 then 0 else temp
    topP := if fpIsNaN topP || fpLt fpOne topP then fpOne else topP
    minP := if fpIsNaN minP || fpLt minP 0 then 0 else minP
    repPen := if !fpFinite rep || fpLt rep fpOne then fpOne else rep
    topK := min 64 (f 16 0 7)
    penWin := min 64 (f 17 0 7)
    drafts := min 4 (f 18 0 3)
    plane := f 19 0 6
    outHead := w 20
    specHead := w 24
    planeHead := w 28
    seed := BitVec.ofNat 64 (fld b 256 64)
    eos := w 40 }

/-- The 48 bytes of a stored block. -/
def Sampling.bytes (x : Sampling) : List Byte :=
  leBytes 4 x.temp.toNat ++ leBytes 4 x.topP.toNat ++ leBytes 4 x.minP.toNat ++ leBytes 4 x.repPen.toNat ++ leBytes 1 x.topK
  ++ leBytes 1 x.penWin ++ leBytes 1 x.drafts ++ leBytes 1 x.plane ++ leBytes 4 x.outHead.toNat ++ leBytes 4 x.specHead.toNat
  ++ leBytes 4 x.planeHead.toNat ++ leBytes 8 x.seed.toNat ++ leBytes 4 x.eos.toNat ++ leBytes 4 0

/-! Token rings (R380 to R383). -/

/-- What a ring header says (R380). -/
structure RingHdr where
  prod : Word
  cons : Word
  mode : Nat
  irqN : Nat
  deriving DecidableEq, Repr

/-- Read a ring header; IRQ_N 0 is used as 1. -/
def ringHdrOf (b : DescBytes) : RingHdr :=
  ⟨BitVec.ofNat 32 (dF b 0 0 32), BitVec.ofNat 32 (dF b 8 0 32), dF b 12 0 2, max 1 (dF b 14 0 16)⟩

/-- Records between PROD and CONS exceed the ring (R382). -/
def RingHdr.bad (h : RingHdr) (log2 : Nat) : Bool := decide (2 ^ log2 < (h.prod - h.cons).toNat)
/-- The ring has room for `n` records. -/
def RingHdr.room (h : RingHdr) (log2 n : Nat) : Bool := !h.bad log2 && decide (n ≤ 2 ^ log2 - (h.prod - h.cons).toNat)

/-- A token record before its PHASE is known (R381). -/
structure TokRec where
  token  : Word
  stamp  : Nat
  tag    : Word
  last   : Bool
  draft  : Bool
  fin    : Bool
  exited : Bool
  masked : Bool
  status : Nat
  prob   : BitVec 16
  deriving DecidableEq, Repr

/-- The 16 bytes of record number P (R381). -/
def TokRec.bytes (r : TokRec) (p : Word) (log2 : Nat) : List Byte :=
  leBytes 4 r.token.toNat ++ leBytes 4 r.stamp ++ leBytes 4 r.tag.toNat
  ++ leBytes 1 (phaseOf p log2 + 2 * b2n r.last + 4 * b2n r.draft + 8 * b2n r.fin + 16 * b2n r.exited + 32 * b2n r.masked)
  ++ leBytes 1 r.status ++ leBytes 2 r.prob.toNat

/-- The interrupt that a ring asks for (R380): `since` counts the records of this write. -/
def irqWanted (h : RingHdr) (since : Nat) (rs : List TokRec) : Bool :=
  if h.mode = 0 then false
  else if h.mode = 1 then decide (h.irqN ≤ since)
  else if h.mode = 2 then rs.any fun r => r.fin || r.status != 0
  else !rs.isEmpty

/-- Write records into a ring from PROD on, then PROD once they are acknowledged, after earlier writes of that PROD
(R380, R383). -/
def State.writeRing (s : State) (slot base log2 : Nat) (prod : Word) (rs : List TokRec) : State :=
  let go (a : State × Word) (r : TokRec) : State × Word :=
    (a.1.addWrite (.tokenRecord slot) (base + 64 + 16 * (a.2.toNat % 2 ^ log2)) (r.bytes a.2 log2) [], a.2 + 1)
  let x := rs.foldl go (s, prod)
  let recs := x.1.writes.filterMap fun w => if decide (s.nextId ≤ w.id) then some w.id else none
  let prods := s.writes.filterMap fun w => if w.kind == .prod && w.addr = base then some w.id else none
  x.1.addWrite .prod base (leBytes 4 x.2.toNat) (recs ++ prods)

/-- Raise the token interrupt once every outstanding PROD write is acknowledged (R383). -/
def State.tokenIrq (s : State) : State := s.raiseAfter 1 (s.writeIds fun w => w == .prod)

/-! Final records (R408, R409). -/

/-- Queue a final record at group position 0; a full queue drops its oldest. -/
def State.queueFinal (s : State) (f : FinalRec) : State :=
  if s.pos != 0 then s
  else if s.finals.length < 4096 then { s with finals := s.finals ++ [f] }
  else ({ s with finals := s.finals.drop 1 ++ [f] }).count .ringFull 1

/-- The final record of a request that is freed. -/
def finalOf (r : Req) (status stamp : Nat) : FinalRec :=
  ⟨r.tag, status, BitVec.ofNat 32 stamp, r.ringBase, r.ringLog2, r.sinceIrq, false⟩

/-- A ring's header may be read: no write of its PROD is queued or outstanding (R383, R529). -/
def State.headerMay (s : State) (base : Nat) : Bool := !(s.writes.any fun w => w.kind == .prod && w.addr = base)

/-- One queued final record is tried with its ring's header: written when there is room (nr = 0), else kept. A header that did not come is a
failed read (R531). The flag says whether a token interrupt became due. -/
def State.tryFinal (hdrs : List (Word × DescBytes)) (a : State × Bool) (f : FinalRec) : State × Bool :=
  if !a.1.headerMay f.ringBase.toNat then ({ a.1 with finals := a.1.finals ++ [f] }, a.2) else
  let f := { f with asked := false }
  match hdrs.find? fun h => h.1 = f.tag with
  | none => ((({ a.1 with finals := a.1.finals ++ [f] } : State).setErr .fmErr).count .fmErr 1, a.2)
  | some hb =>
    let h := ringHdrOf hb.2
    let s := a.1.errIf (h.bad f.ringLog2) .ringPtr
    if h.room f.ringLog2 1 then
      let r : TokRec := ⟨0xFFFFFFFF, f.stamp.toNat, f.tag, true, false, true, false, false, f.status, 0⟩
      (s.writeRing (tagSlot f.tag) f.ringBase.toNat f.ringLog2 h.prod [r], a.2 || irqWanted h (f.since + 1) [r])
    else ({ s with finals := s.finals ++ [f] }, a.2)

/-- A token interrupt is due; at the boundary that a HEAD tick still has to come it is raised with that tick's (R385). -/
def State.wantToken (s : State) (due : Bool) : State := if due then { s with tick := { s.tick with tokWant := true } } else s

/-- The token interrupt of a HEAD tick is raised, one for its records and its boundary's (R385). -/
def State.raiseTokens (s : State) : State :=
  if s.tick.tokWant then ({ s with tick := { s.tick with tokWant := false } } : State).tokenIrq else s

/-- Every queued final record is tried, oldest first (R409). -/
def State.retryFinals (s : State) (hdrs : List (Word × DescBytes)) : State :=
  let r := s.finals.foldl (State.tryFinal hdrs) ({ s with finals := [] }, false)
  r.1.wantToken r.2

/-- The records of expired requests, whose rings' headers have been read, are tried (R408); `hdrs` names slots. -/
def State.expiredTried (s : State) (hdrs : List (Nat × DescBytes)) : State :=
  let go (a : State × Bool) (f : FinalRec) : State × Bool :=
    match if f.asked && (s.reqAt (tagSlot f.tag)).isNone then hdrs.find? fun h => h.1 = tagSlot f.tag else none with
    | some h => State.tryFinal [(f.tag, h.2)] a f
    | none => ({ a.1 with finals := a.1.finals ++ [f] }, a.2)
  let r := s.finals.foldl go ({ s with finals := [] }, false)
  let s := r.1.wantToken r.2
  if s.lines.toList.any (·.boundary) then s else s.raiseTokens

/-! Freeing and expiry. -/

/-- The page moves of a slot stop; a manifest that waits for them does so no longer. -/
def State.stopMoves (s : State) (slot : Nat) : State :=
  let mine (x : FmRead) : Bool := match x.kind with | .pageMove sl _ => sl = slot | _ => false
  let gone := (s.reads.filter mine).map (·.id)
  let dead (w : HostWrite) : Bool := match w.kind with | .pageMove sl _ => sl = slot && !w.issued | _ => false
  let strike (w : HostWrite) : HostWrite := { w with after := w.after.filter fun i => !gone.contains i }
  ({ s with
    reads := s.reads.filter fun x => !mine x
    writes := (s.writes.filter fun w => !dead w).map strike } : State).releaseOnce

/-- Free a slot: its pages return to both pools, its moves stop (R394). A pending PAUSE or RESUME completes CANCELLED. -/
def State.freeReq (s : State) (r : Req) : State :=
  let s := { s with
    reqs := s.reqs.filter fun x => x.slot != r.slot
    used2 := s.used2.filter fun p => !r.own2.contains p
    used4 := s.used4.filter fun p => !r.own4.contains p }
  (s.stopMoves r.slot).finishWhere (fun p => p == .pause r.slot || p == .resume r.slot) (ans 0x30 0)

/-- A paused request expires (R407): the slot is FREE, the final record EXPIRED is queued until its ring's header has been read (R408), the
tag enters SEC7. -/
def State.expire (s : State) (r : Req) (n : Nat) : State :=
  let s := s.freeReq r
  let s := s.queueFinal { finalOf r 0x31 n with asked := true }
  { s with digest := { s.digest with expired := s.digest.expired ++ [(n, r.slot, r.tag)] } }

/-- The entry expires at tick n (R407). -/
def Req.expires (r : Req) (n : Nat) : Bool :=
  r.st == .paused && !r.resumeP && (match r.ttlAt with | some t => decide (t ≤ n) | none => false)

/-- Every expiry of tick n, in ascending slot order. -/
def State.expireAll (s : State) (n : Nat) : State := (s.reqs.filter fun r => r.expires n).foldl (fun s r => s.expire r n) s

/-! The request descriptors. -/

/-- The parameter block's fields (R470). -/
def paramWord (p : BitVec 1024) (byte : Nat) : Word := BitVec.ofNat 32 (fld p (8 * byte) 32)

/-- PRE of an entry that no pause has touched: one of its codes, which the manual does not name (R391, R393). -/
def anyPre (free : Nat) : ReqSt :=
  match (Config.freeWord free).toNat % 3 with | 0 => .queued | 1 => .prefill | _ => .decode

/-- The entry that an accepted OPEN_REQUEST sets up (R391, R393). -/
def openEntry (s : State) (tk : Taken) (p : BitVec 1024) (slot gen : Nat) : Req :=
  let b := tk.bytes
  let promptLen := dF b 20 0 32
  let rel := dF b 16 0 32
  let limit := s.ctxLimit
  { slot := slot, st := .queued, line := dF b 8 0 1, pre := anyPre s.free, prio := dF b 8 1 4, exitEn := dF b 8 5 1 = 1
    adapt := false, routeMode := if dF b 8 6 2 = 3 then 0 else dF b 8 6 2
    cancelP := false, pauseP := false, resumeP := false, endP := false, held := false, skipped := false
    wmask := dF b 9 0 4, tag := mkReqTag gen slot, tenant := dF b 12 0 16
    comp := (List.range 4).map fun k => BitVec.ofNat 32 (dF b (48 + 4 * k) 0 32)
    w := (List.range 4).map fun k => paramWord p (4 * k)
    vocab := paramWord p 16, bag := paramWord p 20
    deadline := if rel = 0 then none else some (tk.readTick + min rel (2 ^ 31 - 1))
    ttlAt := none, ttl := 0, promptLen := promptLen, done := 0, pos := promptLen
    maxGen := max 1 (min (dF b 24 0 32) (limit - 4 - promptLen))
    seq := s.opens, samp := samplingOf (BitVec.ofNat 384 (fld p 192 384))
    ringBase := BitVec.ofNat 64 (dF b 32 0 64), ringLog2 := clampN 4 16 (dF b 10 0 5)
    drafts := [], steps := 0, openTick := tk.readTick, trainMask := 0, bwdSteps := 0, hist := [], lastTok := 0xFFFFFFFF
    pages := [], moves := [], own2 := [], own4 := [], lastRows := (0, 0), lastFinal := false, cancelAt := none, exitAt := none
    noRoom := false, prod := 0, cons := 0, irqMode := 0, irqN := 1, sinceIrq := 0 }

/-- The checks of R471 and R392, in order; none when the open is accepted. A block that could not be read fails under R531. -/
def openRefusal (s : State) (b : DescBytes) (param : Option (BitVec 1024)) : Option (Answer × Bool) :=
  if dF b 40 0 64 % 64 ≠ 0 then some (ans 0x18 17, true) else
  match param with
  | none => some (ans 0x18 18, false)
  | some p =>
    if crc32c (bvBytes p) ≠ BitVec.ofNat 32 (dF b 28 0 32) then some (ans 0x18 17, true)
    else if dF b 20 0 32 = 0 ∨ s.ctxLimit - 5 < dF b 20 0 32 then some (ans 0x12 0x20, true)
    else if dF b 32 0 64 % 64 ≠ 0 then some (ans 0x12 0x21, true)
    else if 4096 ≤ s.reqs.length then some (ans 0x11 0, true)
    else none

/-- OPEN_REQUEST (R392, R393, R471). -/
def State.openReq (s : State) (param : Option (BitVec 1024)) (tk : Taken) : State :=
  match openRefusal s tk.bytes param with
  | some (a, counted) =>
    let s := if param.isNone && a.detail = 18 then (s.setErr .fmErr).count .fmErr 1 else s
    (if counted then s.count .refused 1 else s).answer tk a
  | none =>
    let slot := lowestFree (s.reqs.map (·.slot)) 0
    let g := (s.gen slot + 1) % 2 ^ 20
    let r := openEntry s tk (param.getD 0) slot g
    let s := { s with
      gens := putKey (·.1) (slot, g) s.gens
      opens := s.opens + 1
      free := s.free + 1 }.setReq r
    (s.sec1Add tk 0 (leBytes 4 r.tag.toNat)).finish tk (ansOk r.tag.toNat 0 0)

/-- A descriptor that carries a tag: STALE_TAG, then the CANCEL_P row of R395, then its own outcome. -/
def State.withTag (s : State) (tk : Taken) (f : State → Req → State) : State :=
  match s.reqOf (word8 tk.bytes) with
  | none => s.answer tk (ans 0x15 0)
  | some r => if r.cancelP then s.answer tk (ans 0x30 0) else f s r

/-- CANCEL (R395, R396). -/
def State.cancelReq (s : State) (tk : Taken) : State :=
  s.withTag tk fun s r =>
    (s.setReq { r with cancelP := true, cancelAt := some (tk.readTick + 2) }).answer tk (ansOk ((tk.readTick + 2) % 2 ^ 32) 0 0)

/-- States in which a request runs or waits to run. -/
def ReqSt.active : ReqSt → Bool
  | .queued | .prefill | .decode => true
  | _ => false

/-- PAUSE (R395). -/
def State.pauseReq (s : State) (tk : Taken) : State :=
  s.withTag tk fun s r =>
    if r.st.active && !r.pauseP then
      (s.setReq { r with pauseP := true, ttl := min (dF tk.bytes 12 0 32) (2 ^ 31 - 1) }).park tk (.pause r.slot)
    else s.answer tk (ans 0x13 0)

/-- RESUME (R394, R395). -/
def State.resumeReq (s : State) (tk : Taken) : State :=
  s.withTag tk fun s r =>
    if r.st.active && r.pauseP then
      ((s.setReq { r with pauseP := false }).finishWhere (fun p => p == .pause r.slot) (ans 0x30 0)).answer tk (ansOk 0 0 0)
    else if (r.st == .pausing || r.st == .paused) && !r.resumeP then
      (s.setReq { r with resumeP := true, ttlAt := none }).park tk (.resume r.slot)
    else s.answer tk (ans 0x13 0)

/-- SET_SAMPLING (R363). -/
def State.setSamplingReq (s : State) (tk : Taken) : State :=
  s.withTag tk fun s r =>
    (s.setReq { r with samp := samplingOf (BitVec.ofNat 384 (fld tk.bytes 128 384)) }).answer tk (ansOk 0 0 0)

/-- OPEN_REQUEST. -/
def execOpenRequest (param : Option (BitVec 1024)) (s : State) : Host.Outcome State Fault Refusal :=
  .next (s.begin.withDesc (fun b => opcodeOf b = 0x10) (fun s tk => s.openReq param tk))

/-- CANCEL. -/
def execCancel (s : State) : Host.Outcome State Fault Refusal :=
  .next (s.begin.withDesc (fun b => opcodeOf b = 0x11) State.cancelReq)

/-- PAUSE. -/
def execPause (s : State) : Host.Outcome State Fault Refusal :=
  .next (s.begin.withDesc (fun b => opcodeOf b = 0x12) State.pauseReq)

/-- RESUME. -/
def execResume (s : State) : Host.Outcome State Fault Refusal :=
  .next (s.begin.withDesc (fun b => opcodeOf b = 0x13) State.resumeReq)

/-- SET_SAMPLING. -/
def execSetSampling (s : State) : Host.Outcome State Fault Refusal :=
  .next (s.begin.withDesc (fun b => opcodeOf b = 0x14) State.setSamplingReq)

/-- TTL_EXPIRY: the request of a slot expires at tick n, the tick whose start is read next or one that has begun (R407). -/
def execTtlExpiry (slot n : Nat) (s : State) : Host.Outcome State Fault Refusal :=
  let s := s.begin
  .next (if !s.live then s else
    match s.reqAt slot with
    | some r => if r.expires n && decide (n ≤ s.tick.count + 1) then s.expire r n else s
    | none => s)

end Sys2Proof.Machine
end

