-- ==== Sys2Proof/Machine/Plan.lean ====
section
/-! DEFINITION. What the builder derives from the manifest, the request table and the directory for one tick: the rows of each
stop (R119, R354, R434, R615), visits and segments (R120 to R123, R166 to R171), passes (R124 to R129, R137), exit points (R191,
R192) and the routing rows (R174, R181). -/
namespace Sys2Proof.Machine
open Sys2Proof

/-! Objects. -/

/-- The copy that a handle resolves to in tick n after its swaps and its retire (R265, R266). -/
def Dir.inForceAt (d : Dir) (n : Nat) : Option Copy :=
  let latest := if d.st.inForce then d.cur else none
  match d.old with
  | some (m, c) => if n < m then c else latest
  | none => latest

/-- The copy of a handle that is in force for tick n; for a tick built before a conversion's remap, as it was (R121, R251). -/
def Dir.copyAt (d : Dir) (n : Nat) : Option Copy :=
  match d.prior with
  | some (m, c) => if n ≤ m then some c else d.inForceAt n
  | none => d.inForceAt n

/-- Resolve a handle for tick n. -/
def State.resolve (s : State) (h : Word) (n : Nat) : Option (Dir × Copy) :=
  if hTag h = 0 then none else
  match s.dirOf h with
  | some d => (d.copyAt n).map fun c => (d, c)
  | none => none

/-- Resolve a handle to an object of one KIND. -/
def State.resolveKind (s : State) (h : Word) (n kind : Nat) : Option (Dir × Copy) :=
  match s.resolve h n with
  | some x => if x.2.kind = kind then some x else none
  | none => none

/-- A request of the tenant may compose the object (R263). -/
def mayUse (tenant : Nat) (x : Dir × Copy) : Bool := x.1.tenant = tenant || x.2.xtenant

/-- A part matches the STOP_SHAPE of its stop: its input width and, but for a routing part, its output width. One that does not
never reaches the builder, also when STOP_SHAPE is written after it was installed (R88, assumption log 70). -/
def State.fits (s : State) (p : Part) : Bool :=
  p.inW64 * 64 = s.inW p.stop && (p.router || p.outW64 * 64 = s.outW p.stop)
/-- The part of a copy at a layer and stop. -/
def State.partAt (s : State) (c : Copy) (layer stop : Nat) : Option Part :=
  c.parts.find? fun p => p.layer = layer && p.stop = stop && p.expert = 0 && !p.router && s.fits p
/-- The part of an adapter-expert. -/
def State.expertAt (s : State) (c : Copy) (layer stop e : Nat) : Option Part :=
  c.parts.find? fun p => p.layer = layer && p.stop = stop && p.expert = e && !p.router && s.fits p
/-- The same, with the set's rank for an expert whose part does not reach the builder. -/
def State.expertPart (s : State) (c : Copy) (layer stop e : Nat) : Part :=
  (s.expertAt c layer stop e).getD ⟨layer, stop, fld c.route 12 5, 0, 0, 0, 0, 0, 0, 0, 0, e, false⟩
/-- The routing part at a layer and stop (R171). -/
def State.routerAt (s : State) (c : Copy) (layer stop : Nat) : Option Part :=
  c.parts.find? fun p => p.layer = layer && p.stop = stop && p.router && s.fits p

/-- MODE of a routing word (R214). -/
def rtMode (r : Word) : Nat := fld r 0 2
/-- E. -/
def rtE (r : Word) : Nat := fld r 2 7
/-- K. -/
def rtK (r : Word) : Nat := fld r 9 3
/-- RANK. -/
def rtRank (r : Word) : Nat := fld r 12 5
/-- GATE. -/
def rtGate (r : Word) : Nat := fld r 17 2
/-- NORM. -/
def rtNorm (r : Word) : Bool := fld r 19 1 = 1
/-- SIDING_DEPTH. -/
def rtSiding (r : Word) : Nat := fld r 20 6
/-- LAYER_SALT. -/
def rtSalt (r : Word) : Bool := fld r 26 1 = 1

/-- Adapter-space address of byte 0 of a copy region (R231). -/
def regionBase (slot : Nat) (b : Bool) : Nat := slot * 2 ^ 30 + (if b then 2 ^ 28 else 0)
/-- Adapter-space address of wagon w of a copy (R232). -/
def wagonAt (slot : Nat) (c : Copy) (w : Nat) : Nat := regionBase slot c.regionB + c.bodyOff + w * 4352

/-- The expert set of a tenant in force for tick n (R169). -/
def State.expertSet (s : State) (t n : Nat) : Option (Dir × Copy) :=
  (s.dirs.filterMap fun d => (d.copyAt n).map fun c => (d, c)).find? fun x => x.1.tenant = t && x.2.kind = 1

/-- The shared parts bound to a layer and stop for tick n, at most two (R82), in directory order. -/
def State.sharedAt (s : State) (layer stop n : Nat) : List (Dir × Copy × Part) :=
  (s.dirs.filterMap fun d =>
    match d.copyAt n with
    | some c => if c.shared && c.kind = 0 then (s.partAt c layer stop).map fun p => (d, c, p) else none
    | none => none).take 2

/-- E_f: fp32 slots of a moment block. -/
def momentSlots (fmt : Nat) : Nat := if fmt = 0 then 2048 else if fmt = 4 then 8192 else 4096
/-- S0, the offset of the moment area. -/
def momentBase (parts : Nat) : Nat := roundUp (256 + 8 * parts) 4096
/-- Bytes of one moment block: m, and v for the Adam-style optimiser. -/
def momentBlock (fmt opt : Nat) : Nat := momentSlots fmt * 4 * (if opt = 2 then 2 else 1)
/-- The state size (R447). -/
def stateSize (c : Copy) (opt : Nat) : Nat := momentBase c.parts.length + c.wagons * momentBlock c.fmt opt
/-! Rows. -/

/-- A line of the block. -/
def State.line (s : State) (l : Nat) : LineSt := s.lines.toList.getD l LineSt.reset
/-- Change a line. -/
def State.updLine (s : State) (l : Nat) (f : LineSt → LineSt) : State := { s with lines := s.lines.setIfInBounds l (f (s.line l)) }

/-- The request of a manifest row. -/
def State.rowReq (s : State) (r : MRow) : Option Req := (s.reqAt r.slot).filter fun q => q.tag = r.tag

/-- A tick has reached a mark. -/
def reached (n : Nat) : Option Nat → Bool
  | some m => decide (m ≤ n)
  | none => false

/-- The manifest rows of a line with their host row indices (R119). -/
def State.manifest (s : State) (l : Nat) : List (Nat × MRow) := (s.line l).rows.zipIdx.map fun x => (x.2, x.1)

/-- Source and destination list entries of a page move under way (R404). -/
def State.moveEnds (s : State) (slot idx : Nat) : List (Bool × Nat) :=
  match s.reqAt slot with
  | none => []
  | some q => (q.pages[idx]?).toList.flatMap fun (e : Bool × Nat) =>
      e :: ((q.moves.find? fun m => m.1 = idx).map fun m => (!e.1, m.2)).toList

/-- Transactions of page moves that must land before the line's manifest stands: moves of a request that it names, or from or to a
T2 page that it names (R404). -/
def State.manifestMoves (s : State) (l : Nat) : List Nat :=
  let rows := (s.line l).rows
  let pages := rows.map fun (r : MRow) => r.page
  (s.reads.filter fun (x : FmRead) => match x.kind with
    | .pageMove slot idx => rows.any (fun r => r.slot = slot)
        || (s.moveEnds slot idx).any fun e => !e.1 && pages.contains (BitVec.ofNat 32 e.2)
    | _ => false).map (·.id)

/-- The row's request has no cancelled rows in tick n (R396). -/
def State.notCancelled (s : State) (n : Nat) (r : MRow) : Bool :=
  match s.rowReq r with
  | some q => !reached n q.cancelAt
  | none => false

/-- Rows of a LAYER stop in tick n: neither exited nor cancelled (R119). -/
def State.layerRows (s : State) (l n : Nat) : List (Nat × MRow) :=
  (s.manifest l).filter fun x => s.notCancelled n x.2 &&
    (match s.rowReq x.2 with | some q => !reached n q.exitAt | none => false)

/-- Rows of the stop of a tick: LAYER (R119), EMBED, HEAD (R354) or BACKWARD (R434, R615). -/
def State.stopRows (s : State) (h : Header) (n : Nat) : List Nat :=
  if h.kind = 0 then ((s.manifest h.line).filter fun x => s.notCancelled n x.2).map (·.1)
  else if h.kind = 1 then (s.layerRows h.line n).map (·.1)
  else if h.kind = 2 then ((s.manifest h.line).filter fun x => s.notCancelled n x.2 && x.2.head).map (·.1)
  else
    match ((s.line h.line).layerAt.find? fun x => x.1 = h.layer).map (·.2) with
    | some m => ((s.line h.line).back.filter fun b => match b.outAt with | some o => decide (m < o) | none => true).map (·.row)
    | none => []

/-! Visits. -/

/-- The composition slots of a request that are in use, with handle and weight (R79). -/
def Req.slots (q : Req) : List (Nat × Word × Word) :=
  (List.range 4).filterMap fun k =>
    let h := q.comp.getD k 0
    if h = 0 then none else some (k, h, if q.wmask / 2 ^ k % 2 = 1 then q.w.getD k fpOne else fpOne)

/-- A composition slot resolves to an adapter that the tenant may compose (R167). -/
def State.compSlot (s : State) (q : Req) (h : Word) (n : Nat) : Option (Dir × Copy) :=
  (s.resolveKind h n 0).filter fun x => mayUse q.tenant x

/-- Slots of a request that the builder skips (R167). -/
def State.missCount (s : State) (q : Req) (n : Nat) : Nat := (q.slots.filter fun x => (s.compSlot q x.2.1 n).isNone).length

/-- Explicit visits of a row at a layer and stop: handle and visit (R120, R166). -/
def State.explicitVisits (s : State) (layer stop n : Nat) (x : Nat × MRow) : List (Word × Visit) :=
  match s.rowReq x.2 with
  | none => []
  | some q => q.slots.filterMap fun v =>
    match s.compSlot q v.2.1 n with
    | some dc => (s.partAt dc.2 layer stop).map fun _ => (v.2.1, ⟨x.1, v.1, v.2.2⟩)
    | none => none

/-- The expert set over which a row's request routes at a stop, if it does (R169, R171). -/
def State.routeSet (s : State) (layer stop n : Nat) (r : MRow) : Option (Dir × Copy) :=
  match s.rowReq r with
  | some q => if q.routeMode = 0 then none else (s.expertSet q.tenant n).filter fun x => (s.routerAt x.2 layer stop).isSome
  | none => none

/-! Ordering (R41, R123, R183). -/

/-- Order of work: priority descending, deadline ascending with none last, index ascending. -/
def workKey (prio : Nat) (dead : Option Nat) (idx : Nat) : List Nat :=
  [15 - prio, (match dead with | some _ => 0 | none => 1), dead.getD 0, idx]

/-- The earlier deadline. -/
def minDead : Option Nat → Option Nat → Option Nat
  | none, b => b
  | a, none => a
  | some a, some b => some (min a b)

/-- Highest priority and earliest deadline of some rows. -/
def State.rowsKey (s : State) (rows : List MRow) : Nat × Option Nat :=
  rows.foldl (fun a r => match s.rowReq r with | some q => (max a.1 q.prio, minDead a.2 q.deadline) | none => a) (0, none)

/-- Distinct values of an ascending list. -/
def dedup {α : Type} [DecidableEq α] : List α → List α
  | [] => []
  | [x] => [x]
  | x :: y :: r => if x = y then dedup (y :: r) else x :: dedup (y :: r)

/-- Ascending distinct natural numbers. -/
def sortNat (xs : List Nat) : List Nat := dedup (sortBy (fun a b => decide (a < b)) xs)

/-- Most of the rows are prefill rows (R157). -/
def prefillMajority (rows : List MRow) : Bool :=
  decide ((rows.filter fun r => !r.prefill).length < (rows.filter fun r => r.prefill).length)

/-- Manifest rows at given host row indices. -/
def State.rowsAt (s : State) (l : Nat) (idx : List Nat) : List MRow :=
  idx.filterMap fun i => (s.line l).rows.toArray[i]?

/-- A segment of an explicit or steering-only part with its visits. -/
def State.explicitSeg (s : State) (h : Header) (stop n : Nat) (hw : Word) (vs : List Visit) : Option Seg :=
  match s.resolve hw n with
  | none => none
  | some (d, c) =>
    match s.partAt c h.layer stop with
    | none => none
    | some p =>
      let rows := s.rowsAt h.line (dedup (vs.map (·.row)))
      let k := s.rowsKey rows
      some ⟨false, hw, d.tenant, 0, k.1, k.2, prefillMajority rows, vs.length, p.rank8, c.form, c.fmt, p.sW != 0, p.vW != 0,
        c.swId, wagonAt d.slot c p.first, p.aW + p.bW + p.sW + p.vW, vs, false, vs⟩

/-- Capacity of an adapter-expert (R181). -/
def capOf (cf k e nt : Nat) : Nat := min nt (max 1 (ceilDiv (max 16 cf * nt * k) (16 * e)))

/-- Requests of a tenant own the row. -/
def State.rowOf (s : State) (t : Nat) (r : MRow) : Bool := match s.rowReq r with | some q => q.tenant = t | none => false

/-- The routed segments of one tenant at a stop (R120, R169, R181): its capacity from its routing rows, its priority, deadline and
yard from all its rows at the stop (R123, R157). -/
def State.routedSegs (s : State) (h : Header) (stop n : Nat) (rows : List (Nat × MRow)) (t : Nat) : List Seg :=
  match s.expertSet t n with
  | none => []
  | some (d, c) =>
    let mine := (rows.filter fun x => match s.routeSet h.layer stop n x.2 with | some y => y.1.tenant = t | none => false).map (·.2)
    let all := (rows.filter fun x => s.rowOf t x.2).map (·.2)
    let k := s.rowsKey all
    let cap := capOf c.cf (rtK c.route) (rtE c.route) mine.length
    (List.range (rtE c.route)).map fun e =>
      let p := s.expertPart c h.layer stop e
      ⟨true, d.handle, t, e, k.1, k.2, prefillMajority all, cap, p.rank8, c.form, c.fmt, p.sW != 0, false, c.swId,
        wagonAt d.slot c p.first, p.aW + p.bW + p.sW, [], false, []⟩

/-- The stop segment list of a LAYER stop, in R122 order. -/
def State.segList (s : State) (h : Header) (stop n : Nat) : List Seg :=
  let rows := s.layerRows h.line n
  let vs := rows.flatMap (s.explicitVisits h.layer stop n)
  let handles := sortNat (vs.map fun v => v.1.toNat)
  let ex := handles.filterMap fun hw =>
    s.explicitSeg h stop n (BitVec.ofNat 32 hw) ((vs.filter fun v => v.1.toNat = hw).map (·.2))
  let tenants := sortNat (rows.filterMap fun x => (s.routeSet h.layer stop n x.2).map fun y => y.1.tenant)
  ex ++ tenants.flatMap (s.routedSegs h stop n rows)

/-- The object holds optimiser state that no ADAPT_ENABLE has released: its part forms a segment (R424, R435, R448). -/
def Dir.trained (d : Dir) : Bool := match d.opt with | some o => !o.closing | none => false
/-- Steps may be built for the object: the zeros of its state have landed on this block, and it is not poisoned (R427, R448). -/
def Dir.trains (d : Dir) : Bool := d.trained && !d.poisoned && (match d.opt with | some o => o.ready | none => false)

/-- The segment list of a BACKWARD stop: one segment per handle at its recorded version (R435). What is known of an object on this block
alone, that it is poisoned or that its state is not ready, takes no segment out (R54, R305). -/
def State.backSegs (s : State) (h : Header) (stop n : Nat) : List Seg :=
  let rows := s.stopRows h n
  let back := (s.line h.line).back.filter fun b => rows.contains b.row
  let vs := back.flatMap fun b => b.parts.map fun p => (p.2.1, p.2.2.1, b.prio, (⟨b.row, p.1, p.2.2.2⟩ : Visit))
  let handles := sortNat (vs.map fun v => v.1.toNat)
  handles.filterMap fun hw =>
    match s.resolve (BitVec.ofNat 32 hw) n with
    | none => none
    | some (d, c) =>
      match s.partAt c h.layer stop with
      | none => none
      | some p =>
        let mine := vs.filter fun v => v.1.toNat = hw && v.2.1 = c.version
        if mine.isEmpty || !d.trained then none else
        some ⟨false, BitVec.ofNat 32 hw, d.tenant, 0, mine.foldl (fun a v => max a v.2.2.1) 0, none, false, mine.length, p.rank8,
          c.form, c.fmt, p.sW != 0, p.vW != 0, c.swId, wagonAt d.slot c p.first, p.aW + p.bW + p.sW + p.vW,
          mine.map (fun v => v.2.2.2), false, mine.map fun v => v.2.2.2⟩

/-! Passes. -/

/-- Sorted-map positions of a segment: packed on IX7-512, padded to 16 elsewhere (R154 to R156). -/
def segPositions (b : Build) (x : Seg) : Nat :=
  let k := if x.routed then x.cap else x.run.length
  match b with | .ix512 => k | _ => roundUp k 16

/-- Segments in R41 order. -/
def orderSegs (xs : List Seg) : List Seg :=
  (sortBy (fun a b => keyLt a.1 b.1) (xs.zipIdx.map fun x => (workKey x.1.prio x.1.dead x.2, x.1))).map (·.2)

/-- Place segments into passes in order (R124, R125): passes so far, the current pass, its positions; the result and the
removed segments. -/
def planPasses (b : Build) : List Seg → List (List Seg) → List Seg → Nat → List (List Seg) × List Seg
  | [], done, cur, _ => (done ++ [cur], [])
  | x :: xs, done, cur, pos =>
    let p := segPositions b x
    if cur.length + 1 ≤ 2048 ∧ pos + p ≤ 32768 then planPasses b xs done (cur ++ [x]) (pos + p)
    else if done.length < 3 then planPasses b xs (done ++ [cur]) [x] p
    else (done ++ [cur], x :: xs)

/-- Strip late rows from a segment; one left with no visits is EMPTY, and its positions stand (R126, R127). -/
def stripRows (late : List Nat) (x : Seg) : Seg :=
  if x.routed then x else
  let vs := x.visits.filter fun v => !late.contains v.row
  { x with visits := vs, empty := vs.isEmpty }

/-- Bytes that the row store of one open stop may use: one eighth of the enabled platform store (R136). -/
def State.rowStore (s : State) : Nat := s.enabledClusters * 1572864 / 8

/-- Bytes of a row in the row store: x in the stop's input format, and at a BACKWARD stop G after it (R136, R434). -/
def State.storeBytes (s : State) (kind stop : Nat) : Nat :=
  s.inW stop * (if s.inFp8 stop then 1 else 2) + (if kind = 3 then s.outW stop * (if s.rf 0x2100 14 2 = 1 then 4 else 2) else 0)

/-- Rows beyond the last pass because of the row store (R137): in reverse order of priority, deadline and host row, rows
without a routed visit first. A BACKWARD row has the priority recorded for it and no deadline (R435). -/
def State.storeLate (s : State) (h : Header) (stop : Nat) (passes : List (List Seg)) (routing : List Nat) : List Nat :=
  let later := (passes.drop 1).flatMap fun p => p.flatMap fun x => x.visits.map (·.row)
  let need := sortNat (later ++ routing)
  let room := s.rowStore / max 1 (s.storeBytes h.kind stop)
  let key (i : Nat) : List Nat :=
    if h.kind = 3 then 1 :: workKey ((((s.line h.line).back.find? fun b => b.row = i).map (·.prio)).getD 0) none i else
    match (s.line h.line).rows.toArray[i]? with
    | some r => match s.rowReq r with
      | some q => (if routing.contains i then 0 else 1) :: workKey q.prio q.deadline i
      | none => [2, 0, 0, 0, i]
    | none => [2, 0, 0, 0, i]
  ((sortBy (fun a b => keyLt a.1 b.1) (need.map fun i => (key i, i))).map (·.2)).drop room

/-! Exit points. -/

/-- EXIT_CTLp latched for a line (R198). -/
def State.exitCtl (s : State) (l p : Nat) : Word := (s.exitCfg.getD l []).getD (2 * p) 0
/-- EXIT_HANDLEp latched for a line. -/
def State.exitHandle (s : State) (l p : Nat) : Word := (s.exitCfg.getD l []).getD (2 * p + 1) 0

/-- Point p is enabled and names the layer. -/
def State.exitNames (s : State) (h : Header) (p : Nat) : Bool :=
  let c := s.exitCtl h.line p
  fld c 31 1 = 1 && fld c 16 10 = h.layer

/-- Point p can be active at its stop in tick n (R191). -/
def State.exitCan (s : State) (h : Header) (n p : Nat) : Bool :=
  let c := s.exitCtl h.line p
  let stop := fld c 28 3
  decide (stop < 6) &&
    (match s.resolveKind (s.exitHandle h.line p) n 2 with
    | some x => (match x.2.parts.head? with | some q => q.inW64 * 64 = s.inW stop | none => false)
    | none => false)

/-- The active exit point of a stop of a LAYER tick: the lowest-numbered that can be active (R191). -/
def State.exitPoint (s : State) (h : Header) (stop n : Nat) : Option Nat :=
  if h.kind ≠ 1 then none else
  (List.range 8).find? fun p => s.exitNames h p && fld (s.exitCtl h.line p) 28 3 = stop && s.exitCan h n p

/-- Point p of a line is enabled and cannot be active: its stop or its probe does not serve, or a lower-numbered point is active at its
layer and stop (R191, assumption log 41). -/
def State.exitDead (s : State) (l n p : Nat) : Bool :=
  let c := s.exitCtl l p
  let h : Header := ⟨1, l, fld c 16 10, 0⟩
  fld c 31 1 = 1 && s.exitPoint h (fld c 28 3) n != some p

/-- Among the points latched for a line, one is enabled and cannot be active. -/
def State.exitBad (s : State) (l n : Nat) : Bool := (List.range 8).any (s.exitDead l n)

/-! The plan of a stop. -/

/-- Highest priority and earliest deadline of a tenant's routing rows at a stop (R174); `routing` holds the stop's. -/
def State.routingKey (s : State) (l : Nat) (routing : List (Nat × Nat)) (t : Nat) : Nat × Option Nat :=
  s.rowsKey (s.rowsAt l ((routing.filter fun r => match s.dirAt r.2 with | some d => d.tenant = t | none => false).map (·.1)))

/-- Tenants that route by learned scores at a stop, in the order of R174. -/
def State.learned (s : State) (l : Nat) (routing : List (Nat × Nat)) (routed : List Seg) (n : Nat) : List Nat :=
  let ts := sortNat ((routed.filter fun x => match s.expertSet x.tenant n with
    | some y => rtMode y.2.route = 1 | none => false).map (·.tenant))
  let key (t : Nat) : List Nat := let k := s.routingKey l routing t; workKey k.1 k.2 t
  (sortBy (fun a b => keyLt a.1 b.1) (ts.map fun t => (key t, t))).map (·.2)

/-- Those beyond the 2,047th. -/
def State.unscored (s : State) (l : Nat) (routing : List (Nat × Nat)) (routed : List Seg) (n : Nat) : List Nat :=
  (s.learned l routing routed n).drop 2047

/-- A score entry over some rows (R173). -/
def scoreEntry (x : Dir × Copy) (p : Part) (rank8 tenant prio : Nat) (dead : Option Nat) (rows : List Nat) : Seg :=
  let vs := rows.map fun r => (⟨r, 0, 0x3F800000⟩ : Visit)
  ⟨false, x.1.handle, tenant, 0, prio, dead, false, rows.length, rank8, 0, x.2.fmt, false, false, 0,
    wagonAt x.1.slot x.2 p.first, p.aW + p.xW, vs, false, vs⟩

/-- The score entries of the tenants that route by learned scores; `routed` holds the stop's routed segments. -/
def State.scoreTenants (s : State) (h : Header) (n : Nat) (routed : List Seg) (p : StopPlan) : List Seg :=
  ((s.learned h.line p.routing routed n).take 2047).filterMap fun t =>
    match s.expertSet t n with
    | none => none
    | some x => (s.routerAt x.2 h.layer p.stop).map fun q =>
      let k := s.routingKey h.line p.routing t
      scoreEntry x q (ceilDiv (rtE x.2.route) 8 - 1) t k.1 k.2
        ((p.routing.filter fun r => r.2 = x.1.slot && !p.late.contains r.1).map (·.1))

/-- The score entry of the stop's probe, when an exit point is active (R174). The manual names its routing tenant alone; its priority is 0 and
it has no deadline (assumption log 87). -/
def State.scoreProbe (s : State) (h : Header) (n : Nat) (p : StopPlan) : List Seg :=
  match p.exitPt with
  | none => []
  | some e =>
    match s.resolveKind (s.exitHandle h.line e) n 2 with
    | none => []
    | some x =>
      match x.2.parts.head? with
      | none => []
      | some q => [scoreEntry x q q.rank8 x.1.tenant 0 none (p.probe.filter fun r => !p.late.contains r)]

/-- A head that a request may use is installed (R357, R358). -/
def State.headHere (s : State) (q : Req) (h : Word) (n kind : Nat) : Bool :=
  match s.resolveKind h n kind with | some y => mayUse q.tenant y | none => false

/-- So is a plane of one. -/
def State.planeHere (s : State) (q : Req) (x : Sampling) (n : Nat) : Bool :=
  match s.resolveKind x.planeHead n 4 with
  | some y => mayUse q.tenant y && y.2.parts.any fun p => p.expert = x.plane
  | none => false

/-- Absent non-zero heads of a head row's sampling block (R358). -/
def State.headMisses (s : State) (q : Req) (x : Sampling) (n : Nat) : Nat :=
  b2n (x.outHead != 0 && !s.headHere q x.outHead n 4) + b2n (x.specHead != 0 && !s.headHere q x.specHead n 5)
  + b2n (x.plane != 0 && x.planeHead != 0 && !s.planeHere q x n)

/-- Rows of a stop of tick n that visit at it an object whose handle is `bad` (R305); a probe row visits the probe (R283), and a head row
the heads that it uses, not one that is absent (R358). -/
def State.poisonedRowsOf (s : State) (h : Header) (n : Nat) (p : StopPlan) (bad : Word → Bool) : List Nat :=
  if h.kind = 1 then
    let ex := (p.passes.flatMap id).flatMap fun x => if !x.routed && bad x.handle then x.visits.map (·.row) else []
    let rt := p.routing.filterMap fun r => match s.dirAt r.2 with | some d => if bad d.handle then some r.1 else none | none => none
    let sh := if p.shared.any bad then p.rows else []
    let pr := match p.exitPt with | some e => if bad (s.exitHandle h.line e) then p.probe else [] | none => []
    sortNat (ex ++ rt ++ sh ++ pr)
  else if h.kind = 2 then
    p.rows.filter fun i => match (s.line h.line).rows.toArray[i]? with
      | some r => match s.rowReq r with
        | some q => let x := q.samp
          (bad x.outHead && s.headHere q x.outHead n 4) || (bad x.specHead && s.headHere q x.specHead n 5)
          || (x.plane != 0 && bad x.planeHead && s.planeHere q x n)
        | none => false
      | none => false
  else
    sortNat ((p.passes.flatMap id).flatMap fun x => if bad x.handle then x.visits.map (·.row) else [])

/-- Rows of a stop that visit a poisoned object at it: late on this block (R305, R351). -/
def State.poisonedRows (s : State) (h : Header) (n : Nat) (p : StopPlan) : List Nat :=
  s.poisonedRowsOf h n p fun hw => match s.dirOf hw with | some d => d.poisoned | none => false

/-- Learned rows of a stop with a place in its score consignments: with no visit in a removed segment, tenant scored (R172, R174). -/
def State.learnedRows (s : State) (n : Nat) (routing : List (Nat × Nat)) (gone noScore : List Nat) : List (Nat × Nat × Nat) :=
  routing.filterMap fun r =>
    if gone.contains r.1 then none else
    match s.dirAt r.2 with
    | some d => match d.copyAt n with
      | some c => if rtMode c.route = 1 && !noScore.contains d.tenant then some (r.1, r.2, rtE c.route) else none
      | none => none
    | none => none

/-- The segments of a stop before any is removed (R120, R435). -/
def State.stopSegs (s : State) (h : Header) (n stop : Nat) : List Seg :=
  if h.kind = 1 then s.segList h stop n else if h.kind = 3 then s.backSegs h stop n else []

/-- The segments of a stop that its passes hold, in R41 order, and those removed under R125. -/
def State.passSegs (s : State) (h : Header) (n stop : Nat) : List Seg × List Seg :=
  let ordered := orderSegs (s.stopSegs h n stop)
  let out := (planPasses s.build ordered [] [] 0).2
  (ordered.take (ordered.length - out.length), out)

/-- Plan one stop of tick n. `cut` segments more are removed from the end of the R41 order by the builder (R57, R98). -/
def State.planStop (s : State) (h : Header) (n cut stop : Nat) : StopPlan :=
  let rows := s.stopRows h n
  let segs := s.stopSegs h n stop
  let ps := s.passSegs h n stop
  let kept := ps.1.take (ps.1.length - cut)
  let removed := ps.1.drop (ps.1.length - cut) ++ ps.2
  let late1 := sortNat (removed.flatMap fun x => x.visits.map (·.row))
  let passes1 := (planPasses s.build kept [] [] 0).1.map fun p => p.map (stripRows late1)
  let routing : List (Nat × Nat) := if h.kind = 1 then
    (s.layerRows h.line n).filterMap fun x => (s.routeSet h.layer stop n x.2).map fun y => (x.1, y.1.slot) else []
  let late2 := s.storeLate h stop passes1 ((routing.map (·.1)).filter fun r => !late1.contains r)
  let passes := passes1.map fun p => p.map (stripRows late2)
  let ex := s.exitPoint h stop n
  let probe := match ex with
    | none => []
    | some _ => ((s.layerRows h.line n).filter fun x => !x.2.prefill && (match s.rowReq x.2 with
        | some q => q.exitEn | none => false)).map (·.1)
  let miss := if h.kind = 1 then
      (s.layerRows h.line n).foldl (fun a x => match s.rowReq x.2 with | some q => a + s.missCount q n | none => a) 0
    else if h.kind = 2 then
      (s.rowsAt h.line rows).foldl (fun a r => match s.rowReq r with | some q => a + s.headMisses q q.samp n | none => a) 0
    else 0
  let late := sortNat (late1 ++ late2)
  let noScore := s.unscored h.line routing (segs.filter (·.routed)) n
  let shared := if h.kind = 1 then s.sharedAt h.layer stop n else []
  let p : StopPlan := ⟨stop, rows, passes, ps.2.length, late, late1, routing, noScore, s.learnedRows n routing late1 noScore, probe, ex,
    shared.map (·.1.handle), (shared.filter fun y => y.2.2.aW != 0 && y.2.1.form != 3).map fun y => 8 * (y.2.2.rank8 + 1),
    ps.1.length - kept.length, miss, [], []⟩
  { p with
    bad := s.poisonedRows h n p
    score := if h.kind = 1 then s.scoreTenants h n (segs.filter (·.routed)) p ++ s.scoreProbe h n p else [] }

/-- The stops of a header, ascending. -/
def Header.stopList (h : Header) : List Nat := (List.range 6).filter h.has

/-- The plan of a tick. -/
def State.planTick (s : State) (h : Header) (n : Nat) (cut : List (Nat × Nat)) : List StopPlan :=
  h.stopList.map fun st => s.planStop h n (((cut.find? fun c => c.1 = st).map (·.2)).getD 0) st

/-! Trains (R158 to R160, R481). -/

/-- Train t has an enabled car (R158). -/
def State.trainUsable (s : State) (t : Nat) : Bool := (List.range 16).any fun c => s.clusterOn (16 * t + c)
/-- Usable trains. -/
def State.usable (s : State) : List Nat := (List.range s.build.trains).filter s.trainUsable
/-- State of a train's scope. -/
def State.trainSt (s : State) (t : Nat) : Scope := (s.trains.getD t (.enabled, 0)).1
/-- The floor F of R551, in milliwatts. -/
def State.floorMw (s : State) : Nat := 18000 + 100 * (s.power.tj - 340).toNat
/-- The usable trains less the quiesced ones, U′ of R556. -/
def State.usableOn (s : State) : Nat := (s.usable.filter fun t => s.trainSt t == .enabled).length
/-- The train allowance A of a timetable whose build starts now (R556); the means p_t and P_io of its lines are not fixed by
the manual. -/
def State.allowance (s : State) : Nat :=
  let fits (a : Nat) : Bool := decide (s.floorMw + Config.portPower s.free + a * Config.trainPower s.free ≤ 250 * s.power.cEff)
  (List.range s.usableOn).foldl (fun m i => if fits (i + 1) then i + 1 else m) (min 1 s.usableOn)
/-- Trains of the prefill yard under the governor's allowance (R160). An allowance of one train goes, when both yards have rows, to the yard
that the rounding left without one: the prefill yard is served first (assumption log 88). -/
def State.prefillTrains (s : State) (l allow : Nat) (hasP hasD : Bool) : Nat :=
  let u := s.usable.length
  let gated := (s.usable.filter fun t => s.trainSt t != .enabled).length
  let a := min allow (u - gated)
  let p := (s.line l).prefillN
  let n := if a < u then (2 * p * a + u) / (2 * max 1 u) else p
  if hasP && n = 0 then min 1 a else if hasD && n = a then a - 1 else n

/-- Usable trains that no quiesce gates. -/
def State.openTrains (s : State) : List Nat := s.usable.filter fun t => s.trainSt t == .enabled
/-- Trains that get only IDLE slots: those without an enabled car, quiesced ones, and those left between the yards, of which the
decode yard takes the lowest and the prefill yard, of `pre` trains, the highest (R56, R158, R481, R556). -/
def State.idleTrains (s : State) (allow pre : Nat) : List Nat :=
  let on := s.openTrains
  (List.range s.build.trains).filter fun t =>
    !((on.take (allow - pre)).contains t || (on.drop (on.length - min pre allow)).contains t)
/-- A train of the prefill yard: the highest-numbered `n` of those that work (R158). -/
def inPrefill (trains : Nat) (idle : List Nat) (n t : Nat) : Bool :=
  let on := (List.range trains).filter fun t => !idle.contains t
  (on.drop (on.length - n)).contains t
/-- A yard has rows at a stop: a segment of the yard with visits or reserved positions (R160, assumption log 71). -/
def yardHas (prefill : Bool) (plan : List StopPlan) : Bool :=
  plan.any fun p => p.passes.any fun segs => segs.any fun g => g.prefill = prefill && !g.empty

end Sys2Proof.Machine
end

