-- ==== Sys2Proof/Machine/Stops.lean ====
section
/-! DEFINITION. The stops of the current tick: ingress (R15 to R18, R507, R508), delta rows and masks on DOUT (R22, R81, R110,
R511, R512, R615), and STOP_DONE (R19). -/
namespace Sys2Proof.Machine
open Sys2Proof

/-- A stop of a tick as its plan has it, with nothing come and nothing gone. -/
def StopPlan.fresh (p : StopPlan) (tick : Nat) : Stop :=
  ⟨p.stop, p, false, true, 0, 2, 0, [], [], false, false, false, [], false, 0, [], 0, [], [], [], false, [], [], tick⟩
/-- No plan: no rows and no work. -/
def StopPlan.none_ (stop : Nat) (rows : List Nat) : StopPlan := ⟨stop, rows, [], 0, [], [], [], [], [], [], none, [], [], 0, 0, [], []⟩

/-- Header of the current tick. -/
def State.curHdr (s : State) : Header := match s.tick.cur with | some t => t.hdr | none => Header.zero
/-- The plan of a stop of the current tick. -/
def State.planOf (s : State) (stop : Nat) : Option StopPlan :=
  match s.tick.cur with | some t => t.plan.find? fun p => p.stop = stop | none => none
/-- The current tick runs on the standing timetable (R40). -/
def State.standing (s : State) : Bool := match s.tick.cur with | some t => t.standing | none => false

/-- The request of a host row of the current line. -/
def State.rowOwner (s : State) (i : Nat) : Option Req :=
  match (s.line s.curHdr.line).rows.toArray[i]? with | some r => s.rowReq r | none => none

/-- Change the tick machinery. -/
def State.updTick (s : State) (f : TickSt → TickSt) : State := { s with tick := f s.tick }
/-- The first opening of a stop that is no framing error. -/
def State.stopAt (s : State) (stop : Nat) : Option Stop := s.tick.stops.find? fun x => x.stop = stop && !x.framing && x.tick = s.tick.count
/-- Change a stop that is no framing error. -/
def State.updStop (s : State) (stop : Nat) (f : Stop → Stop) : State :=
  s.updTick fun t => { t with stops := updWhere (fun x => x.stop = stop && !x.framing && x.tick = t.count) f t.stops }

/-! Wagons whose frames failed (R304). -/

/-- A segment works on a wagon. -/
def segHolds (a : Nat) (g : Seg) : Bool := decide (g.wagon ≤ a ∧ a < g.wagon + 4352 * g.wagons)

/-- The part of a copy in force that holds a wagon. -/
def State.partHolding (s : State) (a : Nat) : Option (Dir × Part) :=
  match s.dirAt (slotOf a) with
  | none => none
  | some d => match d.copyAt s.tick.count with
    | none => none
    | some c => (c.parts.find? fun p =>
        let lo := wagonAt d.slot c p.first % oldSpace
        decide (lo ≤ a ∧ a < lo + 4352 * (p.aW + p.bW + p.sW + p.vW + p.xW))).map fun p => (d, p)

/-- A head row uses a part of a head: the head itself, its plane, or the drafts of a speculative head. -/
def Sampling.uses (x : Sampling) (h : Word) (expert : Nat) : Bool :=
  (x.outHead = h && expert = 0) || (x.plane != 0 && x.planeHead = h && expert = x.plane) || (x.specHead = h && decide (expert < x.drafts))

/-- The sampling block and the speculative parts of a request for this HEAD tick (R363). -/
def State.headSamp (s : State) (q : Req) : Sampling × Nat :=
  match s.tick.cur with
  | some t => match t.samp.find? fun y => y.1 = q.slot with | some y => (y.2.1, y.2.2) | none => (q.samp, 0)
  | none => (q.samp, 0)

/-- Rows that the junction has placed in a routed segment of a stop (R190). -/
def State.routedRows (s : State) (stop : Nat) (g : Seg) : List Nat :=
  if !g.routed then [] else
  (s.tick.recs.filter fun r => r.stop = stop && r.tenant = g.tenant && (List.range 4).any fun j => r.final.getD j 0 = 128 + g.expert).map (·.row)

/-- Rows of a stop that depend on a wagon: those that visit its part, explicit, placed, shared or as probe rows, those that it scores,
and the head rows that use it. -/
def State.rowsNeeding (s : State) (p : StopPlan) (a : Nat) : List Nat :=
  let h := s.curHdr
  match s.partHolding a with
  | none => []
  | some (d, q) =>
    if h.kind = 2 then
      p.rows.filter fun i => match (s.line h.line).rows.toArray[i]? with
        | some r => match s.rowReq r with | some y => (s.headSamp y).1.uses d.handle q.expert | none => false
        | none => false
    else if q.layer ≠ h.layer && !(p.score.any (segHolds a)) then []
    else if p.shared.contains d.handle && q.stop = p.stop then p.rows
    else sortNat (((p.passes.flatMap id ++ p.score).filter (segHolds a)).flatMap fun g => g.visits.map (·.row) ++ s.routedRows p.stop g)

/-- Rows not yet emitted that depend on a failed wagon are late at their stop. -/
def State.failLate (s : State) : State :=
  if s.tick.failed.isEmpty then s else
  s.updTick fun t => { t with stops := t.stops.map fun x =>
    if x.framing || x.ended || x.tick != t.count then x else
    { x with late := sortNat (x.late ++ (t.failed.flatMap (s.rowsNeeding x.plan)).filter fun i => !x.emitted.contains i) } }

/-! Ingress. -/

/-- The next FIDX of a port after `f`: the port carries the flits whose FIDX bit 1 is its number (R507). -/
def nextFidx (f : Nat) : Nat := if f % 2 = 0 then f + 1 else f + 3

/-- The flit of an index has arrived. -/
def Stop.has (x : Stop) (f : Nat) : Bool := if f / 2 % 2 = 0 then decide (f < x.next0) else decide (f < x.next1)
/-- Flits a to a + n - 1 have arrived. -/
def Stop.hasAll (x : Stop) (a n : Nat) : Bool := (List.range n).all fun i => x.has (a + i)

/-- Flits per row of a stop that streams rows alone (R87, R355, R434). -/
def State.rowFlits (s : State) (kind stop : Nat) : Nat :=
  if kind = 1 then s.inFlits stop
  else if kind = 2 then ceilDiv (s.hidW * 2) 256 + ceilDiv (s.vocabW * (if s.rf 0x20C0 31 1 = 1 then 4 else 2)) 256
  else s.inFlits stop + ceilDiv (s.outW stop * (if s.rf 0x2100 14 2 = 1 then 4 else 2)) 256

/-- Flits of the row section of an embedding stop (R314). -/
def embedRowFlits (rows : Nat) : Nat := ceilDiv (16 * rows) 256

/-- Bytes of an embedding stop's retained ingress from flit `f`. -/
def Stop.flit (x : Stop) (f : Nat) : Payload := ((x.data.find? fun d => d.1 = f).map (·.2)).getD 0
/-- INDICES of the preamble (R314). -/
def Stop.rawIndices (x : Stop) : Nat := fld (x.flit 0) 0 23
/-- The index entries that can be used (R316). -/
def Stop.indices (x : Stop) : Nat := min x.rawIndices 4194304
/-- Row-section entry k as a 128-bit field (R315). -/
def Stop.embedRow (x : Stop) (k : Nat) : BitVec 128 := BitVec.ofNat 128 (fld (x.flit (1 + k / 16)) (128 * (k % 16)) 128)
/-- Index-section entry j. -/
def Stop.indexAt (x : Stop) (rows j : Nat) : Nat := fld (x.flit (1 + embedRowFlits rows + j / 64)) (32 * (j % 64)) 32
/-- TOKEN, BAG_OFF, BAG_LEN and MEAN of a row-section entry. -/
def rowToken (e : BitVec 128) : Word := BitVec.ofNat 32 (fld e 0 32)
/-- BAG_OFF. -/
def rowBagOff (e : BitVec 128) : Nat := fld e 32 23
/-- BAG_LEN. -/
def rowBagLen (e : BitVec 128) : Nat := fld e 64 23
/-- MEAN. -/
def rowMean (e : BitVec 128) : Bool := fld e 88 1 = 1

/-- The k-th row of the stop has arrived whole. -/
def State.rowIn (s : State) (kind : Nat) (x : Stop) (k : Nat) : Bool :=
  if kind = 0 then
    let n := x.plan.rows.length
    let e := x.embedRow k
    let base := 1 + embedRowFlits n
    x.has 0 && x.has (1 + k / 16) &&
      (rowBagLen e = 0 || (List.range (rowBagLen e / 64 + 2)).all fun i =>
        let f := rowBagOff e / 64 + i
        decide (rowBagOff e + rowBagLen e ≤ 64 * f) || decide (ceilDiv x.indices 64 ≤ f) || x.has (base + f))
  else
    let f := s.rowFlits kind x.stop
    x.hasAll (k * f) f

/-- Every flit the row count requires has arrived. -/
def Stop.full (x : Stop) : Bool := x.hasAll 0 x.flits

/-- Rows of the stop that have not arrived whole. -/
def State.missing (s : State) (kind : Nat) (x : Stop) : List Nat :=
  (x.plan.rows.zipIdx.filter fun r => !s.rowIn kind x r.2).map (·.1)

/-! Masks (R512). -/

/-- The four payloads of a mask over host row indices. -/
def maskPayloads (rows : List Nat) : List Payload :=
  (List.range 4).map fun q =>
    BitVec.ofNat 2048 ((rows.filter fun r => r / 2048 = q).foldl (fun a r => a ||| 2 ^ (r % 2048)) 0)

/-- DOUT port of a row among those that PORTS of the emitting slot names (R64, R511); masks and results use DOUT0. -/
def doutPort (ports row : Nat) : Nat := if ports = 1 then 2 else if ports = 2 then 3 else 2 + row % 2

/-- Send a mask flit sequence of a stop. -/
def State.sendMask (s : State) (kind stop : Nat) (rows : List Nat) : State :=
  let h := s.curHdr
  s.send 2 ((maskPayloads rows).zipIdx.map fun x => ⟨x.1, doutTag kind x.2 0 stop h.line (x.2 = 3) s.tick32⟩)

/-- Count late rows (R614). -/
def State.countLate (s : State) (n : Nat) : State := (s.count .lateRow n).updTick fun t => { t with lateRows := t.lateRows + n }

/-- Send the late-row mask of a stop once, when a bit is set; `counted` says whether its rows enter CNT_LATE_ROW (R20, R511,
R614). -/
def State.lateMask (s : State) (x : Stop) (counted : Bool) : State :=
  let late := sortNat x.late
  if x.masked || late.isEmpty then s else
  let s := s.sendMask 0x12 x.stop late
  let s := if counted then s.countLate late.length else s
  s.updTick fun t => { t with stops := updWhere (fun y => y.stop = x.stop && y.framing = x.framing && y.tick = x.tick && !y.masked)
                                        (fun y => { y with masked := true }) t.stops }

/-- Requests of a stop's exits that no earlier stop or tick of the step has marked: newly marked to exit here (R194, R196). -/
def State.newExits (s : State) (x : Stop) : List Nat :=
  x.exits.filter fun slot => match s.reqAt slot with | some q => q.exitAt.isNone | none => false

/-- A record with what its stop has judged of it: the probe row's own confidence, and whether its request was marked to exit at the stop
(R190, R193). -/
def State.judgedRec (s : State) (x : Stop) (r : RouteRec) : RouteRec :=
  { r with
    conf := match x.confs.find? fun z => z.1 = r.row with | some z => toBf16 z.2 | none => r.conf
    exited := r.exited || (match s.rowOwner r.row with
      | some q => x.exits.contains q.slot && (s.newExits x).contains q.slot
      | none => false) }

/-- Send the exit mask of a stop with an active exit point (R194). -/
def State.exitMaskOf (s : State) (x : Stop) : State :=
  if x.plan.exitPt.isNone || x.exitMask || x.framing then s else
  let exits := s.newExits x
  let rows := x.plan.rows.filter fun i =>
    match (s.line s.curHdr.line).rows.toArray[i]? with | some r => exits.contains r.slot | none => false
  let s := s.sendMask 0x13 x.stop rows
  let s := s.updStop x.stop fun y => { y with exitMask := true }
  let s := s.updTick fun t => { t with exitMasks := t.exitMasks ++ [(x.stop, (maskPayloads rows).flatMap bvBytes)] }
  let s := s.count .exit exits.length
  exits.foldl (fun s slot => s.updReq slot fun r => { r with exitAt := some (s.tick.count + 2) }) s

/-! Emission. -/

/-- Words of a payload. -/
def payloadWords (p : Payload) (width : Nat) : List Nat := (List.range (2048 / width)).map fun i => fld p (width * i) width

/-- A non-finite element in the first `n` elements of a payload (R118). -/
def payloadNonfinite (p : Payload) (fp32 : Bool) (n : Nat) : Bool :=
  if fp32 then ((payloadWords p 32).take n).any fun w => w / 2 ^ 23 % 256 = 255
  else ((payloadWords p 16).take n).any fun w => w / 2 ^ 7 % 256 = 255

/-- Elements of an emitted row and whether they are fp32: Δx of a BACKWARD tick, else OUT_W (R87, R313, R438). -/
def State.outShape (s : State) (kind stop : Nat) : Nat × Bool :=
  if kind = 3 then (s.inW stop, s.rf 0x2100 16 2 = 1) else (s.outW stop, s.outFp32 stop)

/-- The payloads of one emitted row: zeros, or its elements, each rounded to the row's format, with zeros past the row's end (R81,
R87, R110, R117). -/
def rowPayloads (w : Nat) (fp32 zero : Bool) (el : Nat → Word) : List Payload :=
  let per := if fp32 then 64 else 128
  (List.range (ceilDiv w per)).map fun i =>
    if zero then 0 else
    payloadOf ((List.range (min per (w - per * i))).flatMap fun j =>
      let v := el (per * i + j)
      if fp32 then leBytes 4 v.toNat else leBytes 2 (toBf16 v).toNat)

/-- Emit one delta row (R22, R510). -/
def State.emitRow (s : State) (ports kind stop row : Nat) (zero : Bool) (el : Nat → Word) : State :=
  let sh := s.outShape kind stop
  let ps := rowPayloads sh.1 sh.2 zero el
  let per := if sh.2 then 64 else 128
  let bad := ps.zipIdx.any fun p => payloadNonfinite p.1 sh.2 (min per (sh.1 - per * p.2))
  let h := s.curHdr
  let n := ps.length
  let s := s.send (doutPort ports row) (ps.zipIdx.map fun p =>
    ⟨p.1, doutTag 0x11 row p.2 stop h.line (p.2 + 1 = n) s.tick32⟩)
  let s := { s with free := s.free + (if zero then 0 else 1) }
  let s := if bad then s.count .nonfinite 1 else s
  s.updStop stop fun x => { x with emitted := x.emitted ++ [row] }

/-! Dependence on consignments (R105, R106). -/

/-- A segment whose visits travel in the explicit block of R99: neither routed, steering-only nor of a special working. -/
def Seg.lowRank (g : Seg) : Bool := !g.routed && g.form != 2 && g.form != 3

/-- The row routes over the segment's expert set (R173). -/
def rowRoutes (x : Stop) (i : Nat) (g : Seg) : Bool :=
  g.routed && x.plan.routing.any fun r => r.1 = i && r.2 = fld g.handle 0 18

/-- A choice of the row has been placed in the segment. -/
def State.placedIn (s : State) (x : Stop) (i : Nat) (g : Seg) : Bool :=
  rowRoutes x i g && s.tick.recs.any fun r => r.stop = x.stop && r.row = i && r.final.contains (128 + g.expert)

/-- The row visits the segment: explicitly, or by a choice that has been placed there (R120). -/
def State.visitsSeg (s : State) (x : Stop) (i : Nat) (g : Seg) : Bool := (g.visits.any fun v => v.row = i) || s.placedIn x i g

/-- The row's delta depends on what the consignment carries: for a score consignment its learned scores, for a u consignment the
reduced u of a part that it visits, for one of a special working what the fragment exchanges (R99, R105, R172). A row without a
placed choice depends on no routed entry (R81). -/
def State.rowDepends (s : State) (x : Stop) (i : Nat) (c : ConsPlan) : Bool :=
  let segs := x.plan.passes.getD c.pass []
  c.stop = x.stop &&
  (if c.kind = 4 then decide (2048 ≤ c.group) || (match segs[c.group]? with | some g => g.visits.any fun v => v.row = i | none => false)
   else i / max 1 c.size = c.group &&
    (if c.kind = 1 then x.plan.learned.any fun r => r.1 = i
     else if c.kind = 2 then true
     else (c.pass = 0 && !x.plan.sharedU.isEmpty) || segs.any fun g => (g.lowRank && g.visits.any fun v => v.row = i) || s.placedIn x i g))

/-- The row's delta waits for a consignment that has not come, or that was ended. -/
def State.rowBlocked (s : State) (x : Stop) (i : Nat) : Bool :=
  s.tick.cons.any fun c => s.rowDepends x i c.plan && (c.ended || !c.done)

/-- The exchange is lost: its consignments count as ended and no routed row group is placed (R524). -/
def State.exchangeLost (s : State) : Bool := s.xch.st = 3 && s.groupSize != 1

/-- The junction has written the row's record. -/
def State.recorded (s : State) (x : Stop) (i : Nat) : Bool := s.tick.recs.any fun r => r.stop = x.stop && r.row = i

/-- The row's delta depends on an ended consignment, or on a placement that a lost exchange prevents (R105, R187, R524). -/
def State.rowEnded (s : State) (x : Stop) (i : Nat) : Bool :=
  (s.tick.cons.any fun c => s.rowDepends x i c.plan && c.ended)
  || (s.exchangeLost && (x.plan.routing.any fun r => r.1 = i) && !s.recorded x i)

/-- S(i) is empty: no shared part, no visit, no placed choice (R81). -/
def State.rowZero (s : State) (x : Stop) (i : Nat) : Bool :=
  x.plan.shared.isEmpty && !(x.plan.passes.any fun p => p.any fun g => g.visits.any fun v => v.row = i)
  && !(s.tick.recs.any fun r => r.stop = x.stop && r.row = i && r.final.any fun f => decide (128 ≤ f))

/-- Last pass in which a row has a visit, 0 when none (R134). -/
def State.lastPass (s : State) (x : Stop) (i : Nat) : Nat :=
  (x.plan.passes.zipIdx.filter fun p => p.1.any (s.visitsSeg x i)).foldl (fun a p => max a p.2) 0

/-- The R22 key of a row: last pass, row group, first segment of that pass, host row. Until its choices are placed, a routing row may
visit any segment of its set. -/
def State.rowOrder (s : State) (x : Stop) (i : Nat) : List Nat :=
  let p := s.lastPass x i
  let size := ((s.tick.cons.find? fun c => c.plan.stop = x.stop && c.plan.pass = p).map (·.plan.size)).getD 1024
  let first := (((x.plan.passes.getD p []).zipIdx.find? fun g =>
    s.visitsSeg x i g.1 || (rowRoutes x i g.1 && !s.recorded x i)).map (·.2)).getD 4096
  [p, i / max 1 size, first, i]

/-- The R328 key of an embedding row: priority, deadline, host row. -/
def State.embedOrder (s : State) (i : Nat) : List Nat :=
  match (s.line s.curHdr.line).rows.toArray[i]? with
  | some r => match s.rowReq r with | some q => workKey q.prio q.deadline i | none => [16, 1, 0, i]
  | none => [16, 1, 0, i]

/-- The row can leave now: arrived, no consignment awaited, its last pass reached, its routing placed (R110, R134). -/
def State.rowOk (s : State) (x : Stop) (i : Nat) : Bool :=
  let k := (x.plan.rows.takeWhile fun r => r != i).length
  s.rowIn s.curHdr.kind x k && !s.rowBlocked x i && decide (s.lastPass x i ≤ x.pass)
  && !(x.plan.routing.any (fun y => y.1 = i) && !s.recorded x i)

/-- Rows of a stop still to leave, neither late nor emitted, in schedule order (R22, R328). -/
def State.toEmit (s : State) (x : Stop) : List Nat :=
  let rows := x.plan.rows.filter fun r => !x.late.contains r && !x.emitted.contains r
  let key (i : Nat) := if s.curHdr.kind = 0 then s.embedOrder i else s.rowOrder x i
  (sortBy (fun a b => keyLt a.1 b.1) (rows.map fun i => (key i, i))).map (·.2)

/-- Rows of a stop that may be emitted now: those that can leave before the first in order that cannot. -/
def State.ready (s : State) (x : Stop) : List Nat := (s.toEmit x).takeWhile (s.rowOk x)

/-! STOP_DONE (R19). -/

/-- Flits of a stop and tick that a DOUT link has not had acknowledged. -/
def State.egressFlits (s : State) (port stop tick : Nat) : Nat :=
  ((s.link port).unacked.filter fun f => tF f.tag 12 0 3 = stop && tF f.tag 16 0 32 = tick % 2 ^ 32).length

/-- Flits of an opened stop have not left DOUT (R511). A stop opened again in a tick sends one mask, on DOUT0, behind every flit of its
earlier openings: while one of those is unacknowledged there, so are the four flits of each of the `later` masks. -/
def State.egressOpen (s : State) (x : Stop) (later : List Stop) : Bool :=
  let masks := (later.filter fun y => y.stop = x.stop && y.tick = x.tick && y.masked).length
  decide (4 * masks < s.egressFlits 2 x.stop x.tick) || decide (0 < s.egressFlits 3 x.stop x.tick)

/-- Pulse STOP_DONE for the opened stops that are finished, in the order opened; at most `n`. -/
def State.tryDone (s : State) : Nat → State
  | 0 => s
  | n + 1 =>
    match s.tick.stops.dropWhile fun x => x.done with
    | [] => s
    | x :: later =>
      if x.ended && !s.egressOpen x later then
        ({ s with
          stopDone := s.stopDone ++ [x.stop]
          tick := { s.tick with stops := updFirst (fun y => !y.done) (fun y => { y with done := true, data := [] }) s.tick.stops } }).tryDone n
      else s

/-- STOP_DONE for whatever is finished. -/
def State.pumpDone (s : State) : State := s.tryDone s.tick.stops.length

/-- Open stops: opened and not yet done, two at most. One that the lenient end of a tick closes while two before it are open only stands
in line for its STOP_DONE: it counts when one of those is done (R18, assumption log 102). -/
def State.openStops (s : State) : Nat := min 2 (s.tick.stops.filter fun x => !x.done).length

/-- A routing record for a row whose choices are never considered: late at the build, or of a group that was never placed. Its slots
read UNUSED, since its choices are not counted as drops (R183, R187, R190, assumption log 72). -/
def unplacedRec (stop row mode k tenant : Nat) (probed : Bool) : RouteRec :=
  ⟨stop, row, false, probed, false, mode, k, [0xC0, 0xC0, 0xC0, 0xC0], [0, 0, 0, 0], 0, tenant, [0, 0, 0, 0]⟩

/-- The records missing from a stop's routing rows, of a stop that ends or is never opened (R190). -/
def State.missingRecs (s : State) (p : StopPlan) : List RouteRec :=
  p.routing.filterMap fun r =>
    if s.tick.recs.any fun y => y.stop = p.stop && y.row = r.1 then none else
    match s.dirAt r.2 with
    | some d => (d.copyAt s.tick.count).map fun c => unplacedRec p.stop r.1 (rtMode c.route) (rtK c.route) d.tenant (p.probe.contains r.1)
    | none => none

/-- Every routing row of a stop that has no record gets one when the stop ends (R190). -/
def State.fillRecs (s : State) (x : Stop) : State :=
  s.updTick fun t => { t with recs := t.recs ++ (s.missingRecs x.plan).map (s.judgedRec x) }

/-- At the end of a LAYER tick the routing rows of stops that never opened have their records too: one per routing row at every stop of
the tick (R190). -/
def State.fillPlans (s : State) : State :=
  if s.curHdr.kind ≠ 1 then s else
  match s.tick.cur with
  | some t => s.updTick fun k => { k with recs := k.recs ++ t.plan.flatMap s.missingRecs }
  | none => s

/-- A stop ends: rows not emitted are late, the mask and the exit mask follow its last row, STOP_DONE follows (R19, R67,
R194, R511). With `cut` the lenient policy ends it: no exit mask is sent and no request exits there (R195). -/
def State.endStop (s : State) (stop : Nat) (counted cut : Bool) : State :=
  match s.stopAt stop with
  | none => s
  | some x =>
    if x.ended then s else
    let s := (s.fillRecs x).lateMask x counted
    let s := if !cut then s.exitMaskOf x else
      s.updTick fun t => { t with recs := t.recs.map fun r => if r.stop = stop && !x.exitMask then { r with exited := false } else r }
    (s.updStop stop fun y => { y with ended := true }).pumpDone

end Sys2Proof.Machine
end

