-- ==== Sys2Proof/Machine/Delta.lean ====
section
/-! DEFINITION. The arithmetic of the delta path (R77 to R118) and of backward stops (R436 to R439): the rows as streamed, the
weights where they lie, the parts that a row visits with their places in the consignments, and the reference of every value sent
or emitted. What the manual only bounds is free within the bound; the stages share the budget of R114 between the down leg and the
rest (assumption log 2). -/
namespace Sys2Proof.Machine
open Sys2Proof

/-! Rows as streamed. -/

/-- Element `j` of `bits` bits in the flits from flit `f` of a stop's ingress. -/
def Stop.elemAt (x : Stop) (f bits j : Nat) : Nat := fld (x.flit (f + j * bits / 2048)) (j * bits % 2048) bits
/-- Place of a host row among the stop's rows. -/
def Stop.place (x : Stop) (row : Nat) : Nat := (x.plan.rows.takeWhile fun r => r != row).length
/-- x_j of a row of a LAYER, HEAD or BACKWARD stop (R85, R355, R434). -/
def State.inElem (s : State) (x : Stop) (row j : Nat) : Word :=
  let f := x.place row * s.rowFlits s.curHdr.kind x.stop
  if s.curHdr.kind != 2 && s.inFp8 x.stop then elemVal 1 false (x.elemAt f 8 j) else ofBf16 (BitVec.ofNat 16 (x.elemAt f 16 j))
/-- G_c of a row of a BACKWARD stop (R434, R449). -/
def State.gradElem (s : State) (x : Stop) (row c : Nat) : Word :=
  let f := x.place row * s.rowFlits 3 x.stop + s.inFlits x.stop
  if s.rf 0x2100 14 2 = 1 then BitVec.ofNat 32 (x.elemAt f 32 c) else ofBf16 (BitVec.ofNat 16 (x.elemAt f 16 c))

/-! Weights where they lie (R203 to R210). -/

/-- Rank of a part. -/
def Part.rank (p : Part) : Nat := 8 * (p.rank8 + 1)
/-- Lane, logical tile and column of element (k, l) of a down factor (R208). -/
def placeA (p : Part) (k l : Nat) : Nat × Nat × Nat :=
  let r := p.rank
  if r < 64 then
    let lf := p.inW64 * 64 / (64 / r)
    (l / lf * r + k, l % lf / 64, l % lf % 64)
  else (k % 64, k / 64 * p.inW64 + l / 64, l % 64)
/-- Those of element (c, k) of an up factor. -/
def placeB (p : Part) (c k : Nat) : Nat × Nat × Nat :=
  let r := p.rank
  if r ≤ 64 then
    let g := 64 / r
    (c % 64, c / 64 / g, c / 64 % g * r + k)
  else (c % 64, c / 64 * ceilDiv r 64 + k / 64, k % 64)
/-- Wagon of a factor and row element that hold a column of a logical tile (R209). -/
def tileWagon (fmt tile col : Nat) : Nat × Nat :=
  if fmt = 0 then (2 * tile + col / 32, col % 32) else if fmt = 4 then (tile / 2, 64 * (tile % 2) + col) else (tile, col)
/-- The terms of the weight at a place of the factor whose first wagon is given. -/
def State.weightAt (s : State) (slot : Nat) (c : Copy) (first : Nat) (at_ : Nat × Nat × Nat) : List Ref :=
  let w := tileWagon c.fmt at_.2.1 at_.2.2
  let a := wagonAt slot c (first + w.1)
  weightTerms c.fmt c.mx6v (fun i => memGet s.adMem (a + i)) at_.1 w.2
/-- A_kl of a part; of a router or a probe, its element (k, l) likewise. -/
def State.weightA (s : State) (slot : Nat) (c : Copy) (p : Part) (k l : Nat) : List Ref := s.weightAt slot c p.first (placeA p k l)
/-- B_ck of a part. -/
def State.weightB (s : State) (slot : Nat) (c : Copy) (p : Part) (o k : Nat) : List Ref := s.weightAt slot c (p.first + p.aW) (placeB p o k)
/-- Σ of the weights at `n` places of a factor with activations: each wagon row's span has its scale and offset applied after its sum
(R91); a microscaling format's block scale is part of each weight. -/
def State.sumAt (s : State) (slot : Nat) (c : Copy) (first n : Nat) (place : Nat → Nat × Nat × Nat) (x : Nat → Word) : Ref :=
  if 5 ≤ c.fmt then Ref.dot n (fun i => s.weightAt slot c first (place i)) fun i => [Ref.ofWord (x i)] else
  let cell (i : Nat) : Nat × Nat := tileWagon c.fmt (place i).2.1 (place i).2.2
  Ref.sum ((spansOf (fun i => ((cell i).1, (place i).1)) (List.range n)).map fun k =>
    let rd (j : Nat) : Byte := memGet s.adMem (wagonAt slot c (first + k.1.1) + j)
    spanRef (Ref.ofWord (scaleVal c.fmt rd k.1.2 0)) (BitVec.toInt (rd (4224 + k.1.2)))
      (k.2.map fun i => (Ref.ofWord (elemVal c.fmt c.mx6v (elemBits c.fmt rd k.1.2 (cell i).2)), Ref.ofWord (x i))))
/-- Element `i` of the vector whose first wagon is given (R207). -/
def State.vectorAt (s : State) (slot : Nat) (c : Copy) (first i : Nat) : Word :=
  let vec32 := (memGet s.adMem (wagonAt slot c first + 4289)).toNat / 16 % 2 = 1
  let per := if vec32 then 1024 else 2048
  let a := wagonAt slot c (first + i / per)
  if vec32 then BitVec.ofNat 32 (leNat (memGetAll s.adMem (a + 4 * (i % per)) 4))
  else ofBf16 (BitVec.ofNat 16 (leNat (memGetAll s.adMem (a + 2 * (i % per)) 2)))
/-- s_c of a part, 1 when it has none. -/
def State.scaleAt (s : State) (slot : Nat) (c : Copy) (p : Part) (o : Nat) : Word :=
  if p.sW = 0 then fpOne else s.vectorAt slot c (p.first + p.aW + p.bW) o
/-- v_c of a part, 0 when it has none. -/
def State.steerAt (s : State) (slot : Nat) (c : Copy) (p : Part) (o : Nat) : Word :=
  if p.vW = 0 then 0 else s.vectorAt slot c (p.first + p.aW + p.bW + p.sW) o

/-! Parts that rows visit. -/

/-- A visit of a part by a row, with its weight; `live` unless it is a choice that was not placed. -/
structure Use where
  row   : Nat
  slot  : Nat
  copy  : Copy
  part  : Part
  g     : Word
  steer : Bool             -- v is added (R80)
  live  : Bool
  rank8 : Nat              -- RANK_M8 of its entries in a u consignment
  deriving DecidableEq, Repr

/-- Offsets of entries of given lengths packed in order. -/
def offsets {α : Type} (len : α → Nat) : Nat → List α → List (α × Nat)
  | _, [] => []
  | o, a :: as => (a, o) :: offsets len (o + len a) as

/-- Row-group size of a kind of consignment in a pass of a stop (R97). -/
def State.windowOf (s : State) (stop pass kind : Nat) : Nat :=
  max 1 (((s.tick.cons.find? fun c => c.plan.stop = stop && c.plan.pass = pass && c.plan.kind = kind).map (·.plan.size)).getD 1024)

/-- The choices of a routing row in a pass, in choice-slot order: pass 0 has its entries whatever it holds, a later pass when it holds a
routed segment of the row's tenant; a slot is live where its choice was placed in a segment of the pass (R100, R173). -/
def State.routedUses (s : State) (x : Stop) (pass : Nat) (segs : List Seg) (row slot : Nat) : List Use :=
  match s.dirAt slot with
  | none => []
  | some d => match d.copyAt s.tick.count with
    | none => []
    | some c =>
      if pass != 0 && !segs.any fun g => g.routed && g.tenant = d.tenant then [] else
      let r := s.tick.recs.find? fun r => r.stop = x.stop && r.row = row
      (List.range (rtK c.route)).map fun j =>
        let final := match r with | some r => r.final.getD j 0 | none => 0
        let here := decide (128 ≤ final) && segs.any fun g => g.routed && g.tenant = d.tenant && g.expert + 128 = final
        ⟨row, slot, c, s.expertPart c s.curHdr.layer x.stop (if here then final - 128 else 0),
          (match r with | some r => r.g.getD j 0 | none => 0), false, here, rtRank c.route⟩

/-- The visits of the rows of one row group of a pass in the order of R99: shared, explicit, routed. A row that this block alone leaves out,
for want of row store (R137), keeps its entries, so that the layout is the same across the group (R54; assumption log 106). -/
def State.groupUses (s : State) (x : Stop) (pass size group : Nat) : List Use :=
  let n := s.tick.count
  let rows := x.plan.rows.filter fun i => i / size = group && !x.plan.gone.contains i
  let segs := x.plan.passes.getD pass []
  let shared := if pass = 0 && s.curHdr.kind = 1 then
      ((s.sharedAt s.curHdr.layer x.stop n).filter fun y => x.plan.shared.contains y.1.handle).flatMap fun y =>
        rows.map fun i => (⟨i, y.1.slot, y.2.1, y.2.2, fpOne, true, true, y.2.2.rank8⟩ : Use)
    else []
  let explicit := (segs.filter fun g => !g.routed).flatMap fun g =>
    match s.resolve g.handle n with
    | some (d, c) => match s.partAt c s.curHdr.layer x.stop with
      | some p => (g.run.filter fun v => v.row / size = group && !x.plan.gone.contains v.row).map fun v => (⟨v.row, d.slot, c, p, v.g, true, true, p.rank8⟩ : Use)
      | none => []
    | none => []
  let routed := rows.flatMap fun i => (x.plan.routing.filter fun r => r.1 = i).flatMap fun r => s.routedUses x pass segs i r.2
  shared ++ explicit ++ routed

/-- A special working stages in consignments of its own what its fragment says (R99), which the manual leaves to its image. -/
def Use.special (u : Use) : Bool := u.copy.form = 3
/-- A steering-only part, which has no entry in a consignment (R99). -/
def Use.steers (u : Use) : Bool := u.copy.form = 2
/-- Values of a visit in a u consignment. -/
def Use.len (u : Use) : Nat := if u.steers || u.special then 0 else 8 * (u.rank8 + 1)

/-! Consignments. -/

/-- Word i of a complete consignment, from source `src`. -/
def Consign.word (c : Consign) (src i : Nat) : Word :=
  match c.got.find? fun g => g.1 = src && g.2.1 = i / 64 with
  | some g => BitVec.ofNat 32 (fld g.2.2 (32 * (i % 64)) 32)
  | none => 0

/-- p_k = Σ A_kl x_l of a visit on this block (R77, R90). -/
def State.downRef (s : State) (x : Stop) (row slot : Nat) (c : Copy) (p : Part) (k : Nat) : Ref :=
  s.sumAt slot c p.first (p.inW64 * 64) (placeA p k) (s.inElem x row)

/-- What a row stages for an object is computed: the row was delivered (R17) and is not beyond the last pass (R137), and the object was not
poisoned when the timetable was built (R305). Else it stages zero, so that the consignment keeps its layout. -/
def State.stages (s : State) (x : Stop) (row slot : Nat) : Bool :=
  s.rowIn s.curHdr.kind x (x.place row) && !x.plan.late.contains row
  && !(x.plan.bad.contains row && (match s.dirAt slot with | some d => d.poisoned | none => false))

/-- The references of a u consignment's words (R99); none where the word is zero. -/
def State.uRefs (s : State) (x : Stop) (pass size group : Nat) : List (Option Ref) :=
  (s.groupUses x pass size group).flatMap fun u =>
    (List.range u.len).map fun k => if u.live && s.stages x u.row u.slot then some (s.downRef x u.row u.slot u.copy u.part k) else none

/-- The references of a score consignment's words (R172, R193). -/
def State.scoreRefs (s : State) (x : Stop) (size group : Nat) : List (Option Ref) :=
  let learned := (x.plan.learned.filter fun r => r.1 / max 1 size = group).flatMap fun r =>
    match s.dirAt r.2.1 with
    | some d => match d.copyAt s.tick.count with
      | some c => match s.routerAt c s.curHdr.layer x.stop with
        | some p => (List.range r.2.2).map fun e => if s.stages x r.1 d.slot then some (s.downRef x r.1 d.slot c p e) else none
        | none => List.replicate r.2.2 none
      | none => List.replicate r.2.2 none
    | none => List.replicate r.2.2 none
  let probes := match x.plan.exitPt with
    | none => []
    | some q => match s.resolveKind (s.exitHandle s.curHdr.line q) s.tick.count 2 with
      | some (d, c) => match c.parts.head? with
        | some p => (x.plan.probe.filter fun r => r / max 1 size = group && !x.plan.gone.contains r).flatMap fun r =>
            (List.range p.rank).map fun k =>
              if s.stages x r d.slot && !d.poisoned then some (s.downRef x r d.slot c p k) else none
        | none => []
      | none => []
  learned ++ probes

/-- h_c of a visit without its rounding: g · s_c · G_c (R436). -/
def State.backRef (s : State) (x : Stop) (u : Use) (c : Nat) : Ref :=
  ((Ref.ofWord u.g).mul (Ref.ofWord (s.scaleAt u.slot u.copy u.part c))).mul (Ref.ofWord (s.gradElem x u.row c))

/-- q_k of a visit: Σ B_ck h_c (R436). -/
def State.backDot (s : State) (x : Stop) (u : Use) (k : Nat) : Ref :=
  Ref.dot (u.part.outW64 * 64) (fun c => s.weightB u.slot u.copy u.part c k) fun c => [s.backRef x u c]

/-- The visits of a row group of a pass of a BACKWARD stop: rows in list order, a row's visits in slot order (R437). -/
def State.backUses (s : State) (x : Stop) (pass size group : Nat) : List Use :=
  let segs := x.plan.passes.getD pass []
  (x.plan.rows.filter fun i => i / size = group).flatMap fun i =>
    let vs := segs.flatMap fun g => (g.run.filter fun v => v.row = i && !x.plan.gone.contains i).map fun v => (v.slot, g.handle, v.g)
    (sortBy (fun (a b : Nat × Word × Word) => decide (a.1 < b.1)) vs).filterMap fun v =>
      match s.resolve v.2.1 s.tick.count with
      | some (d, c) => (s.partAt c s.curHdr.layer x.stop).map fun p => ⟨i, d.slot, c, p, v.2.2, true, true, p.rank8⟩
      | none => none

/-- The references of a backward consignment's words: u, then q (R436, R437). -/
def State.backRefs (s : State) (x : Stop) (pass size group : Nat) : List (Option Ref) :=
  ((s.backUses x pass size group).filter fun u => u.part.aW != 0).flatMap fun u =>
    let live := s.stages x u.row u.slot
    ((List.range u.part.rank).map fun k => if live then some (s.downRef x u.row u.slot u.copy u.part k) else none)
    ++ (List.range u.part.rank).map fun k => if !live then none else
      some (s.backDot x u k)

/-- The words of a consignment from their references: the down leg and its fold, within the three roundings of R114's budget (R96);
a sum that the pair holds takes one rounding. -/
def sentWords (free : Nat) (refs : List (Option Ref)) : List Word :=
  refs.zipIdx.map fun r => match r.1 with | some v => v.pick (Config.element free r.2) 1 3 24 2 | none => 0

/-- `n` payloads that carry words in order. -/
def wordPayloads (n : Nat) (ws : List Word) : List Payload :=
  (List.range n).map fun f => payloadOf (((ws.drop (64 * f)).take 64).flatMap fun w => leBytes 4 w.toNat)

/-- The payloads of a u, score or backward consignment; free for one that a special working's fragment stages. -/
def State.partialPayloads (s : State) (x : Stop) (c : ConsPlan) : List Payload :=
  let size := max 1 c.size
  if c.kind = 4 then (List.range c.len).map fun i => Config.freePayload (s.free + i) else
  let refs := if c.kind = 0 then s.uRefs x c.pass size c.group
    else if c.kind = 1 then s.scoreRefs x size c.group else s.backRefs x c.pass size c.group
  wordPayloads c.len (sentWords s.free refs)

/-! Delta rows. -/

/-- The consignment of a kind for a row group. -/
def State.consOf (s : State) (stop pass group kind : Nat) : Option Consign :=
  s.tick.cons.find? fun c => c.plan.stop = stop && c.plan.pass = pass && c.plan.group = group && c.plan.kind = kind

/-- Word i of a reduced consignment, 0 when there is none. -/
def wordIn (c : Option Consign) (i : Nat) : Word := match c with | some c => c.word 0 i | none => 0

/-- The visits of a row over every pass of a LAYER stop, each with its reduced u (R77, R104). -/
def State.rowUses (s : State) (x : Stop) (row : Nat) : List (Use × (Nat → Word)) :=
  (List.range (max 1 x.plan.passes.length)).flatMap fun pass =>
    let size := s.windowOf x.stop pass 0
    let us := offsets Use.len 0 (s.groupUses x pass size (row / size))
    (us.filter fun u => u.1.row = row && u.1.live).map fun u =>
      (u.1, fun k => wordIn (s.consOf x.stop pass (row / size) 0) (u.2 + k))

/-- bf16 of a finite word, held at the largest finite value of its sign (R107). -/
def bf16Held (w : Word) : Word :=
  let h := ofBf16 (toBf16 w)
  if fpFinite h then h else if fld w 31 1 = 1 then 0xFF7F0000 else 0x7F7F0000

/-- The components of a reduced u element: hi and lo, and lo2 for an fp32 output; of one that is not finite, itself and zeros (R107). -/
def splitU (three : Bool) (u : Word) : List Word :=
  let parts := if !fpFinite u then [canonNaN u, 0, 0] else
    let hi := bf16Held u
    let lo := bf16Held (fpSub u hi)
    [hi, lo, bf16Held (fpSub (fpSub u hi) lo)]
  parts.take (if three then 3 else 2)

/-- (B u)_c of a visit: the runs over the components of u in one pair (R107). -/
def State.upRef (s : State) (u : Use) (three : Bool) (us : Nat → Word) (c : Nat) : Ref :=
  Ref.sum ((List.range (if three then 3 else 2)).map fun j =>
    s.sumAt u.slot u.copy (u.part.first + u.part.aW) u.part.rank (placeB u.part c) fun k => (splitU three (us k)).getD j 0)

/-- What a visit adds into the merge accumulator: the up-leg pair folded within its three roundings, times s, times g (R108). -/
def State.useWord (s : State) (free : Word) (u : Use) (three : Bool) (us : Nat → Word) (c : Nat) : Word :=
  let f := (s.upRef u three us c).pick free 1 3 24 2
  fpMul (if u.part.sW = 0 then f else fpMul f (s.scaleAt u.slot u.copy u.part c)) u.g

/-- g · s_c · (B u)_c of a visit without a rounding: the reference's terms (R77, R113). In a group of one they reach down to x, since u
is then the block's own A x (R84). -/
def State.useRef (s : State) (x : Stop) (u : Use) (us : Nat → Word) (c : Nat) : Ref :=
  let inner (k : Nat) : Ref := if s.groupSize = 1 then s.downRef x u.row u.slot u.copy u.part k else Ref.ofWord (us k)
  let sum := Ref.sum ((List.range u.part.rank).flatMap fun k => (s.weightB u.slot u.copy u.part c k).map fun b => Ref.scale b (inner k))
  Ref.scale ((Ref.ofWord u.g).mul (Ref.ofWord (s.scaleAt u.slot u.copy u.part c))) sum

/-- The fold of words from one merge pair, for a row of its format: of a sum that the pair holds, the word has the sum's own bf16 rounding
(R110). -/
def mergeWord (free : Word) (fp32 : Bool) (r : Ref) : Word :=
  let w := r.pick free 1 3 24 2
  if fp32 || !r.once then w else towards r.val w

/-- A finite word that meets the bound of R114, R115 or R327 around a reference ÷ den; the rounded reference in place of one that does not. -/
def holdOver (den : Nat) (fp32 : Bool) (r : Ref) (w : Word) : Word :=
  let bound := (r.mag.shift (if fp32 then 20 else 11)).add ⟨den, -140⟩
  let own := r.val.round den
  if r.cls = .fin && fpFinite w && !withinOf w den r.val bound then (if fp32 || den != 1 then own else towards r.val own) else w

/-- The same around the reference itself (R114, R115). -/
def holdBound (fp32 : Bool) (r : Ref) (w : Word) : Word := holdOver 1 fp32 r w

/-- Element c of a delta row before its last rounding: the contributions of the row's visits, merged within their roundings in one pair
(R108, R109, R110), and within the bound of its format (R114, R115). What a special working adds is free (assumption log 2). -/
def State.deltaElem (s : State) (x : Stop) (row : Nat) (fp32 : Bool) (c : Nat) : Word :=
  let us := s.rowUses x row
  let free (i : Nat) : Word := Config.element s.free (8192 * (i + 1) + c)
  let sw := (us.zipIdx.filter fun u => u.1.1.special).map fun u => free u.2
  let low := us.zipIdx.filter fun u => !u.1.1.special && !u.1.1.steers
  let words := low.map fun u => s.useWord (free u.2) u.1.1 fp32 u.1.2 c
  let steer := (us.filter fun u => u.1.steer && !u.1.special).map fun u => s.steerAt u.1.slot u.1.copy u.1.part c
  let exact := (steer ++ sw).map Ref.ofWord
  let ref := Ref.sum (low.map (fun u => s.useRef x u.1.1 u.1.2 c) ++ exact)
  holdBound fp32 ref (mergeWord (Config.element s.free c) fp32 (Ref.sum (words.map Ref.ofWord ++ exact)))

/-! Backward stops. -/

/-- The visits of a BACKWARD stop in a pass, each with its reduced u and q (R436, R437). -/
def State.backWords (s : State) (x : Stop) (pass : Nat) : List (Use × (Nat → Word) × (Nat → Word)) :=
  let size := s.windowOf x.stop pass 3
  let groups := dedup (x.plan.rows.map fun i => i / size)
  groups.flatMap fun g =>
    let c := s.consOf x.stop pass g 3
    (offsets (fun (u : Use) => if u.part.aW = 0 then 0 else 2 * u.part.rank) 0 (s.backUses x pass size g)).map fun u =>
      (u.1, (fun k => wordIn c (u.2 + k)), fun k => wordIn c (u.2 + u.1.part.rank + k))

/-- The visits of a BACKWARD stop over its passes. -/
def State.allBack (s : State) (x : Stop) : List (Use × (Nat → Word) × (Nat → Word)) :=
  (List.range (max 1 x.plan.passes.length)).flatMap (s.backWords x)

/-- Element l of Δx of a row (R438). Its reference reaches down to G in a group of one, since q is then the block's own. -/
def State.dxElem (s : State) (x : Stop) (row : Nat) (fp32 : Bool) (l : Nat) : Word :=
  let us := (s.allBack x).filter fun u => u.1.row = row && u.1.part.aW != 0
  let through (inner : Use × (Nat → Word) × (Nat → Word) → Nat → Ref) : Ref :=
    Ref.sum (us.flatMap fun u => (List.range u.1.part.rank).flatMap fun k =>
      (s.weightA u.1.slot u.1.copy u.1.part k l).map fun a => Ref.scale a (inner u k))
  let staged := through fun u k => Ref.ofWord (u.2.2 k)
  let ref := if s.groupSize = 1 then through fun u k => s.backDot x u.1 k else staged
  holdBound fp32 ref (mergeWord (Config.element s.free l) fp32 staged)

/-- The summed gradient of an element of a trained part over the visits of the rows that are not late: role 0 A at (k, l), 1 B at
(c, k), 2 s at c, 3 v at c (R436, R438). -/
def State.gradRef (s : State) (x : Stop) (slot role a b : Nat) : Ref :=
  let us := (s.allBack x).filter fun u => u.1.slot = slot && !x.late.contains u.1.row
  Ref.sum (us.map fun u =>
    match role with
    | 0 => (Ref.ofWord (u.2.2 a)).mul (Ref.ofWord (s.inElem x u.1.row b))
    | 1 => (s.backRef x u.1 a).mul (Ref.ofWord (u.2.1 b))
    | 2 => Ref.scale ((Ref.ofWord u.1.g).mul (Ref.ofWord (s.gradElem x u.1.row a))) (s.upRef u.1 true u.2.1 a)
    | _ => Ref.ofWord (s.gradElem x u.1.row a))

/-- Element `c` of an emitted row of the current tick, as binary32 (R110, R438). -/
def State.rowElem (s : State) (x : Stop) (row : Nat) (fp32 : Bool) (c : Nat) : Word :=
  if s.curHdr.kind = 3 then s.dxElem x row fp32 c else s.deltaElem x row fp32 c

end Sys2Proof.Machine
end

