-- ==== Sys2Proof/Machine/Crypto.lean ====
section
/-! DEFINITION. The signature check of R221: the SHA-512 digest and pure Ed25519 verification under RFC 8032. The manual names both
standards and restates neither; they stand here as the standards give them (assumption log 5). -/
namespace Sys2Proof.Machine
open Sys2Proof

/-! SHA-512. Words are numbers below 2^64. -/

/-- 2^64. -/
def sha64 : Nat := 2 ^ 64

/-- Rotate a word right. -/
def shaRot (x n : Nat) : Nat := x >>> n ||| (x <<< (64 - n)) % sha64

/-- The largest number whose power `e` does not pass `m`: bits `f` - 1 down to 0 are tried on top of `r`. -/
def rootBits (e m : Nat) : Nat → Nat → Nat
  | 0, r => r
  | f + 1, r => rootBits e m f (if (r + 2 ^ f) ^ e ≤ m then r + 2 ^ f else r)

/-- The first 64 fractional bits of the root of degree `e` of a number below 2^15. -/
def fracRoot (e p : Nat) : Nat := rootBits e (p * 2 ^ (64 * e)) 72 0 % sha64

/-- The primes below a bound. -/
def primesBelow (n : Nat) : List Nat :=
  (List.range n).filter fun p => decide (2 ≤ p) && ((List.range p).drop 2).all fun q => p % q != 0

/-- The round constants: the first 64 fractional bits of the cube roots of the first 80 primes, of which 409 is the last. -/
def shaK : List Nat := (primesBelow 410).map (fracRoot 3)

/-- The initial hash value: the first 64 fractional bits of the square roots of the first 8 primes, of which 19 is the last. -/
def shaInit : List Nat := (primesBelow 20).map (fracRoot 2)

/-- The next word of the message schedule; `w` is the schedule so far, latest first. -/
def shaExtend (w : List Nat) : Nat :=
  let g (i : Nat) : Nat := w.getD (i - 1) 0
  let s0 := shaRot (g 15) 1 ^^^ shaRot (g 15) 8 ^^^ (g 15 >>> 7)
  let s1 := shaRot (g 2) 19 ^^^ shaRot (g 2) 61 ^^^ (g 2 >>> 6)
  (g 16 + s0 + g 7 + s1) % sha64

/-- The schedule of a block, latest word first: `n` words beyond those given. -/
def shaSchedule : Nat → List Nat → List Nat
  | 0, w => w
  | n + 1, w => shaSchedule n (shaExtend w :: w)

/-- One round over the eight working words. -/
def shaRound (h : List Nat) (k w : Nat) : List Nat :=
  let g (i : Nat) : Nat := h.getD i 0
  let e := g 4
  let a := g 0
  let ch := (e &&& g 5) ^^^ ((sha64 - 1 - e) &&& g 6)
  let maj := (a &&& g 1) ^^^ (a &&& g 2) ^^^ (g 1 &&& g 2)
  let t1 := g 7 + (shaRot e 14 ^^^ shaRot e 18 ^^^ shaRot e 41) + ch + k + w
  let t2 := (shaRot a 28 ^^^ shaRot a 34 ^^^ shaRot a 39) + maj
  [(t1 + t2) % sha64, a, g 1, g 2, (g 3 + t1) % sha64, e, g 5, g 6]

/-- The compression of one block of 128 bytes. -/
def shaBlock (h : List Nat) (bs : List Byte) : List Nat :=
  let w0 := (List.range 16).map fun i => leNat ((bs.drop (8 * i)).take 8).reverse
  let w := (shaSchedule 64 w0.reverse).reverse
  let r := (shaK.zip w).foldl (fun h x => shaRound h x.1 x.2) h
  (h.zip r).map fun x => (x.1 + x.2) % sha64

/-- The blocks of a padded message, `n` of them. -/
def shaBlocks : Nat → List Nat → List Byte → List Nat
  | 0, h, _ => h
  | n + 1, h, bs => shaBlocks n (shaBlock h (bs.take 128)) (bs.drop 128)

/-- The SHA-512 digest of a byte string. -/
def sha512 (bs : List Byte) : List Byte :=
  let n := bs.length + 17
  let pad := (128 - n % 128) % 128
  let msg := bs ++ [0x80] ++ List.replicate pad 0 ++ (leBytes 16 (8 * bs.length)).reverse
  (shaBlocks (msg.length / 128) shaInit msg).flatMap fun x => (leBytes 8 x).reverse

/-! Ed25519. Field elements are numbers below p. -/

/-- p = 2^255 − 19. -/
def edP : Nat := 2 ^ 255 - 19
/-- The order L of the base point. -/
def edL : Nat := 2 ^ 252 + 27742317777372353535851937790883648493

/-- a − b in the field. -/
def edSub (a b : Nat) : Nat := (a + edP - b) % edP

/-- Powers in the field; `f` bits of the exponent are used. -/
def edPow : Nat → Nat → Nat → Nat
  | 0, _, _ => 1
  | f + 1, b, e => let r := edPow f (b * b % edP) (e / 2); if e % 2 = 1 then b * r % edP else r

/-- The inverse in the field. -/
def edInv (a : Nat) : Nat := edPow 255 a (edP - 2)

/-- d = −121665 / 121666. -/
def edD : Nat := edSub 0 (121665 * edInv 121666 % edP)

/-- A point in extended homogeneous coordinates (X, Y, Z, T). -/
structure EdPoint where
  x : Nat
  y : Nat
  z : Nat
  t : Nat
  deriving DecidableEq, Repr

/-- The neutral point. -/
def edZero : EdPoint := ⟨0, 1, 1, 0⟩

/-- Addition of points. -/
def edAdd (p q : EdPoint) : EdPoint :=
  let a := edSub p.y p.x * edSub q.y q.x % edP
  let b := (p.y + p.x) * (q.y + q.x) % edP
  let c := 2 * p.t * q.t * edD % edP
  let d := 2 * p.z * q.z % edP
  let e := edSub b a
  let f := edSub d c
  let g := (d + c) % edP
  let h := (b + a) % edP
  ⟨e * f % edP, g * h % edP, f * g % edP, e * h % edP⟩

/-- [n] p; `f` bits of n are used. -/
def edMul : Nat → Nat → EdPoint → EdPoint
  | 0, _, _ => edZero
  | f + 1, n, p => let r := edMul f (n / 2) (edAdd p p); if n % 2 = 1 then edAdd p r else r

/-- The two points are equal. -/
def edSame (p q : EdPoint) : Bool :=
  decide (p.x * q.z % edP = q.x * p.z % edP) && decide (p.y * q.z % edP = q.y * p.z % edP)

/-- The x of a point from its y and its sign bit (RFC 8032, 5.1.3). -/
def edRecover (y sign : Nat) : Option Nat :=
  if edP ≤ y then none else
  let u := edSub (y * y % edP) 1
  let v := (edD * (y * y % edP) + 1) % edP
  let v3 := v * v % edP * v % edP
  let v7 := v3 * v3 % edP * v % edP
  let x := u * v3 % edP * edPow 255 (u * v7 % edP) ((edP - 5) / 8) % edP
  let vxx := v * (x * x % edP) % edP
  let root : Option Nat :=
    if vxx = u then some x
    else if vxx = edSub 0 u then some (x * edPow 255 2 ((edP - 1) / 4) % edP)
    else none
  match root with
  | none => none
  | some r => if r = 0 && sign = 1 then none else some (if r % 2 = sign then r else edSub 0 r)

/-- A point from its 32 bytes. -/
def edDecode (bs : List Byte) : Option EdPoint :=
  let n := leNat bs
  let y := n % 2 ^ 255
  (edRecover y (n / 2 ^ 255 % 2)).map fun x => ⟨x, y, 1, x * y % edP⟩

/-- The base point. -/
def edBase : Option EdPoint :=
  let y := 4 * edInv 5 % edP
  (edRecover y 0).map fun x => ⟨x, y, 1, x * y % edP⟩

/-- Pure Ed25519 verification of a 64-byte signature under a 32-byte key (RFC 8032, 5.1.7), by the equation multiplied by the
cofactor 8. -/
def edVerify (key msg sig : List Byte) : Bool :=
  let r := sig.take 32
  let sc := leNat (sig.drop 32)
  match edDecode key, edDecode r, edBase with
  | some a, some rp, some b =>
    let k := leNat (sha512 (r ++ key ++ msg)) % edL
    decide (sc < edL) && edSame (edMul 4 8 (edMul 256 sc b)) (edMul 4 8 (edAdd rp (edMul 256 k a)))
  | _, _, _ => false

end Sys2Proof.Machine
end

