-- ==== Sys2Proof/Machine/Logits.lean ====
section
/-! DEFINITION. Logits (R354 to R360), the penalty window (R364 to R366), and the head consignments: partials of the heads and the
gather records with their local results (R367 to R369). -/
namespace Sys2Proof.Machine
open Sys2Proof

/-- Token id a row carried in its line's most recent EMBED tick (R180, R317). -/
def State.tokenOf (s : State) (line row : Nat) : Word :=
  (((s.line line).embTok.find? fun x => x.1 = row).map (·.2)).getD 0xFFFFFFFF

/-! Head rows. -/

/-- The requests with head rows in the stop, in manifest order of their first head row, with their rows (R354, R378). -/
def State.headReqs (s : State) (x : Stop) : List (Nat × List Nat) :=
  let owners := x.plan.rows.filterMap fun i => (s.rowOwner i).map fun q => (i, q.slot)
  let first := owners.foldl (fun (a : List Nat) o => if a.contains o.2 then a else a ++ [o.2]) []
  first.map fun sl => (sl, (owners.filter fun o => o.2 = sl).map (·.1))

/-- −∞. -/
def fpNegInf : Word := 0xFF800000

/-- The head rows of a row group, in manifest order (R368). -/
def headGroup (x : Stop) (c : ConsPlan) : List Nat := x.plan.rows.filter fun i => i / max 1 c.size = c.group

/-! Heads and planes (R357, R358). -/

/-- An object that a head row's request may use, by handle and KIND. -/
def State.headObj (s : State) (q : Req) (h : Word) (kind : Nat) : Option (Dir × Copy) :=
  (s.resolveKind h s.tick.count kind).filter fun y => mayUse q.tenant y

/-- A part of a head object by its EXPERT field, as a visit of weight 1.0. -/
def headPart (row expert : Nat) (y : Dir × Copy) : Option Use :=
  (y.2.parts.find? fun p => p.expert = expert).map fun p => ⟨row, y.1.slot, y.2, p, fpOne, true, true, p.rank8⟩

/-- The output head's part 0 of a head row. -/
def State.outUse (s : State) (q : Req) (row : Nat) : Option Use :=
  (s.headObj q (s.headSamp q).1.outHead 4).bind (headPart row 0)
/-- The plane of a head row; none when PLANE is 0. -/
def State.planeUse (s : State) (q : Req) (row : Nat) : Option Use :=
  let p := (s.headSamp q).1
  if p.plane = 0 then none else (s.headObj q p.planeHead 4).bind (headPart row p.plane)
/-- The speculative parts of a head row that DRAFTS wants, ascending. -/
def State.specUses (s : State) (q : Req) (row : Nat) : List Use :=
  let sp := s.headSamp q
  match s.headObj q sp.1.specHead 5 with
  | some y => (List.range (min sp.1.drafts sp.2)).filterMap fun d => headPart row d y
  | none => []

/-- The parts with a down leg that a head row visits, in the order of R368: 0 the output head, d + 1 speculative part d. -/
def State.headUses (s : State) (row : Nat) : List (Nat × Use) :=
  match s.rowOwner row with
  | none => []
  | some q =>
    let out : List (Nat × Use) := (s.outUse q row).toList.map fun u => (0, u)
    let spec : List (Nat × Use) := (s.specUses q row).zipIdx.map fun u => (u.2 + 1, u.1)
    (out ++ spec).filter fun u => u.2.part.aW != 0

/-- The payloads of a head stop's u consignment (R368). -/
def State.headPartials (s : State) (x : Stop) (c : ConsPlan) : List Payload :=
  let refs := (headGroup x c).flatMap fun row => (s.headUses row).flatMap fun u =>
    (List.range u.2.part.rank).map fun k =>
      if s.stages x row u.2.slot && !x.late.contains row then some (s.downRef x row u.2.slot u.2.copy u.2.part k) else none
  wordPayloads c.len (sentWords s.free refs)

/-- The reduced u of part `which` of a head row. -/
def State.headWord (s : State) (x : Stop) (row which k : Nat) : Word :=
  match s.tick.cons.find? fun c => c.plan.kind = 0 && c.plan.stop = x.stop && row / max 1 c.plan.size = c.plan.group with
  | none => 0
  | some c =>
    let us := (headGroup x c.plan).flatMap fun r => (s.headUses r).map fun u => (r, u)
    match (offsets (fun (u : Nat × Nat × Use) => u.2.2.part.rank) 0 us).find? fun u => u.1.1 = row && u.1.2.1 = which with
    | some u => c.word 0 (u.2 + k)
    | none => 0

/-! Logits (R359, R360). -/

/-- Base logit of column c of a head row (R355); none for an extension column. -/
def State.baseLogit (s : State) (x : Stop) (row c : Nat) : Option Word :=
  if s.vocabW ≤ c then none else
  let f := x.place row * s.rowFlits 2 x.stop + ceilDiv (s.hidW * 2) 256
  some (if s.rf 0x20C0 31 1 = 1 then BitVec.ofNat 32 (x.elemAt f 32 c) else ofBf16 (BitVec.ofNat 16 (x.elemAt f 16 c)))

/-- What R360 leaves of a logit. -/
def cleanLogit (z : Word) : Word := if fpIsNaN z then fpNegInf else if z = fpInf false then fpMax false else z

/-- The logit of column c under part `which`, before R360: exact but for its rounding where no low-rank part enters, else within the
bound of R114; base logits enter the output head's alone. -/
def State.rawLogit (s : State) (x : Stop) (q : Req) (row which c : Nat) : Word :=
  let part := if which = 0 then s.outUse q row else (s.specUses q row)[which - 1]?
  let base := if which = 0 then s.baseLogit x row c else none
  let free (k : Nat) : Word := Config.element (s.free + row) ((2 * which + k) * (s.vocabW + s.extW) + c)
  let low := match part with
    | some u => if u.part.aW = 0 then [] else [u]
    | none => []
  let v (u : Use) : Word := s.steerAt u.slot u.copy u.part c
  let vs := base.toList ++ part.toList.map v ++ (s.planeUse q row).toList.map v
  let ref := Ref.sum (low.map (fun u => s.useRef x u (s.headWord x row which) c) ++ vs.map Ref.ofWord)
  holdBound true ref (foldRef (free 0) 1 3 24 2 none (low.map (fun u => s.useWord (free 1) u true (s.headWord x row which) c) ++ vs))

/-- Columns of the block. -/
def State.columns (s : State) : List Nat := List.range (s.vocabW + s.extW)

/-- Token id of a column (R356). -/
def State.colToken (s : State) (c : Nat) : Word :=
  if c < s.vocabW then BitVec.ofNat 32 (s.pos * s.vocabW + c) else s.reg 0x40A8 + BitVec.ofNat 32 (s.pos * s.extW + (c - s.vocabW))

/-- The row's parts of which logits are formed: the output head's place, then one per draft. -/
def State.headWhich (s : State) (q : Req) (row : Nat) : List Nat := List.range (1 + (s.specUses q row).length)

/-- Some logit of the row is replaced under R360. -/
def State.replaced (s : State) (x : Stop) (q : Req) (row : Nat) : Bool :=
  (s.headWhich q row).any fun w => s.columns.any fun c => let z := s.rawLogit x q row w c; z != cleanLogit z

/-! Penalty and temperature (R364 to R366). -/

/-- The tokens of the penalty window of a head row. -/
def State.penaltyTokens (s : State) (x : Stop) (q : Req) (row : Nat) : List Word :=
  let rows := (((s.headReqs x).find? fun h => h.1 = q.slot).map (·.2)).getD []
  let drafts := ((rows.takeWhile fun r => r != row).drop 1 ++ (if rows.head? = some row then [] else [row])).map (s.tokenOf s.curHdr.line)
  let win := q.hist ++ drafts.filter fun t => t != 0xFFFFFFFF
  win.drop (win.length - (s.headSamp q).1.penWin)

/-- A result that left the fp32 range, held at it (R366). -/
def heldAtRange (z : Word) : Word := if fpFinite z then z else fpMax (z.getLsbD 31)

/-- z′ of R364 to R366 from a logit: each of the two steps is held at the range (assumption log 67). -/
def scaleLogit (p : Sampling) (inWindow : Bool) (z : Word) : Word :=
  if z = fpNegInf then z else
  let z1 := if !inWindow then z else heldAtRange (if fpLt 0 z then fpDiv z p.repPen else fpMul z p.repPen)
  if fpLt 0 p.temp then heldAtRange (fpDiv z1 p.temp) else z1

/-! Local results (R367, R369). -/

/-- Order of candidates: descending value, then ascending token id. -/
def candLt (a b : Word × Word) : Bool := fpLt b.1 a.1 || (!fpLt a.1 b.1 && decide (a.2.toNat < b.2.toNat))

/-- The 64 local candidates of z′ and tokens, filled as R367 says. -/
def localCands (zs : List (Word × Word)) : List (Word × Word) :=
  let live := (sortBy candLt (zs.filter fun z => fpLt fpNegInf z.1)).take 64
  live ++ List.replicate (64 - live.length) (fpNegInf, 0xFFFFFFFF)

/-- m_b and S_b; the manual states no bound for the sum of the exponentials, the model takes that of R114 (assumption log 2). -/
def localTerms (free : Word) (zs : List (Word × Word)) : Word × Word :=
  let live := (zs.map (·.1)).filter (fpLt fpNegInf)
  let m := live.foldl (fun a z => if fpLt a z then z else a) fpNegInf
  if live.isEmpty then (fpNegInf, 0) else
  (m, (Ref.sum (live.map fun z => Ref.ofWord (expWord (fpSub z m)))).pick free 1 16 24 2)

/-- The local draft candidate of speculative logits. -/
def localSpec (zs : List (Word × Word)) : Word × Word := (sortBy candLt zs).headD (fpNegInf, 0xFFFFFFFF)

/-- The local results of a head row: words 0 to 137 of its gather record. -/
def State.localWords (s : State) (x : Stop) (q : Req) (row : Nat) : List Word :=
  let win := s.penaltyTokens x q row
  let col (w c : Nat) : Word × Word := (cleanLogit (s.rawLogit x q row w c), s.colToken c)
  let zs := s.columns.map fun c => let z := col 0 c; (scaleLogit (s.headSamp q).1 (win.contains z.2) z.1, z.2)
  let terms := localTerms (Config.element (s.free + row) (16 * (s.vocabW + s.extW))) zs
  let specs := ((s.headWhich q row).drop 1).map fun w => localSpec (s.columns.map (col w))
  let pairs (ps : List (Word × Word)) : List Word := ps.flatMap fun p => [p.1, p.2]
  pairs (localCands zs) ++ [terms.1, terms.2] ++ pairs (specs ++ List.replicate (4 - specs.length) (fpNegInf, 0xFFFFFFFF))

/-- A row's LATE bit in its gather record: it is late here, or its partials depend on an ended consignment (R369). -/
def State.headLate (s : State) (x : Stop) (row : Nat) : Bool :=
  x.late.contains row || !s.rowIn 2 x (x.place row)
  || s.tick.cons.any fun c => c.plan.kind = 0 && c.ended && c.plan.stop = x.stop && row / max 1 c.plan.size = c.plan.group

/-- The 144 words of a row's gather record (R369). A late row has no valid candidates: what stands there is free. -/
def State.gatherWords (s : State) (x : Stop) (row : Nat) : List Word :=
  let q := s.rowOwner row
  let late := s.headLate x row
  let noRoom := s.pos = 0 && (match q with | some q => q.noRoom | none => false)
  let free (i : Nat) : Word := BitVec.ofNat 32 (fld (Config.freePayload (s.free + 3 * row + i / 64)) (32 * (i % 64)) 32)
  let front := match q with
    | some q => if late then (List.range 138).map free else s.localWords x q row
    | none => (List.range 138).map free
  front ++ BitVec.ofNat 32 (row % 8192 + 16384 * b2n noRoom + 32768 * b2n late) :: List.replicate 5 0

/-- The payloads of a gather consignment. -/
def State.gatherPayloads (s : State) (x : Stop) (c : ConsPlan) : List Payload :=
  wordPayloads c.len ((headGroup x c).flatMap (s.gatherWords x))

/-- The rows of a gather consignment in which a logit was replaced (R360). -/
def State.replacedRows (s : State) (x : Stop) (c : ConsPlan) : Nat :=
  ((headGroup x c).filter fun row => match s.rowOwner row with | some q => !s.headLate x row && s.replaced x q row | none => false).length

end Sys2Proof.Machine
end

