-- ==== Sys2Proof/Machine/Exchange.lean ====
section
/-! DEFINITION. The exchange port: consignments (R97 to R106, R515 to R517), the group digest (R415 to R420), joining and the loss
of the partner (R519 to R525). -/
namespace Sys2Proof.Machine
open Sys2Proof

/-- Change the exchange unit. -/
def State.updXch (s : State) (f : Xch → Xch) : State := { s with xch := f s.xch }

/-- The oldest received flit of a link that has this kind is taken from what the link delivered. -/
def State.takeRx (s : State) (port : Nat) (p : Flit → Bool) : State :=
  let l := s.link port
  let pre := l.rxQ.takeWhile fun f => !p f
  s.setLink port { l with rxQ := pre ++ l.rxQ.drop (pre.length + 1) }

/-- IX_ID (R6). -/
def State.ixId (s : State) : Word :=
  match s.build with | .ix128 => 0x71030100 | .ix256 => 0x72030100 | .ix512 => 0x73030100

/-! Consignments. -/

/-- Change a consignment of the current tick. -/
def State.updCons (s : State) (num : Nat) (f : Consign → Consign) : State :=
  s.updTick fun t => { t with cons := updWhere (fun c => c.plan.num = num) f t.cons }

/-- The payloads that IX7 sends for a consignment (R99, R172, R368, R369, R437). -/
def State.consPayloads (s : State) (c : ConsPlan) : List Payload :=
  match s.stopAt c.stop with
  | none => List.replicate c.len 0
  | some x => if c.kind = 2 then s.gatherPayloads x c else if s.curHdr.kind = 2 then s.headPartials x c else s.partialPayloads x c

/-- The rows that forming a consignment's logits counts in CNT_NONFINITE (R360). -/
def State.consReplaced (s : State) (c : ConsPlan) : Nat :=
  if c.kind ≠ 2 then 0 else match s.stopAt c.stop with | some x => s.replacedRows x c | none => 0

/-- Rows not emitted that depend on an ended consignment become late (R105). -/
def State.markEnded (s : State) : State :=
  s.updTick fun t => { t with stops := t.stops.map fun x =>
    if x.framing || x.ended then x else
    { x with late := sortNat (x.late ++ x.plan.rows.filter fun i => !x.emitted.contains i && s.rowEnded x i) } }

/-- Send a consignment (R63, R84, R515, R524): nothing crosses the port in a group of one, and a lost partner ends it. -/
def State.sendCons (s : State) (num : Nat) : State :=
  match s.tick.cons.find? fun c => c.plan.num = num && !c.sent && !c.ended with
  | none => s
  | some c =>
    let ps := s.consPayloads c.plan
    let s' := { s with free := s.free + c.plan.len + 3 * 8192 }
    let s1 := s'.count .nonfinite (s.consReplaced c.plan)
    if s.groupSize = 1 then
      s1.updCons num fun c => { c with sent := true, done := true, got := ps.zipIdx.map fun p => (0, p.2, p.1) }
    else if s.xch.st = 3 then (s'.updCons num fun c => { c with ended := true }).markEnded
    else
      let flits := ps.zipIdx.map fun p =>
        ⟨p.1, xchTag c.kind s.tick32 num s.pos p.2 c.plan.len c.plan.stop c.plan.pass⟩
      (s1.send 4 flits).updCons num fun c => { c with sent := true }

/-- Flits that complete a consignment (R517). -/
def State.consNeed (s : State) (c : Consign) : Nat := if c.kind = 0x22 then c.plan.len * s.groupSize else c.plan.len

/-- The link layer has acknowledged the last flit sent for a consignment number of this tick (R522). -/
def State.consAcked (s : State) (num : Nat) : Bool :=
  !(s.link 4).unacked.any fun f => xchStamp f.tag = s.tick32 && xchConsign f.tag = num

/-- A consignment is awaited: sent, acknowledged and not complete (R517, R522). -/
def State.awaited (s : State) : Bool :=
  (s.tick.cons.any fun c => c.sent && !c.done && !c.ended && decide (c.got.length < s.consNeed c) && s.consAcked c.plan.num)
  || (s.digest.sent.isSome && decide (s.digest.flits.length < s.groupSize) && s.consAcked 0)

/-- End every reduction the tick awaits and every consignment not yet sent (R105). -/
def State.endCons (s : State) : State :=
  (s.updTick fun t => { t with cons := t.cons.map fun c => if c.done then c else { c with ended := true, left := false } }).markEnded

/-- The lenient end of a tick: consignments not yet sent are not sent, and the reductions of those sent are abandoned, though their
flits still complete them until the next TICK_ACK (R39, R106). -/
def State.leaveCons (s : State) : State :=
  (s.updTick fun t => { t with cons := t.cons.map fun c => if c.done then c else { c with ended := true, left := c.sent } }).markEnded

/-- Bytes of consignments: as sent, and as returned (R98, R103). -/
def State.returned (s : State) (c : Consign) : Nat := 256 * s.consNeed c

/-- Some row waits for what a returned consignment brought: its rows have neither left nor become late, its group is not placed, judged
or decided (R103). -/
def State.unconsumed (s : State) (c : Consign) : Bool :=
  match s.stopAt c.plan.stop with
  | none => false
  | some x =>
    !x.ended && (
      if c.plan.kind = 1 then
        ((x.plan.learned.any fun r => r.1 / max 1 c.plan.size = c.plan.group) && !x.placed.contains c.plan.group)
        || ((x.plan.probe.any fun r => r / max 1 c.plan.size = c.plan.group) && !x.judged.contains c.plan.group)
      else if s.curHdr.kind = 2 then !x.placed.contains c.plan.group
      else x.plan.rows.any fun i => s.rowDepends x i c.plan && !x.emitted.contains i && !x.late.contains i)

/-- A consignment may be sent now: neither what is sent and not returned nor what is returned and not consumed comes to exceed 8 MiB
(R103). -/
def State.xchRoom (s : State) (num : Nat) : Bool :=
  match s.tick.cons.find? fun c => c.plan.num = num && !c.sent && !c.ended with
  | none => true
  | some c =>
    let out := s.tick.cons.foldl (fun a y => if y.sent && !y.done && !y.ended then a + 256 * y.plan.len else a) 0
    let back := s.tick.cons.foldl (fun a y => if y.sent && !y.ended && (!y.done || s.unconsumed y) then a + s.returned y else a) 0
    s.groupSize = 1 || s.xch.st = 3 || decide (out + 256 * c.plan.len ≤ 8388608 ∧ back + s.returned c ≤ 8388608)

/-! The group digest. -/

/-- A routing record's 32 bytes (R190). -/
def RouteRec.bytes (r : RouteRec) : List Byte :=
  leBytes 2 (r.row % 8192 + 8192 * b2n r.nonfin + 16384 * b2n r.probed + 32768 * b2n r.exited)
  ++ leBytes 1 (r.mode + 4 * r.k + 32 * r.stop) ++ leBytes 1 0
  ++ (List.range 4).flatMap (fun j => leBytes 1 (r.choice.getD j 0xC0))
  ++ (List.range 4).flatMap (fun j => leBytes 1 (r.final.getD j 0))
  ++ leBytes 2 r.conf.toNat ++ leBytes 2 r.tenant ++ (List.range 4).flatMap fun j => leBytes 4 (r.g.getD j 0).toNat

/-- Routing records by ascending stop and host row. -/
def sortRecs (rs : List RouteRec) : List RouteRec :=
  sortBy (fun a b => keyLt [a.stop, a.row] [b.stop, b.row]) rs

/-- SEC0 (R417). -/
def headerBytes (h : Header) : List Byte :=
  leBytes 1 (h.kind + 4 * h.line) ++ leBytes 2 h.layer ++ leBytes 1 h.stops.toNat

/-- SEC2: the pass plans (R131, R417). -/
def planBytes (b : Build) (ps : List StopPlan) : List Byte :=
  ps.flatMap fun p => leBytes 1 p.stop ++ leBytes 1 p.passes.length ++ p.passes.zipIdx.flatMap fun x =>
    leBytes 2 x.1.length ++ leBytes 2 (x.1.foldl (fun a g => a + segPositions b g) 0)
    ++ leBytes 2 (if x.2 + 1 = p.passes.length then p.removed else 0)

/-- The eight sections of the digest of the current tick (R417, R420). -/
def State.digestSecs (s : State) : List Word :=
  let d := s.digest
  let t := s.tick
  let sec1 := (d.sec1.filter fun x => x.1 = t.count).flatMap (·.2) ++ d.sec1Done.flatMap (·.2)
  let exits := ((s.exitCfg.getD s.curHdr.line []).flatMap fun w => leBytes 4 w.toNat)
  let c1 := if d.fresh then 0 else crc32c ((sortRecs t.prevRecs).flatMap RouteRec.bytes)
  let c2 := if d.fresh then 0 else
    crc32c ((sortBy (fun (a b : Nat × List Byte) => decide (a.1 < b.1)) t.prevMasks).flatMap (·.2))
  let poisoned := (s.dirs.filter (·.poisoned)).map fun x => x.handle.toNat
  [ crc32c (headerBytes s.curHdr)
  , crc32c sec1
  , crc32c (match t.cur with | some tt => planBytes s.build tt.plan | none => [])
  , crc32c (exits ++ leBytes 4 c1.toNat ++ leBytes 4 c2.toNat)
  , if d.fresh then 0 else crc32c ((d.sec4.filter fun x => x.1 = t.count).flatMap fun x => leBytes 4 x.2.toNat)
  , crc32c ((sortNat poisoned).flatMap (leBytes 4))
  , (match d.fresh, d.results with
      | false, some rs => crc32c (leBytes 4 (crc32c rs).toNat)
      | _, _ => 0)
  , crc32c (d.sec7 ++ (sortBy (fun (a b : Nat × Word) => decide (a.1 < b.1))
      ((d.expired.filter fun x => x.1 = t.count).map (·.2))).flatMap fun e => leBytes 4 e.2.toNat) ]

/-- The digest flit's payload (R416). -/
def State.digestPayload (s : State) : Payload :=
  payloadOf (leBytes 4 s.tick32 ++ leBytes 1 s.pos ++ leBytes 1 s.groupSize ++ leBytes 2 0
    ++ s.digestSecs.flatMap fun w => leBytes 4 w.toNat)

/-- What a digest has covered leaves the sections (R417). -/
def Digest.spent (d : Digest) (n : Nat) : Digest :=
  { d with sec1 := d.sec1.filter fun x => decide (n < x.1), sec1Done := [], sec4 := d.sec4.filter fun x => decide (n < x.1), sec7 := []
           expired := d.expired.filter fun x => decide (n < x.1), fresh := false }

/-- Exchange OP 4: send the group digest; none in a group of one or with a lost partner (R418, R524). -/
def State.sendDigest (s : State) : State :=
  let p := s.digestPayload
  let s := { s with digest := s.digest.spent s.tick.count }
  if s.groupSize = 1 || s.xch.st = 3 then s
  else
    let s := { s with digest := { s.digest with sent := some p, flits := [] } }
    s.send 4 [⟨p, xchTag 0x23 s.tick32 0 s.pos 0 1 0 0⟩]

/-- Word k of a digest payload. -/
def digestWord (p : Payload) (k : Nat) : Nat := fld p (32 * k) 32

/-- Sections in which a member's digest differs, as a mask; bit 8 marks a different STAMP. -/
def digestDiff (own p : Payload) : Nat :=
  (List.range 8).foldl (fun a k => if digestWord own (2 + k) = digestWord p (2 + k) then a else a ||| 2 ^ k) 0
  ||| (if digestWord own 0 = digestWord p 0 then 0 else 256)

/-- A group mismatch (R419); one already recorded stands. -/
def State.groupMismatch (s : State) (sections : Nat) : State :=
  if s.err .groupMismatch then s else
  let s := s.setErr .groupMismatch
  let s := { s with digest := { s.digest with sections := sections % 256, tickLo := BitVec.ofNat 32 s.tick.count } }
  (s.count .groupMismatch 1).unsolEvent 0x16 s.tick32 (sections % 256)

/-! Partner loss and joining. -/

/-- The partner is lost (R523): what waits for the exchange port is not sent (R524); `silence` when the timeout declared it. -/
def State.loseThePartner (s : State) (silence : Bool) : State :=
  let s := s.updXch fun x => { x with st := 3, joining := false }
  let s := (s.setLink 4 { s.link 4 with waiting := [] }).endCons
  let known := s.err .groupMismatch
  let s := s.setErr .xchLost
  let s := if known then s else
    ({ s with digest := { s.digest with sections := 0, tickLo := BitVec.ofNat 32 s.tick.count } }).setErr .groupMismatch
  let s := { s with digest := { s.digest with sent := none } }
  let s := s.count .xchLost 1
  let s := if silence then s.unsolEvent 0x50 5 0 else s
  s.pumpDone

/-- PARTNER_LOST: silence on an awaited consignment while joined (R522). -/
def execPartnerLost (s : State) : Host.Outcome State Fault Refusal :=
  let s := s.begin
  .next (if s.live && s.xch.st = 2 && s.awaited && !s.paused then s.loseThePartner true else s)

/-- Start a join (R519). -/
def State.startJoin (s : State) : State :=
  if s.engine == .quiesced && (s.link 4).st == .up && s.negot.getD 2 0 != 0 && (s.xch.st = 1 || s.xch.st = 3) then
    let p := payloadOf (leBytes 4 s.ixId.toNat ++ leBytes 1 s.pos ++ leBytes 1 s.groupSize ++ leBytes 2 0
      ++ leBytes 8 s.tick.count)
    (s.updXch fun x => { x with joining := true, joinGot := [] }).send 4 [⟨p, xchTag 0x24 0 0 s.pos 0 1 0 0⟩]
  else s

/-- JOIN. -/
def execJoin (s : State) : Host.Outcome State Fault Refusal :=
  let s := s.begin
  .next (if s.live then s.startJoin else s)

/-- What the returned join flits say: 0 all agree, else JOIN_ERR (R519, R547). -/
def State.joinCheck (s : State) : Nat :=
  let ps := s.xch.joinGot.map (·.2)
  if sortBy (fun a b => decide (a < b)) (ps.map fun p => fld p 32 8) ≠ List.range s.groupSize
    || ps.any fun p => fld p 40 8 ≠ s.groupSize then 2
  else if ps.any fun p => fld p 0 32 ≠ s.ixId.toNat then 3
  else 0

/-- JOIN_COMPLETE (R519, R520). -/
def execJoinComplete (s : State) : Host.Outcome State Fault Refusal :=
  let s := s.begin
  .next (
    if s.live && s.xch.joining && decide (s.groupSize ≤ s.xch.joinGot.length) then
      let e := s.joinCheck
      if e = 0 then
        let n := s.xch.joinGot.foldl (fun a x => max a (fld x.2 64 64)) s.tick.count
        (s.updXch fun x => { x with st := 2, joining := false }).updTick fun t => { t with count := n }
      else s.updXch fun x => { x with st := 1, joinErr := e, joining := false }
    else s)

/-- JOIN_TIMEOUT (R519). -/
def execJoinTimeout (s : State) : Host.Outcome State Fault Refusal :=
  let s := s.begin
  .next (if s.live && s.xch.joining then s.updXch fun x => { x with st := 1, joinErr := 1, joining := false } else s)

/-- Place a returned flit (R102, R516, R517). -/
def State.placeFlit (s : State) (tag : FlitTag) (payload : Payload) : State :=
  let kind := tagKind tag
  let src := xchSrc tag
  let f := xchFidx tag
  if kind = 0x24 then
    if s.xch.joining && !s.xch.joinGot.any (fun x => x.1 = src) then
      s.updXch fun x => { x with joinGot := x.joinGot ++ [(src, payload)] }
    else s.setErr .xchSeq
  else if xchStamp tag ≠ s.tick32 then s.setErr .xchSeq
  else if kind = 0x23 then
    if s.digest.sent.isSome && decide (src < s.groupSize) && !s.digest.flits.any (fun x => x.1 = src) then
      { s with digest := { s.digest with flits := s.digest.flits ++ [(src, payload)] } }
    else s.setErr .xchSeq
  else
    match s.tick.cons.find? fun c => c.plan.num = xchConsign tag && c.sent && (!c.ended || c.left) && !c.done with
    | none => s.setErr .xchSeq
    | some c =>
      let key := if kind = 0x22 then src else 0
      if c.kind = kind && decide (f < c.plan.len) && (kind = 0x21 || decide (src < s.groupSize))
          && !c.got.any (fun g => g.1 = key && g.2.1 = f) then
        s.updCons c.plan.num fun c => { c with got := c.got ++ [(key, f, payload)] }
      else s.setErr .xchSeq

/-- XCH_RETURNED_FLIT: with a lost partner no consignment is awaited, and every flit is discarded under R102 (R524). -/
def execXchReturnedFlit (tag : FlitTag) (payload : Payload) (s : State) : Host.Outcome State Fault Refusal :=
  let s := s.begin
  .next (if !s.live then s else
    (s.takeRx 4 fun f => f.tag = tag && f.payload = payload).placeFlit tag payload)

/-- CONSIGNMENT_COMPLETE (R104, R517). -/
def execConsignmentComplete (num : Nat) (s : State) : Host.Outcome State Fault Refusal :=
  let s := s.begin
  .next (if !s.live then s else
    match s.tick.cons.find? fun c => c.plan.num = num && c.sent && (!c.ended || c.left) && !c.done with
    | some c => if c.got.length = s.consNeed c then s.updCons num fun c => { c with done := true } else s
    | none => s)

/-- DIGEST_COMPARE (R418, R419). -/
def execDigestCompare (s : State) : Host.Outcome State Fault Refusal :=
  let s := s.begin
  .next (if !s.live then s else
    match s.digest.sent with
    | none => s
    | some own =>
      if s.digest.flits.length = s.groupSize then
        let diff := s.digest.flits.foldl (fun a x => a ||| digestDiff own x.2) 0
        let s := { s with digest := { s.digest with sent := none, compared := s.digest.flits } }
        if diff = 0 then s else s.groupMismatch diff
      else s)

end Sys2Proof.Machine
end

