-- ==== Sys2Proof/Machine/Junction.lean ====
section
/-! DEFINITION. The junction (R172 to R195): reduced scores, ranking, gate weights, hash routing, placement with siding and
drops, routing records, and exit decisions. -/
namespace Sys2Proof.Machine
open Sys2Proof

/-- A word of the adapter space. -/
def State.adWord (s : State) (a : Nat) : Word := BitVec.ofNat 32 (leNat (memGetAll s.adMem a 4))

/-- BIAS_e of a routing point: the bias wagon follows the router (R207, R210). -/
def State.biasOf (s : State) (d : Dir) (c : Copy) (p : Part) (e : Nat) : Word :=
  s.adWord (wagonAt d.slot c (p.first + p.aW) + 4 * e)

/-- A finite binary32 in every position. -/
def allFinite (ws : List Word) : Bool := ws.all fpFinite

/-- Indices ranked by descending value, ties to the lower index; +0 and −0 are equal (R175). -/
def rankBy (ws : List Word) : List Nat :=
  (sortBy (fun (a b : Nat × Word) => fpLt b.2 a.2) (ws.zipIdx.map fun x => (x.2, x.1))).map (·.1)

/-- The 32-bit finaliser of R180. -/
def mix32 (z : Word) : Word :=
  let z := z ^^^ (z >>> 16)
  let z := z * 0x85EBCA6B
  let z := z ^^^ (z >>> 13)
  let z := z * 0xC2B2AE35
  z ^^^ (z >>> 16)

/-- h of R180. -/
def hashScore (token : Word) (e : Nat) (salt : Word) (layerSalt : Bool) (layer stop : Nat) : Word :=
  let t : Word := if layerSalt then (((BitVec.ofNat 32 layer) <<< 3) ||| BitVec.ofNat 32 stop) <<< 16 else 0
  mix32 (token ^^^ salt ^^^ mix32 (BitVec.ofNat 32 e ^^^ t))

/-- Indices ranked by descending unsigned value, ties to the lower index (R180). -/
def rankHash (ws : List Word) : List Nat :=
  (sortBy (fun (a b : Nat × Word) => decide (b.2.toNat < a.2.toNat)) (ws.zipIdx.map fun x => (x.2, x.1))).map (·.1)

/-- Gate weights of every adapter-expert and W_tot (R177, R178). `ranked` are the scores' indices in order. -/
def gateWeights (route : Word) (sc : List Word) (ranked : List Nat) : List Word × Word :=
  let k := rtK route
  let at_ (xs : List Word) (i : Nat) : Word := xs.getD i 0
  let smax := at_ sc (ranked.getD 0 0)
  let xs := sc.map fun v => expWord (fpSub v smax)
  let sumOver (ys : List Word) (idx : List Nat) : Word := idx.foldl (fun a i => fpAdd a (at_ ys i)) 0
  if rtGate route = 0 then
    let d := sumOver xs (ranked.take k)
    (xs.map fun x => fpDiv x d, fpOne)
  else
    let ws := if rtGate route = 1 then
        let d := sumOver xs (List.range sc.length)
        xs.map fun x => fpDiv x d
      else sc.map fun v => fpDiv fpOne (fpAdd fpOne (expWord (fpNeg v)))
    (ws, if rtNorm route then fpOne else sumOver ws (ranked.take k))

/-- Outcome of one choice: outcome code, original choice, adapter-expert placed. -/
structure Placed where
  outcome : Nat            -- 0 PLACED, 1 SIDED, 2 DROPPED
  choice  : Nat
  final   : Option Nat
  deriving DecidableEq, Repr

/-- The siding: the first candidate from `cursor` below `limit` with room, and the cursor after it (R183, R184). -/
def siding (free : Nat → Bool) (order : List Nat) (limit : Nat) : Nat → Nat → Option Nat × Nat
  | 0, cursor => (none, cursor)
  | f + 1, cursor =>
    if limit ≤ cursor then (none, cursor)
    else
      let c := order.getD cursor 0
      if free c then (some c, cursor + 1) else siding free order limit f (cursor + 1)

/-- Place the choices of one row, in slot order: `fill` counts what each adapter-expert holds (R183). -/
def placeRow (cap : Nat → Nat) (order : List Nat) (limit : Nat) : List Nat → Nat → List Nat → List Placed × List Nat
  | [], _, fill => ([], fill)
  | e :: es, cursor, fill =>
    let room (f : List Nat) (i : Nat) : Bool := decide (f.getD i 0 < cap i)
    if room fill e then
      let r := placeRow cap order limit es cursor (setAt fill e (fill.getD e 0 + 1))
      (⟨0, e, some e⟩ :: r.1, r.2)
    else
      let sd := siding (room fill) order limit limit cursor
      match sd.1 with
      | some c =>
        let r := placeRow cap order limit es sd.2 (setAt fill c (fill.getD c 0 + 1))
        (⟨1, e, some c⟩ :: r.1, r.2)
      | none =>
        let r := placeRow cap order limit es sd.2 fill
        (⟨2, e, none⟩ :: r.1, r.2)

/-- Final weights of a row's placed choices (R185). -/
def renorm (ws : List Word) (wtot : Word) (ps : List Placed) : List Word :=
  let placed := ps.filterMap (·.final)
  let p := placed.foldl (fun a e => fpAdd a (ws.getD e 0)) 0
  ps.map fun x => match x.final with
    | none => 0
    | some e => if fpZero p then fpDiv wtot (fpOfNat placed.length) else fpDiv (fpMul (ws.getD e 0) wtot) p

/-- Row-group size of pass 0 of a stop (R97, R98). -/
def State.groupSizeOf (s : State) (stop : Nat) : Nat :=
  ((s.tick.cons.find? fun c => c.plan.stop = stop && c.plan.pass = 0).map (·.plan.size)).getD 1024

/-- The score consignment of a row group. -/
def State.scoreCons (s : State) (stop group : Nat) : Option Consign :=
  s.tick.cons.find? fun c => c.plan.stop = stop && c.plan.kind = 1 && c.plan.group = group

/-- Capacity of adapter-expert e of a tenant at a stop: 0 for a removed segment (R128, R181, R182). -/
def capAt (x : Stop) (tenant e : Nat) : Nat :=
  (((x.plan.passes.flatMap id).find? fun g => g.routed && g.tenant = tenant && g.expert = e).map (·.cap)).getD 0

/-- Placements already made on the adapter-experts of a tenant at a stop. -/
def State.fillOf (s : State) (stop tenant e : Nat) : List Nat :=
  (List.range e).map fun i =>
    s.tick.recs.foldl (fun a r => if r.stop = stop && r.tenant = tenant then a + (r.final.filter (· = 128 + i)).length else a) 0

/-- Add planned visits of an object by a row (R283). -/
def State.addVisit (s : State) (line : Nat) (h : Word) (row : Nat) : State :=
  s.updLine line fun l => if l.visits.contains (h, row) then l else { l with visits := l.visits ++ [(h, row)] }

/-- A row whose choices are all dropped without a ranking (R174, R176, R190). -/
def droppedRec (stop row mode k tenant : Nat) (nonfin probed : Bool) : RouteRec :=
  ⟨stop, row, nonfin, probed, false, mode, k, (List.range 4).map fun j => if j < k then 0x80 else 0xC0, [0, 0, 0, 0], 0, tenant,
    [0, 0, 0, 0]⟩

/-- Place one routing row of a stop (R183): its place `off` in the score consignment, when it has one. -/
def State.placeOne (s : State) (x : Stop) (score : Option (Consign × Nat)) (row slot : Nat) : State :=
  match s.dirAt slot with
  | none => s
  | some d =>
    match d.copyAt s.tick.count with
    | none => s
    | some c =>
      let h := s.curHdr
      let route := c.route
      let e := rtE route
      let k := rtK route
      let probed := x.plan.probe.contains row
      let drop (nonfin : Bool) : State :=
        ((s.count .routeDrop k).updTick fun t => { t with
          dropped := t.dropped + k
          recs := t.recs ++ [s.judgedRec x (droppedRec x.stop row (rtMode route) k d.tenant nonfin probed)] })
      let zs : List Word := match score with
        | some (cons, off) => (List.range e).map fun i => cons.word 0 (off + i)
        | none => List.replicate e 0
      if rtMode route = 1 && (x.plan.noScore.contains d.tenant || score.isNone) then drop false
      else if rtMode route = 1 && !allFinite zs then drop true
      else
        let p := (s.routerAt c h.layer x.stop).getD ⟨0, 0, 0, 0, 0, 0, 0, 0, 0, 0, 0, 0, true⟩
        let sc := if rtMode route = 1 then zs.zipIdx.map fun z => fpAdd z.1 (s.biasOf d c p z.2) else []
        let order := if rtMode route = 1 then rankBy sc
          else rankHash ((List.range e).map fun i => hashScore (s.tokenOf h.line row) i c.salt (rtSalt route) h.layer x.stop)
        let w := if rtMode route = 1 then gateWeights route sc order
          else (List.replicate e (fpDiv fpOne (fpOfNat k)), fpOne)
        let limit := min e (k + rtSiding route)
        let r := placeRow (capAt x d.tenant) order limit (order.take k) k (s.fillOf x.stop d.tenant e)
        let g := renorm w.1 w.2 r.1
        let sided := (r.1.filter fun y => y.outcome = 1).length
        let drops := (r.1.filter fun y => y.outcome = 2).length
        let rec_ : RouteRec := s.judgedRec x ⟨x.stop, row, false, probed, false, rtMode route, k,
          (List.range 4).map fun j => match r.1[j]? with | some y => 64 * y.outcome + y.choice | none => 0xC0,
          (List.range 4).map fun j => match r.1[j]? with
            | some y => (match y.final with | some f => 128 + f | none => 0) | none => 0,
          0, d.tenant, (List.range 4).map fun j => g.getD j 0⟩
        let s := (s.count .siding sided).count .routeDrop drops
        let s := s.updTick fun t => { t with
          sided := t.sided + sided, dropped := t.dropped + drops, recs := t.recs ++ [rec_] }
        if r.1.any fun y => y.final.isSome then s.addVisit h.line d.handle row else s

/-! Exit decisions (R192 to R195). -/

/-- The confidence of one probe row from its reduced vector (R193). -/
def probeConf (qs us : List Word) (b : Word) : Word :=
  let dot := (qs.zip us).foldl (fun a x => fpAdd a (fpMul x.1 x.2)) 0
  fpDiv fpOne (fpAdd fpOne (expWord (fpNeg (fpAdd dot b))))

/-- Confidences of the probe rows of a group, then the requests of which every probe row at the stop exceeds the threshold; a late row
has no confidence, so its request does not exit (R193, assumption log 96). -/
def State.exitDecision (s : State) (x : Stop) (size group base : Nat) (c : Consign) : State :=
  match x.plan.exitPt with
  | none => s
  | some p =>
    let h := s.curHdr
    match s.resolveKind (s.exitHandle h.line p) s.tick.count 2 with
    | none => s
    | some (d, cp) =>
      match cp.parts.head? with
      | none => s
      | some q =>
        let rp := 8 * (q.rank8 + 1)
        let qb := wagonAt d.slot cp (q.first + q.aW)
        let qs := (List.range rp).map fun i => s.adWord (qb + 4 * i)
        let b := s.adWord (qb + 4 * rp)
        let rows := x.plan.probe.filter fun r => r / max 1 size = group && !x.plan.gone.contains r
        let confs := rows.zipIdx.map fun r =>
          (r.1, probeConf qs ((List.range rp).map fun i => c.word 0 (base + r.2 * rp + i)) b)
        let s := s.updStop x.stop fun y => { y with confs := y.confs ++ confs, judged := y.judged ++ [group] }
        let all := x.confs ++ confs
        let thresh := ofBf16 (BitVec.ofNat 16 (fld (s.exitCtl h.line p) 0 16))
        let owner (r : Nat) : Option Nat := (s.rowOwner r).map (·.slot)
        let slots := sortNat (rows.filterMap owner)
        let exits := slots.filter fun sl =>
          let mine := x.plan.probe.filter fun r => owner r = some sl
          mine.all fun r => match all.find? fun z => z.1 = r with | some z => fpLt thresh z.2 | none => false
        let s := s.updStop x.stop fun y => { y with exits := y.exits ++ exits.filter fun e => !y.exits.contains e }
        match s.stopAt x.stop with
        | some y => s.updTick fun t => { t with recs := t.recs.map fun r => if r.stop ≠ x.stop then r else s.judgedRec y r }
        | none => s

/-- The places of a group's learned rows in its score consignment, and the place of its probe rows after them (R172). -/
def scoreLayout (x : Stop) (size group : Nat) : List ((Nat × Nat × Nat) × Nat) × Nat :=
  let learned := x.plan.learned.filter fun r => r.1 / max 1 size = group
  (offsets (fun r : Nat × Nat × Nat => r.2.2) 0 learned, learned.foldl (fun a r => a + r.2.2) 0)

/-- The routing rows of a row group are placed, in the order of R183. -/
def State.placeRows (s : State) (x : Stop) (size group : Nat) (cons : Option Consign) : State :=
  let offs := (scoreLayout x size group).1
  let mine := x.plan.routing.filter fun r => r.1 / max 1 size = group && !x.plan.late.contains r.1
  let key (r : Nat) : List Nat := match s.rowOwner r with | some q => workKey q.prio q.deadline r | none => [16, 1, 0, r]
  let order := (sortBy (fun a b => keyLt a.1 b.1) (mine.map fun r => (key r.1, r))).map (·.2)
  let s := order.foldl (fun s r =>
    let off := (offs.find? fun o => o.1.1 = r.1).map (·.2)
    s.placeOne x (match cons, off with | some c, some o => some (c, o) | _, _ => none) r.1 r.2) s
  (s.updStop x.stop fun y => { y with placed := y.placed ++ [group] }).markEnded

/-- What the junction does for a row group of a stop: it places its routing rows, in ascending manifest order, those with learned
scores once their score consignment is complete (R183, R187), and it judges its probe rows once that is (R193). While the exchange is
lost it places nothing (R524). -/
def State.placeGroup (s : State) (stop group : Nat) : State :=
  match s.stopAt stop with
  | none => s
  | some x =>
    let size := s.groupSizeOf stop
    let inGroup (r : Nat) : Bool := r / max 1 size = group
    let cons := s.scoreCons stop group
    let back := match cons with | some c => c.done && !c.ended | none => false
    let earlier := x.plan.routing.any fun r => decide (r.1 / max 1 size < group) && !x.placed.contains (r.1 / max 1 size)
    if s.curHdr.kind ≠ 1 || x.ended || s.exchangeLost then s else
    let s := if (x.plan.routing.any fun r => inGroup r.1) && !x.placed.contains group && !earlier
        && (back || !x.plan.learned.any fun r => inGroup r.1) then (s.placeRows x size group cons).failLate else s
    match s.stopAt stop, cons with
    | some y, some c =>
      if back && (y.plan.probe.any inGroup) && !y.judged.contains group then s.exitDecision y size group (scoreLayout x size group).2 c else s
    | _, _ => s

/-- ROUTING_PLACEMENT. -/
def execRoutingPlacement (stop group : Nat) (s : State) : Host.Outcome State Fault Refusal :=
  let s := s.begin
  .next (if s.live then s.placeGroup stop group else s)

end Sys2Proof.Machine
end

