-- ==== Sys2Proof/Machine/Heads.lean ====
section
/-! DEFINITION. The head stop (R354 to R385): verification length, the decision with its generator, holds, token records, result
records and the token interrupt. -/
namespace Sys2Proof.Machine
open Sys2Proof

/-! The generator (R372). -/

/-- uniform(SEED, p): word 0 shifted right by 8, times 2^−24. -/
def uniform (seed : DWord) (p : Nat) : Word :=
  let w := philox 10 (BitVec.ofNat 32 seed.toNat) (BitVec.ofNat 32 (seed.toNat / 2 ^ 32)) (BitVec.ofNat 32 p, 0, 0, 0)
  fpMul (fpOfNat (w.1.toNat / 256)) 0x33800000

/-! Verification length (R370). -/

/-- The head rows whose token in the EMBED tick is the draft they carry, from draft `j` on. -/
def State.matchDrafts (s : State) (line : Nat) : List Nat → List Word → Nat
  | r :: rs, d :: ds => if s.tokenOf line r = d then s.matchDrafts line rs ds + 1 else 0
  | _, _ => 0

/-- nr, and whether it was cut or rows were ignored (R370). -/
def State.nrOf (s : State) (line : Nat) (q : Req) (rows : List Nat) : Nat × Bool :=
  let n := min rows.length (1 + q.drafts.length)
  let k := 1 + s.matchDrafts line ((rows.take n).drop 1) q.drafts
  (min n k, decide (n < rows.length) || decide (k < n))

/-! The gather records (R369). -/

/-- Word w of member b's gather record for a host row. -/
def gatherWord (c : Consign) (x : Stop) (row b w : Nat) : Word :=
  let k := ((headGroup x c.plan).takeWhile fun r => r != row).length
  c.word b (144 * k + w)

/-- The gather consignment of a host row's group. -/
def State.gatherOf (s : State) (x : Stop) (row : Nat) : Option Consign :=
  s.tick.cons.find? fun c => c.plan.kind = 2 && c.plan.stop = x.stop && row / max 1 c.plan.size = c.plan.group

/-- The gather of a row has returned in full. -/
def State.gathered (s : State) (x : Stop) (row : Nat) : Bool :=
  match s.gatherOf x row with | some c => c.done && !c.ended | none => false

/-- LATE in some member's record of a row. -/
def State.lateIn (s : State) (x : Stop) (row : Nat) : Bool :=
  match s.gatherOf x row with
  | some c => (List.range s.groupSize).any fun b => fld (gatherWord c x row b 138) 15 1 = 1
  | none => true

/-- NO_ROOM in position 0's record of a row. -/
def State.noRoomIn (s : State) (x : Stop) (row : Nat) : Bool :=
  match s.gatherOf x row with
  | some c => fld (gatherWord c x row 0 138) 14 1 = 1
  | none => false

/-- The union of all members' candidates for a row, in order: value descending, then token ascending; the first 64 (R371). -/
def State.candidates (s : State) (x : Stop) (row : Nat) : List (Word × Word) :=
  match s.gatherOf x row with
  | none => []
  | some c =>
    let all := (List.range s.groupSize).flatMap fun b =>
      (List.range 64).map fun k => (gatherWord c x row b (2 * k), gatherWord c x row b (2 * k + 1))
    (sortBy (fun (a b : Word × Word) => fpLt b.1 a.1 || (!fpLt a.1 b.1 && decide (a.2.toNat < b.2.toNat))) all).take 64

/-- M_LOCAL and S_LOCAL of every member for a row, in group position. -/
def State.normTerms (s : State) (x : Stop) (row : Nat) : List (Word × Word) :=
  match s.gatherOf x row with
  | none => []
  | some c => (List.range s.groupSize).map fun b => (gatherWord c x row b 128, gatherWord c x row b 129)

/-- The draft candidate of part d for a row: the greatest logit, ties to the lower token id (R374). -/
def State.specOf (s : State) (x : Stop) (row d : Nat) : Word :=
  match s.gatherOf x row with
  | none => 0xFFFFFFFF
  | some c =>
    let all := (List.range s.groupSize).map fun b =>
      (gatherWord c x row b (130 + 2 * d), gatherWord c x row b (131 + 2 * d))
    ((all.foldl (fun (a : Option (Word × Word)) v => match a with
      | none => some v
      | some u => if fpLt u.1 v.1 || (!fpLt v.1 u.1 && decide (v.2.toNat < u.2.toNat)) then some v else a) none).map (·.2)).getD 0xFFFFFFFF

/-! The decision (R371). -/

/-- The first place, from `k` on, at which the running sum reaches the bound `p`, and the count kept (TOP_P). -/
def nucleus (p : Word) : List Word → Word → Nat → Nat
  | [], _, k => k
  | v :: vs, cum, k => let c := fpAdd cum v; if fpLe p c then k + 1 else nucleus p vs c (k + 1)

/-- Drop weak candidates from the end while more than one is left (MIN_P). -/
def dropWeak (minP : Word) (w : Nat → Word) : Nat → Nat
  | 0 => 0
  | n + 1 => if 1 < n + 1 ∧ fpLt (w n) minP then dropWeak minP w n else n + 1

/-- The candidate at which the running weight passes `t`; the last when none does. -/
def drawAt (t : Word) : List Word → Word → Nat → Nat
  | [], _, k => k - 1
  | v :: vs, acc, k => let a := fpAdd acc v; if fpLt t a then k else drawAt t vs a (k + 1)

/-- y of R371: the candidate chosen. -/
def chooseOf (p : Sampling) (cs : List (Word × Word)) (m z : Word) (position : Nat) : Nat :=
  if fpZero p.temp then 0 else
  let v (k : Nat) : Word := (cs.getD k (fpNegInf, 0)).1
  let nf := (cs.filter fun c => fpLt fpNegInf c.1).length
  let n0 := min (if p.topK = 0 then 64 else p.topK) nf
  let n1 := nucleus p.topP ((List.range n0).map fun k => fpDiv (expWord (fpSub (v k) m)) z) 0 0
  let wt (k : Nat) : Word := expWord (fpSub (v k) (v 0))
  let n := dropWeak p.minP wt n1
  let ws := (List.range n).map wt
  let total := ws.foldl fpAdd 0
  drawAt (fpMul (uniform p.seed position) total) ws 0 0

/-- What one request's procedure gives. -/
structure HeadOut where
  out    : List (Word × BitVec 16 × Bool)   -- token, PROB, DRAFT
  fin    : Bool                             -- END
  masked : Bool
  last   : Nat                              -- final_row
  tried  : Nat                              -- drafts verified
  deriving DecidableEq, Repr

/-- The loop of R371 over the head rows still to verify: j, the rows from j on, the drafts from j + 1 on that count. -/
def State.sampleRows (s : State) (x : Stop) (q : Req) (p : Sampling) : Nat → List Nat → List Word → HeadOut
  | _, [], _ => ⟨[], false, false, 0, 0⟩
  | j, row :: rows, drafts =>
    let cs := s.candidates x row
    let ns := s.normTerms x row
    let m := ns.foldl (fun a n => if fpLt a n.1 then n.1 else a) fpNegInf
    if m = fpNegInf then ⟨[], true, true, j, 0⟩ else
    let z := ns.foldl (fun a n => fpAdd a (fpMul n.2 (expWord (fpSub n.1 m)))) 0
    let c := cs.getD (chooseOf p cs m z (q.pos + j)) (fpNegInf, 0xFFFFFFFF)
    let prob := toBf16 (fpDiv (expWord (fpSub c.1 m)) z)
    let tried := match drafts with | [] => 0 | _ :: _ => 1
    let hit := match drafts with | d :: _ => c.2 = d | [] => false
    let fin := c.2 = p.eos && p.eos != 0xFFFFFFFF || decide (q.promptLen + q.maxGen ≤ q.pos + j + 1)
    if fin || !hit then ⟨[(c.2, prob, hit)], fin, false, j, tried⟩ else
    let r := s.sampleRows x q p (j + 1) rows (drafts.drop 1)
    { r with out := (c.2, prob, hit) :: r.out, tried := r.tried + tried }

/-- The token records of an outcome (R381). -/
def State.tokRecs (s : State) (q : Req) (o : HeadOut) (exited : Bool) : List TokRec :=
  let n := o.out.length
  let toks := o.out.zipIdx.map fun (y : (Word × BitVec 16 × Bool) × Nat) =>
    let last := decide (y.2 + 1 = n) && !o.masked
    (⟨y.1.1, s.tick32, q.tag, last, y.1.2.2, last && o.fin, exited, false, 0, y.1.2.1⟩ : TokRec)
  if o.masked then toks ++ [⟨0xFFFFFFFF, s.tick32, q.tag, true, false, true, exited, true, 0, 0⟩] else toks

/-- Write an outcome's records to the request's ring, from the block at group position 0 (R379, R383). -/
def State.writeTokens (s : State) (q : Req) (recs : List TokRec) : State :=
  if s.pos ≠ 0 then s else
  let since := q.sinceIrq + recs.length
  let want := irqWanted ⟨q.prod, q.cons, q.irqMode, q.irqN⟩ since recs
  let s := s.writeRing q.slot q.ringBase.toNat q.ringLog2 q.prod recs
  let s := s.updReq q.slot fun r => { r with
    prod := r.prod + BitVec.ofNat 32 recs.length, sinceIrq := if want then 0 else since }
  s.updTick fun t => { t with tokWant := t.tokWant || want }

/-- A request is held (R376): its head rows are late; a result record with HELD is emitted when its gather returned (R377). -/
def State.holdReq (s : State) (x : Stop) (slot : Nat) (rows : List Nat) (record noRoom dseq : Bool) : State :=
  match s.reqAt slot with
  | none => s
  | some q =>
    let s := s.setReq { q with held := true }
    let s := s.updStop x.stop fun y => { y with late := sortNat (y.late ++ rows) }
    let s := if noRoom then s.count .ringFull 1 else s
    let s := s.updTick fun t => { t with
      decided := t.decided ++ [slot], undo := t.undo ++ [q], heldReq := t.heldReq + 1 }
    if record then
      let r : ResRec := ⟨rows.getD 0 0, q.tag, q.pos, [], [], false, false, reached s.tick.count q.exitAt, true, noRoom, dseq⟩
      { s with results := s.results ++ [r] }
    else s

/-- The outcome of a request is applied (R375, R378, R383, R394). -/
def State.applyOut (s : State) (x : Stop) (q : Req) (rows : List Nat) (dseq : Bool) (o : HeadOut) : State :=
  let sp := s.headSamp q
  let toks := o.out.map (·.1)
  let hits := (o.out.filter fun (y : Word × BitVec 16 × Bool) => y.2.2).length
  let exited := reached s.tick.count q.exitAt
  let row := rows.getD o.last 0
  let drafts := if o.fin then [] else (List.range (min sp.1.drafts sp.2)).map fun d => s.specOf x row d
  let q' : Req := { q with
    st := .decode
    held := false
    pos := q.pos + toks.length
    hist := (q.hist ++ toks).drop (q.hist.length + toks.length - 64)
    drafts := drafts
    lastTok := toks.getLastD q.lastTok
    endP := q.endP || o.fin }
  let r : ResRec := ⟨rows.getD 0 0, q.tag, q.pos, o.out, drafts, o.fin, o.masked, exited, false, false, dseq⟩
  let s := (((s.setReq q').count .draftAccepted hits).count .draftRejected (o.tried - hits)).count .maskedOut (b2n o.masked)
  let s := s.writeTokens q' (s.tokRecs q o exited)
  let s := s.updTick fun t => { t with
    decided := t.decided ++ [q.slot], undo := t.undo ++ [q], tokens := t.tokens + toks.length
    accepted := t.accepted + hits, verified := t.verified + o.tried }
  { s with results := s.results ++ [r] }

/-- Decide one request (R370 to R376). Where a gather of it did not return it is held without a result record (R377, R524). -/
def State.decideReq (s : State) (x : Stop) (h : Nat × List Nat) : State :=
  match s.reqAt h.1 with
  | none => s
  | some q =>
    if s.tick.decided.contains h.1 then s
    else if !h.2.all (s.gathered x) then s.holdReq x h.1 h.2 false false false
    else
      let nr := s.nrOf s.curHdr.line q h.2
      let s := s.errIf nr.2 .draftSeq
      let noRoom := h.2.any (s.noRoomIn x)
      if noRoom || h.2.any (s.lateIn x) then s.holdReq x h.1 h.2 true noRoom nr.2
      else
        let p := (s.headSamp q).1
        s.applyOut x q h.2 nr.2 (s.sampleRows x q p 0 (h.2.take nr.1) (q.drafts.take (nr.1 - 1)))

/-! Results (R378). -/

/-- The 64 bytes of a result record. -/
def ResRec.bytes (r : ResRec) : List Byte :=
  leBytes 2 r.row ++ leBytes 1 r.out.length ++ leBytes 1 r.drafts.length
  ++ leBytes 1 (b2n r.fin + 2 * b2n r.masked + 4 * b2n r.exited + 8 * b2n r.held + 16 * b2n r.full + 32 * b2n r.dseq)
  ++ leBytes 3 0 ++ leBytes 4 r.tag.toNat ++ leBytes 4 r.pos
  ++ (List.range 5).flatMap (fun k => leBytes 4 ((r.out.map fun (o : Word × BitVec 16 × Bool) => o.1).getD k 0xFFFFFFFF).toNat)
  ++ (List.range 4).flatMap (fun k => leBytes 4 (r.drafts.getD k 0xFFFFFFFF).toNat) ++ leBytes 12 0

/-- Emit the result records, four to a flit, on DOUT0 (R378, R510). -/
def State.emitResults (s : State) (stop : Nat) : State :=
  let bytes := (sortBy (fun (a b : ResRec) => decide (a.row < b.row)) s.results).flatMap ResRec.bytes
  let n := ceilDiv bytes.length 256
  let flits := (List.range n).map fun f =>
    (⟨payloadOf (bytes.drop (256 * f)), doutTag 0x14 f 0 stop s.curHdr.line (f + 1 = n) s.tick32⟩ : Flit)
  let s := s.send 2 flits
  { s with digest := { s.digest with results := some bytes }, results := [] }

/-- Every request with head rows has been decided or held. -/
def State.headsDecided (s : State) (x : Stop) : Bool := (s.headReqs x).all fun h => s.tick.decided.contains h.1

/-- The head stop ends once its ingress is closed and every request is decided (R378, R383, R614). -/
def State.finishHead (s : State) : State :=
  match s.stopAt 0 with
  | none => s
  | some x =>
    if s.curHdr.kind ≠ 2 || x.ended || x.ingress || !s.headsDecided x then s else
    (s.emitResults 0).endStop 0 true false

/-- Hold every request of the line that has head rows, with no result record (R21, R40, R376). -/
def State.holdAll (s : State) (rows : List Nat) : State :=
  let slots := sortNat (rows.filterMap fun i => (s.rowOwner i).map (·.slot))
  slots.foldl (fun s sl => (s.updReq sl fun r => { r with held := true }).updTick fun t => { t with
    heldReq := t.heldReq + 1, decided := t.decided ++ [sl] }) s

/-- The lenient end of a HEAD tick: requests whose gathers have returned are decided, the others held. The model does this at the edge that
ends the tick, before the new tick's TICK_ACK, where R377 has it run after that (assumption log 110). -/
def State.endHeads (s : State) : State :=
  match s.stopAt 0 with
  | none => s
  | some x =>
    let s := (s.headReqs x).foldl (fun s h => s.decideReq x h) s
    (s.updStop 0 fun y => { y with ingress := false }).finishHead

/-- HEAD_DECISION for a row group whose gather has returned or been ended. -/
def State.decideGroup (s : State) (group : Nat) : State :=
  match s.stopAt 0 with
  | none => s
  | some x =>
    let came (row : Nat) : Bool := match s.gatherOf x row with | some c => c.done || c.ended | none => true
    let mine := (s.headReqs x).filter fun h =>
      h.2.all came && h.2.any fun r => match s.gatherOf x r with | some c => c.plan.group = group | none => true
    if s.curHdr.kind ≠ 2 || x.ended || s.standing then s
    else ((mine.foldl (fun s h => s.decideReq x h) s).updStop 0 fun y => { y with placed := y.placed ++ [group] }).finishHead

/-- Read the ring headers of a HEAD tick (R382): a header that did not come is a failed read and leaves its ring without room (R531). No
header is read while a write of a PROD to one of the rings is outstanding (R529). -/
def State.readHeaders (s : State) (hdrs : List (Nat × DescBytes)) : State :=
  if s.curHdr.kind ≠ 2 || s.pos ≠ 0 then s else
  let one (s : State) (h : Nat × List Nat) : State :=
    match s.reqAt h.1, hdrs.find? fun y => y.1 = h.1 with
    | some q, some hb =>
      let r := ringHdrOf hb.2
      let nr := (s.nrOf s.curHdr.line q h.2).1
      (s.errIf (r.bad q.ringLog2) .ringPtr).setReq { q with
        noRoom := !r.room q.ringLog2 (nr + 1), prod := r.prod, cons := r.cons, irqMode := r.mode, irqN := r.irqN }
    | some q, none => ((s.setReq { q with noRoom := true }).setErr .fmErr).count .fmErr 1
    | none, _ => s
  match s.planOf 0 with
  | none => s
  | some p =>
    let hs := s.headReqs (p.fresh s.tick.count)
    if hs.any fun h => match s.reqAt h.1 with | some q => !s.headerMay q.ringBase.toNat | none => false then s else hs.foldl one s

/-- RING_HEADER_READ: headers by slot, of a HEAD tick's requests (R382), or of requests that have expired (R408). -/
def execRingHeaderRead (hdrs : List (Nat × DescBytes)) (s : State) : Host.Outcome State Fault Refusal :=
  let s := s.begin
  .next (if !s.live then s else
    let live := hdrs.filter fun h => (s.reqAt h.1).isSome
    let t := s.expiredTried hdrs
    if s.tick.active && (hdrs.isEmpty || !live.isEmpty) then t.readHeaders live else t)

/-- HEAD_DECISION. -/
def execHeadDecision (t group : Nat) (s : State) : Host.Outcome State Fault Refusal :=
  let s := s.begin
  .next (if s.live && s.tick.active then (s.advance t).decideGroup group else s)

/-- TOKEN_IRQ_HOLDOFF_EXPIRY: the deferred token interrupt is raised (R385). -/
def execTokenIrqHoldoffExpiry (s : State) : Host.Outcome State Fault Refusal :=
  let s := s.begin
  .next (if s.live && s.tokenDue then
    match s.tokenAt with
    | some t => ({ s.advance (t + s.rf 0x20C4 16 16 * 1300) with tokenDue := false } : State).raiseToken
    | none => ({ s with tokenDue := false } : State).raiseToken
  else s)

end Sys2Proof.Machine
end

