-- ==== Sys2Proof/Machine/Gather.lean ====
section
/-! DEFINITION. The embedding stop (R313 to R328) and the stored layout of tenant tables (R329 to R334): occurrences, coalescing,
the rows with a term, channel and band loads. -/
namespace Sys2Proof.Machine
open Sys2Proof

/-! Layout. -/

/-- Code bytes of a row in a region (R329). -/
def codeBytes (cols : Nat) (int4 : Bool) : Nat := if int4 then ceilDiv cols 2 else cols

/-- Rows of a table in a region. -/
def Copy.regionRows (c : Copy) (int4 : Bool) : Nat := (c.rows.filter fun r => r.int4 == int4).length

/-- Bytes of one slot of a region in the compact layout. -/
def compactSlot (cols n : Nat) (int4 : Bool) : Nat := n * roundUp (codeBytes cols int4) 64

/-- S_c from the column count, the rows of both regions and all rows (R329). -/
def compactSize (cols n8 n4 : Nat) : Nat :=
  256 + roundUp (16 * (n8 + n4)) 64 + 2 * (compactSlot cols n8 false + compactSlot cols n4 true)

/-- Depot channels (R333). -/
def Build.channels (b : Build) : Nat := b.trains * 16

/-- Smallest power of two that is at least `n`, from `w` on. -/
def pow2From : Nat → Nat → Nat → Nat
  | 0, w, _ => w
  | f + 1, w, n => if n ≤ w then w else pow2From f (2 * w) n

/-- The slice width w_g (R333). -/
def sliceWidth (b : Build) (cols : Nat) (int4 : Bool) : Nat := pow2From 16 1 (ceilDiv (codeBytes cols int4) b.channels)

/-- Rows of a band. -/
def bandRows (w : Nat) : Nat := if w ≤ 64 then 64 / w else 1

/-- R_ch (R334). -/
def splitRuns (b : Build) (cols n8 n4 : Nat) : Nat :=
  let h := roundUp (ceilDiv (n8 + n4) b.channels * 16) 64
  let p (n : Nat) (int4 : Bool) : Nat :=
    let w := sliceWidth b cols int4
    ceilDiv n (bandRows w) * 64 * max 1 (w / 64)
  ceilDiv (h + 2 * (p n8 false + p n4 true)) 69632

/-- S_s (R334). -/
def splitSize (b : Build) (cols n8 n4 : Nat) : Nat := 256 + b.channels * splitRuns b cols n8 n4 * 69632

/-- The enabled channels, ascending. -/
def State.channelsOn (s : State) : List Nat := (List.range s.clusters).filter s.clusterOn

/-- The channel that holds a channel's runs: itself, or the next enabled one upward, cyclically (R334). -/
def State.channelFor (s : State) (c : Nat) : Nat :=
  let on := s.channelsOn
  match on.find? fun x => decide (c ≤ x) with | some x => x | none => on.headD 0

/-- Channel of the block at a copy offset of a compact table: its run's place over the enabled channels (R240, R245). -/
def State.compactChannel (s : State) (slot : Nat) (c : Copy) (off : Nat) : Nat :=
  let a := regionBase slot c.regionB + 256 + (off - 256) / 69632 * 69632
  let on := s.channelsOn
  match s.tmap.find? fun r => r.addr = a with
  | some r => on.getD (r.loc.toNat % max 1 on.length) 0
  | none => 0

/-- The band of a table row; a compact table counts each row as a band (R333, R338). -/
def bandOf (b : Build) (c : Copy) (row : Nat) (r : TRow) : Nat :=
  if !c.split then row else
  let w := bandRows (sliceWidth b c.cols r.int4)
  r.regIdx / w + (if r.int4 then ceilDiv (c.regionRows false) (bandRows (sliceWidth b c.cols false)) else 0)

/-- Blocks that reading a compact row takes: its header block and the blocks of its active slot, as channels (R332). -/
def State.compactReads (s : State) (slot : Nat) (c : Copy) (row : Nat) (r : TRow) : List Nat :=
  let n8 := compactSlot c.cols (c.regionRows false) false
  let n4 := compactSlot c.cols (c.regionRows true) true
  let base := 256 + roundUp (16 * c.rows.length) 64
  let rec_ := roundUp (codeBytes c.cols r.int4) 64
  let area := if r.int4 then base + 2 * n8 + (if r.active then n4 else 0) else base + (if r.active then n8 else 0)
  let start := area + r.regIdx * rec_
  s.compactChannel slot c (256 + 16 * row) :: (List.range (rec_ / 64)).map fun i => s.compactChannel slot c (start + 64 * i)

/-- The header channel of a row of a split table. -/
def State.headerChannel (s : State) (row : Nat) : Nat := s.channelFor (row % s.build.channels)

/-! Occurrences. -/

/-- An occurrence: the table's slot and copy, and the row named. -/
structure Occ where
  slot   : Nat
  handle : Word
  row    : Nat
  deriving DecidableEq, Repr

/-- A row of the embedding stop that has arrived: host row, its entry. -/
def State.embedRows (s : State) (x : Stop) : List (Nat × BitVec 128) :=
  (x.plan.rows.zipIdx.filter fun r => s.rowIn 0 x r.2).map fun r => (r.1, x.embedRow r.2)

/-- A table that a row's request may read, for the current tick (R318). -/
def State.tableOf (s : State) (row : Nat) (bag : Bool) : Option (Dir × Copy) :=
  match s.rowOwner row with
  | none => none
  | some q => (s.resolveKind (if bag then q.bag else q.vocab) s.tick.count 3).filter fun y => mayUse q.tenant y

/-- The vocabulary lookup of a row: none when none applies, else the table row (R319). -/
def State.vocabRow (s : State) (e : BitVec 128) : Option Nat :=
  let base := (s.reg 0x40A8).toNat
  if rowToken e ≠ 0xFFFFFFFF ∧ base ≤ (rowToken e).toNat then some ((rowToken e).toNat - base) else none

/-- The entries of a bag: table row, or none past the limit (R316, R320). -/
def Stop.bagEntries (x : Stop) (e : BitVec 128) : List (Option Nat) :=
  (List.range (rowBagLen e)).map fun i =>
    let j := rowBagOff e + i
    if j < x.indices then some (x.indexAt x.plan.rows.length j) else none

/-- Occurrences of a list of named rows in a resolved table: the valid ones, and how many are invalid (R321). A poisoned table
gives no valid one (R351, assumption log 52). -/
def occurrences (t : Option (Dir × Copy)) (idx : List (Option Nat)) : List Occ × Nat :=
  match t with
  | none => ([], idx.length)
  | some (d, c) =>
    let ok := idx.filterMap fun i => match i with
      | some r => if r < c.rows.length then some (⟨d.slot, d.handle, r⟩ : Occ) else none
      | none => none
    (if d.poisoned then [] else ok, idx.length - ok.length)

/-- The key of a span (R325): the bag table's slot, offset, length, mean. -/
def spanKey (t : Option (Dir × Copy)) (e : BitVec 128) : List Nat :=
  [match t with | some y => y.1.slot + 1 | none => 0, rowBagOff e, rowBagLen e, b2n (rowMean e)]

/-- Keep the first element of each key. -/
def firstOf {α : Type} (key : α → List Nat) : List (List Nat) → List α → List α
  | _, [] => []
  | seen, a :: as => if seen.contains (key a) then firstOf key seen as else a :: firstOf key (key a :: seen) as

/-- Distinct occurrences with their multiplicities, in ascending order of slot and row. -/
def multiset (os : List Occ) : List (Occ × Nat) :=
  let sorted := sortBy (fun (a b : Occ) => keyLt [a.slot, a.row] [b.slot, b.row]) os
  let go (o : Occ) (acc : List (Occ × Nat)) : List (Occ × Nat) :=
    match acc with
    | (p, n) :: r => if p.slot = o.slot ∧ p.row = o.row then (p, n + 1) :: r else (o, 1) :: acc
    | [] => [(o, 1)]
  sorted.foldr go []

/-- A row is in the platform cache and valid there (R339). -/
def State.cachedRow (s : State) (o : Occ) : Bool :=
  s.cache.any fun c => c.handle = o.handle && c.valid && (c.row = none || c.row = some o.row)
  && !s.cache.any fun c => c.handle = o.handle && c.row = some o.row && !c.valid

/-- Add to a keyed tally. -/
def tally (xs : List (Nat × Nat)) (k n : Nat) : List (Nat × Nat) :=
  match xs.find? fun x => x.1 = k with
  | some x => putKey (·.1) (k, x.2 + n) xs
  | none => putKey (·.1) (k, n) xs

/-- Block reads of the distinct rows fetched from the depot, as channels: compact rows one by one; split rows share the block of
their band on each channel and the block of four header entries (R333, R338). -/
def State.gatherReads (s : State) (rows : List (Occ × Nat)) : List Nat :=
  let rowOf (o : Occ) : Option (Copy × TRow) :=
    match s.dirAt o.slot with
    | some d => match d.copyAt s.tick.count with | some c => (c.rows[o.row]?).map fun r => (c, r) | none => none
    | none => none
  let compact := rows.flatMap fun o => match rowOf o.1 with
    | some (c, r) => if c.split then [] else s.compactReads o.1.slot c o.1.row r
    | none => []
  let heads := firstOf id [] (rows.filterMap fun o => match rowOf o.1 with
    | some (c, _) => if c.split then some [o.1.slot, o.1.row % s.build.channels, o.1.row / s.build.channels / 4] else none
    | none => none)
  let bands := firstOf (fun (y : List Nat × Nat × Nat) => y.1) [] (rows.filterMap fun o => match rowOf o.1 with
    | some (c, r) =>
      if c.split then
        let w := sliceWidth s.build c.cols r.int4
        some ([o.1.slot, bandOf s.build c o.1.row r, b2n r.active], ceilDiv (codeBytes c.cols r.int4) w, max 1 (w / 64))
      else none
    | none => none)
  compact ++ heads.map (fun h => s.channelFor (h.getD 1 0))
  ++ bands.flatMap fun b => (List.range b.2.1).flatMap fun ch => List.replicate b.2.2 (s.channelFor ch)

/-- The bin of H0 for a multiplicity (R576). -/
def multBin (m : Nat) : Nat := min 22 (Nat.log2 m)

/-- Loads of the bands in which valid occurrences fell, per table (R338). -/
def State.bandLoads (s : State) (rows : List (Occ × Nat)) : List (Word × List (Nat × Nat)) :=
  rows.foldl (fun a o =>
    match s.dirAt o.1.slot with
    | none => a
    | some d => match d.copyAt s.tick.count with
      | none => a
      | some c => match c.rows[o.1.row]? with
        | none => a
        | some r =>
          let old := ((a.find? fun y => y.1 = d.handle).map (·.2)).getD []
          putKey (fun (y : Word × List (Nat × Nat)) => y.1.toNat) (d.handle, tally old (bandOf s.build c o.1.row r) o.2) a) []

/-- Load of a row's band. -/
def State.bandLoadOf (s : State) (bands : List (Word × List (Nat × Nat))) (o : Occ) : Nat :=
  match s.dirAt o.slot with
  | none => 0
  | some d => match d.copyAt s.tick.count with
    | none => 0
    | some c => match c.rows[o.row]? with
      | none => 0
      | some r =>
        let loads := ((bands.find? fun y => y.1 = d.handle).map (·.2)).getD []
        ((loads.find? fun y => y.1 = bandOf s.build c o.row r).map (·.2)).getD 0

/-- The channel that served a row: of a split row its header channel, of a compact row that of its first code block (R337). -/
def State.servedBy (s : State) (o : Occ) : Nat :=
  match s.dirAt o.slot with
  | none => 0
  | some d => match d.copyAt s.tick.count with
    | none => 0
    | some c => match c.rows[o.row]? with
      | none => 0
      | some r => if c.split then s.headerChannel o.row else (s.compactReads o.slot c o.row r).getD 1 0

/-- The gather's figures from its distinct valid rows (R324, R338, R352). -/
def State.gatherOutcome (s : State) (rows : List (Occ × Nat)) (invalid : Nat) : Gathered :=
  let depot := rows.filter fun o => !s.cachedRow o.1
  let loads := (s.gatherReads depot).foldl (fun a c => tally a c 1) []
  let bands := s.bandLoads rows
  let chan (c : Nat) : Nat := ((loads.find? fun y => y.1 = c).map (·.2)).getD 0
  { distinct := rows.length, invalid := invalid, base := s.free
    maxBlk := loads.foldl (fun a y => max a y.2) 0
    meanBlk := loads.foldl (fun a y => a + y.2) 0 / max 1 s.enabledClusters
    fetched := depot.map fun o => ⟨o.1.handle, o.1.row, o.2, s.bandLoadOf bands o.1, chan (s.servedBy o.1)⟩
    bands := bands }

/-- TOKEN of every row that has arrived goes to the junction; every other row of the line carries none (R317). -/
def State.takeTokens (s : State) (x : Stop) : State :=
  let toks := x.plan.rows.zipIdx.filterMap fun r =>
    if x.has 0 && x.has (1 + r.2 / 16) then some (r.1, rowToken (x.embedRow r.2)) else none
  s.updLine s.curHdr.line fun l => { l with embTok := toks }

/-- A bag that reaches past INDICES, or INDICES beyond its limit, is a framing error (R316). -/
def Stop.badIndices (x : Stop) (rows : List (Nat × BitVec 128)) : Bool :=
  decide (4194304 < x.rawIndices) || rows.any fun r => rowBagLen r.2 != 0 && decide (x.rawIndices < rowBagOff r.2 + rowBagLen r.2)

/-- A row's vocabulary lookup or bag names a poisoned table (R351). -/
def State.spoiledRow (s : State) (row : Nat) (e : BitVec 128) : Bool :=
  let bad (bag : Bool) : Bool := match s.tableOf row bag with | some y => y.1.poisoned | none => false
  ((s.vocabRow e).isSome && bad false) || (rowBagLen e != 0 && bad true)

/-- The gather of an embedding stop, once (R317 to R325). -/
def State.gatherStop (s : State) (stop : Nat) : State :=
  match s.stopAt stop with
  | none => s
  | some x =>
    if s.curHdr.kind ≠ 0 || x.gathered then s else
    let s := s.takeTokens x
    let rows := s.embedRows x
    let s := s.errIf (x.badIndices rows) .stopFraming
    let vocab := rows.filterMap fun r => (s.vocabRow r.2).map fun v => (r.1, occurrences (s.tableOf r.1 false) [some v])
    let bagged := rows.filter fun r => rowBagLen r.2 != 0
    let spans := firstOf (fun (r : Nat × BitVec 128) => spanKey (s.tableOf r.1 true) r.2) [] bagged
    let bags := spans.map fun r => (spanKey (s.tableOf r.1 true) r.2, occurrences (s.tableOf r.1 true) (x.bagEntries r.2))
    let occs := vocab.flatMap (fun v => v.2.1) ++ bags.flatMap fun b => b.2.1
    let invalid := (vocab.map fun v => v.2.2).foldl (· + ·) 0 + (bags.map fun b => b.2.2).foldl (· + ·) 0
    let ms := multiset occs
    let spoiled := (rows.filter fun r => s.spoiledRow r.1 r.2).map (·.1)
    let terms := (rows.filter fun r =>
      vocab.any (fun v => v.1 = r.1 && !v.2.1.isEmpty)
      || (rowBagLen r.2 != 0 && bags.any fun b => b.1 = spanKey (s.tableOf r.1 true) r.2 && !b.2.1.isEmpty)).map (·.1)
    let s := s.count .invalidIndex invalid
    let s := s.count .dupCoalesced (ms.foldl (fun a o => a + (o.2 - 1)) 0)
    let s := ms.foldl (fun s o => s.histAdd 0 (multBin o.2) 1) s
    let out := s.gatherOutcome ms invalid
    let s := { s.updTick fun t => { t with gather := some out } with free := s.free + 8192 }
    s.updStop stop fun y => { y with gathered := true, terms := terms, spoiled := spoiled }

/-- The value of element c of an occurrence: σ × (q − z) of its active slot, exact in binary32 (R224, R326). -/
def State.tableVal (s : State) (o : Occ) (c : Nat) : Word :=
  match s.dirAt o.slot with
  | none => 0
  | some d => match d.copyAt s.tick.count with
    | none => 0
    | some cp => match cp.rows[o.row]? with
      | none => 0
      | some r =>
        let codes := if r.active then r.codes1 else r.codes0
        let q : Int := if r.int4 then (BitVec.ofNat 4 ((codes.getD (c / 2) 0).toNat / 16 ^ (c % 2))).toInt else (codes.getD c 0).toInt
        let z : Int := if r.active then r.zero1.toInt else r.zero0.toInt
        fpMul (ofBf16 (if r.active then r.scale1 else r.scale0)) (fpOfInt (q - z))

/-- The occurrences of a row of the embedding stop: its vocabulary lookup's, and its bag's. -/
def State.rowOccs (s : State) (x : Stop) (row : Nat) (e : BitVec 128) : List Occ × List Occ :=
  ((match s.vocabRow e with | some v => (occurrences (s.tableOf row false) [some v]).1 | none => []),
   if rowBagLen e = 0 then [] else (occurrences (s.tableOf row true) (x.bagEntries e)).1)

/-- The free value that a row's pooled vector draws: rows of one span with the same vocabulary row share it, since their span is pooled once
(R325). -/
def State.poolFree (s : State) (x : Stop) (row : Nat) (e : BitVec 128) : Nat :=
  let key (row : Nat) (e : BitVec 128) : List Nat × List Occ :=
    (if rowBagLen e = 0 then [] else spanKey (s.tableOf row true) e, (s.rowOccs x row e).1)
  let k := key row e
  let first := ((s.embedRows x).find? fun r => key r.1 r.2 = k).map (·.1)
  (match s.tick.gather with | some g => g.base | none => s.free) + first.getD row

/-- Element c of a row of the embedding stop (R326, R327): products m × v, of a MEAN bag divided by its occurrences, with the
vocabulary row in the same pair, held within the bound around the exact occurrences. -/
def State.embedElem (s : State) (x : Stop) (row : Nat) (fp32 : Bool) (c : Nat) : Word :=
  let e := x.embedRow (x.place row)
  let os := s.rowOccs x row e
  let vocab := os.1.map fun o => s.tableVal o c
  let prods := ((multiset os.2).map fun o => fpMul (fpOfNat o.2) (s.tableVal o.1 c)).filter fun w => !fpZero w
  let n := os.2.length
  let free := Config.element (s.poolFree x row e) c
  let den := if rowMean e then max 1 n else 1
  let times (k : Nat) (w : Word) : Ref := Ref.scale (Ref.ofDyad ⟨k, 0⟩) (Ref.ofWord w)
  let ref := Ref.sum (vocab.map (times den) ++ (multiset os.2).map fun o => times o.2 (s.tableVal o.1 c))
  let few := if fp32 then 2 else 1
  holdOver den fp32 ref <|
  if !rowMean e then foldRef free 1 16 24 few none (vocab ++ prods)
  else if prods.length ≤ 1 then foldRef free 1 16 24 few none (vocab ++ prods.map fun w => fpDiv w (fpOfNat n))
  else foldRef free n 16 24 (if vocab.isEmpty then few else 0) (some (Ref.sum (prods.map Ref.ofWord))) vocab

/-- Emit one row of the embedding stop: zero without a term, zero and late with a poisoned table, poisoned by then (R322, R351). -/
def State.emitEmbed (s : State) (ports : Nat) (x : Stop) (row : Nat) : State :=
  let bad := x.spoiled.contains row || (x.gathered && s.spoiledRow row (x.embedRow (x.place row)))
  let s := s.emitRow ports 0 x.stop row (bad || !x.terms.contains row) (s.embedElem x row (s.outShape 0 x.stop).2)
  if bad then s.updStop x.stop fun y => { y with late := sortNat (y.late ++ [row]) } else s

/-- The figures of a finished EMBED tick are published (R337, R338, R352). -/
def State.publishGather (s : State) : State :=
  if s.curHdr.kind ≠ 0 then s else
  let g : Gathered := s.tick.gather.getD ⟨0, 0, 0, 0, [], [], 0⟩
  { s with
    last := { s.last with distinct := g.distinct, invalid := g.invalid, maxBlk := g.maxBlk, meanBlk := g.meanBlk }
    fetched := setAt s.fetched s.curHdr.line g.fetched
    bands := g.bands }

end Sys2Proof.Machine
end

