-- ==== Sys2Proof/Machine/Image.lean ====
section
/-! DEFINITION. The adapter image: its header and part table (R211, R212), the wagon counts of R208 to R210, tile headers (R205),
tenant-table bodies (R224, R225) and the checks of R213 and R612. -/
namespace Sys2Proof.Machine
open Sys2Proof

/-- Bytes `a` up to, not including, `b` are all zero. -/
def zeroSpan (bs : List Byte) (a b : Nat) : Bool := ((bs.drop a).take (b - a)).all (· = 0)

/-! The header (R211). -/

/-- KIND. -/
def imgKind (g : List Byte) : Nat := bF g 5 0 3
/-- SEALED. -/
def imgSealed (g : List Byte) : Bool := bF g 6 0 1 = 1
/-- TRAINABLE. -/
def imgTrainable (g : List Byte) : Bool := bF g 6 1 1 = 1
/-- SHARED. -/
def imgShared (g : List Byte) : Bool := bF g 6 2 1 = 1
/-- XTENANT. -/
def imgXtenant (g : List Byte) : Bool := bF g 6 3 1 = 1
/-- FORM. -/
def imgForm (g : List Byte) : Nat := bF g 7 0 2
/-- SW_ID. -/
def imgSwId (g : List Byte) : Nat := bF g 7 2 6
/-- VERSION. -/
def imgVersion (g : List Byte) : Nat := bF g 8 0 32
/-- FMT. -/
def imgFmt (g : List Byte) : Nat := bF g 12 0 3
/-- MX6V. -/
def imgMx6v (g : List Byte) : Bool := bF g 12 3 1 = 1
/-- PARTS. -/
def imgParts (g : List Byte) : Nat := bF g 14 0 16
/-- ROUTE. -/
def imgRoute (g : List Byte) : Word := BitVec.ofNat 32 (bF g 16 0 32)
/-- CF. -/
def imgCf (g : List Byte) : Nat := bF g 20 0 8
/-- HASH_SALT. -/
def imgSalt (g : List Byte) : Nat := bF g 24 0 32
/-- WAGONS. -/
def imgWagons (g : List Byte) : Nat := bF g 28 0 32
/-- BODY_OFFSET. -/
def imgBody (g : List Byte) : Nat := bF g 32 0 32
/-- IMAGE_BYTES. -/
def imgBytes (g : List Byte) : Nat := bF g 36 0 32
/-- TABLE_ROWS. -/
def imgRows (g : List Byte) : Nat := bF g 48 0 32
/-- TABLE_COLS. -/
def imgCols (g : List Byte) : Nat := bF g 52 0 16
/-- WIDTH_MODE. -/
def imgMode (g : List Byte) : Nat := bF g 54 0 2

/-- Part-table entry i (R212). -/
def imgPart (g : List Byte) (i : Nat) : Part :=
  let e := (g.drop (256 + 32 * i)).take 32
  ⟨bF e 0 0 10, bF e 2 0 3, bF e 3 0 5, bF e 4 0 16, bF e 6 0 16, bF e 8 0 32, bF e 12 0 16, bF e 14 0 16, bF e 16 0 8,
    bF e 17 0 8, bF e 18 0 8, bF e 20 0 6, bF e 20 7 1 = 1⟩

/-- The part table; a tenant table has none that is read (R612). -/
def imgPartList (g : List Byte) : List Part := if imgKind g = 3 then [] else (List.range (imgParts g)).map (imgPart g)

/-- Check 1 of R213. -/
def imgCheck1 (g : List Byte) : Bool := bF g 0 0 32 = 0x41375849 && bF g 4 0 8 = 1

/-- Reserved fields of a part-table entry are zero. -/
def partReserved (e : List Byte) : Bool :=
  bF e 0 10 6 = 0 && bF e 2 3 5 = 0 && bF e 3 5 3 = 0 && bF e 19 0 8 = 0 && bF e 20 6 1 = 0 && zeroSpan e 21 32

/-! Table bodies (R224, R225). -/

/-- Bytes of a stored row record (R224). -/
def recordBytes (cols : Nat) (int4 : Bool) : Nat := roundUp (8 + codeBytes cols int4) 64

/-- Row-map entry r: region and index (R225). -/
def imgRowMap (g : List Byte) (r : Nat) : Bool × Nat :=
  match imgMode g with
  | 2 => (bF g (imgBody g + 4 * r) 31 1 = 1, bF g (imgBody g + 4 * r) 0 31)
  | m => (m = 1, r)

/-- Rows of an image table in a region. -/
def imgRegionRows (g : List Byte) (int4 : Bool) : Nat :=
  ((List.range (imgRows g)).filter fun r => (imgRowMap g r).1 == int4).length

/-- Offsets of the int8 region, the int4 region and the end of the body. -/
def imgRegions (g : List Byte) : Nat × Nat × Nat :=
  let a := imgBody g + (if imgMode g = 2 then roundUp (4 * imgRows g) 256 else 0)
  let b := a + imgRegionRows g false * recordBytes (imgCols g) false
  (a, b, b + imgRegionRows g true * recordBytes (imgCols g) true)

/-- A row record's fields: σ, z, WIDTH, reserved bits zero, codes. -/
structure RowRec where
  scale : BitVec 16
  zero  : Byte
  int4  : Bool
  clean : Bool
  codes : List Byte
  deriving DecidableEq, Repr

/-- Read a row record of `cols` elements (R224). -/
def rowRecOf (bs : List Byte) (cols : Nat) (int4 : Bool) : RowRec :=
  ⟨BitVec.ofNat 16 (bF bs 0 0 16), BitVec.ofNat 8 (bF bs 2 0 8), bF bs 3 0 1 = 1, bF bs 3 1 7 = 0 && bF bs 6 0 16 = 0,
    padTo (codeBytes cols int4) ((bs.drop 8).take (codeBytes cols int4))⟩

/-- The stored rows at load: slot 0 holds the image's codes, slot 1 is zero (R330). Each row has the width of its region; a record's
WIDTH is not read (assumption log 83). -/
def imgTRows (g : List Byte) : List TRow :=
  let rg := imgRegions g
  (List.range (imgRows g)).map fun r =>
    let m := imgRowMap g r
    let at_ := (if m.1 then rg.2.1 else rg.1) + m.2 * recordBytes (imgCols g) m.1
    let x := rowRecOf (g.drop at_) (imgCols g) m.1
    ⟨x.scale, x.zero, 0, 0, 0, 0, false, false, m.1, m.2, x.codes, List.replicate (codeBytes (imgCols g) m.1) 0⟩

/-- The indices that a region's row-map entries name are exactly its records. -/
def imgMapOk (g : List Byte) : Bool :=
  [false, true].all fun w =>
    let idx := (List.range (imgRows g)).filterMap fun r => let m := imgRowMap g r; if m.1 == w then some m.2 else none
    idx.all fun i => decide (i < idx.length)

/-- The reserved fields of every row record are zero; the records are found through a row map that names them all (R224, R225). -/
def imgRowsClean (g : List Byte) : Bool :=
  !imgMapOk g ||
  let rg := imgRegions g
  (List.range (imgRows g)).all fun r =>
    let m := imgRowMap g r
    (rowRecOf (g.drop ((if m.1 then rg.2.1 else rg.1) + m.2 * recordBytes (imgCols g) m.1)) (imgCols g) m.1).clean

/-- Check 2 of R213; `specials` are the installed special workings. -/
def imgCheck2 (g : List Byte) (specials : List Nat) : Bool :=
  bF g 5 3 5 = 0 && bF g 6 4 4 = 0 && bF g 12 4 4 = 0 && bF g 13 0 8 = 0 && zeroSpan g 21 24 && bF g 54 2 6 = 0 && zeroSpan g 55 192
  && fld (imgRoute g) 27 5 = 0
  && (imgKind g = 3 || (List.range (imgParts g)).all fun i => partReserved ((g.drop (256 + 32 * i)).take 32))
  && decide (imgKind g ≤ 5) && !(imgSealed g && imgTrainable g)
  && (!imgTrainable g || [0, 1, 3, 4].contains (imgFmt g))
  && (imgForm g != 3 || specials.contains (imgSwId g))
  && (imgKind g != 3 || decide (2 < imgMode g) || imgRowsClean g)

/-- Check 3 of R213, with R170. -/
def imgCheck3 (g : List Byte) : Bool :=
  let r := imgRoute g
  if imgKind g = 1 then
    (rtMode r = 1 || rtMode r = 2) && decide (2 ≤ rtE r ∧ rtE r ≤ 64) && decide (1 ≤ rtK r ∧ rtK r ≤ 4 ∧ rtK r < rtE r)
    && rtGate r != 3
  else r = 0 && imgCf g = 0 && imgSalt g = 0

/-- No two parts share LAYER, STOP, EXPERT and ROUTER. -/
def partsDistinct (ps : List Part) : Bool :=
  match ps with
  | [] => true
  | p :: r => !r.any (fun q => q.layer = p.layer && q.stop = p.stop && q.expert = p.expert && q.router == p.router) && partsDistinct r

/-- A head's part holds what R357 asks for: a plane v alone, any other part A and B, with s where the form has it. -/
def headContents (kind form : Nat) (p : Part) : Bool :=
  if kind = 4 && p.expert != 0 then p.aW = 0 && p.bW = 0 && p.sW = 0 && p.vW != 0 && p.xW = 0
  else p.aW != 0 && p.bW != 0 && (p.sW != 0) == (form = 1) && p.xW = 0

/-- The requirements of R612 and R357 on the part table, per KIND. -/
def State.partsOk (s : State) (g : List Byte) : Bool :=
  let ps := imgPartList g
  let kind := imgKind g
  let form := imgForm g
  let r := imgRoute g
  let layered (p : Part) : Bool := decide (p.layer ≤ s.layersM1) && decide (p.stop < 6) && p.inW64 * 64 = s.inW p.stop
  let headShape (p : Part) : Bool := p.layer = 0 && p.stop = 0 && !p.router && p.inW64 * 64 = s.hidW
    && p.outW64 * 64 = s.vocabW + s.extW
  match kind with
  | 0 => ps.all fun p => layered p && p.outW64 * 64 = s.outW p.stop && p.expert = 0 && !p.router
  | 1 =>
    (form = 0 || form = 1)
    && ps.all (fun p => layered p &&
        (if p.router then p.expert = 0 && p.outW64 = 0 && p.rank8 + 1 = ceilDiv (rtE r) 8
         else decide (p.expert < rtE r) && p.outW64 * 64 = s.outW p.stop && p.rank8 = rtRank r))
    && (ps.filter (·.router)).all fun q => (List.range (rtE r)).all fun e =>
        ps.any fun p => p.layer = q.layer && p.stop = q.stop && p.expert = e && !p.router
  | 2 => form = 0 && ps.length = 1 && ps.all fun p => p.layer = 0 && p.stop = 0 && p.expert = 0 && !p.router && p.outW64 = 0
        && decide (p.rank8 < 8)
  | 4 => (form = 0 || form = 1) && ps.all fun p => headShape p && headContents kind form p && (p.expert != 0 || decide (p.rank8 < 8))
  | 5 => (form = 0 || form = 1) && decide (1 ≤ ps.length ∧ ps.length ≤ 4)
        && ps.all (fun p => headShape p && headContents kind form p && decide (p.expert < ps.length) && decide (p.rank8 < 8)
            && p.rank8 = (ps.headD p).rank8)
  | _ => true

/-- Check 4 of R213 (R323, R612). -/
def State.imgCheck4 (s : State) (g : List Byte) : Bool :=
  if imgKind g = 3 then imgCols g = s.outW 0 else partsDistinct (imgPartList g) && s.partsOk g

/-! Wagon counts (R208 to R210). -/

/-- Logical tiles of a down factor of rank `r` over `inW` inputs. -/
def downTiles (r inW : Nat) : Nat := if r < 64 then ceilDiv (inW / (64 / r)) 64 else ceilDiv r 64 * ceilDiv inW 64

/-- Logical tiles of an up factor of rank `r` with `outW` outputs. -/
def upTiles (r outW : Nat) : Nat :=
  let t := ceilDiv outW 64
  if r ≤ 64 then ceilDiv t (64 / r) else t * ceilDiv r 64

/-- Wagons of a number of logical tiles (R209). -/
def tileWagons (fmt tiles : Nat) : Nat := if fmt = 4 then ceilDiv tiles 2 else if fmt = 0 then 2 * tiles else tiles

/-- Wagon w of an image body. -/
def imgWagon (g : List Byte) (w : Nat) : List Byte := padTo 4352 ((g.drop (imgBody g + w * 4352)).take 4352)

/-- Tile-header field of a wagon: sidecar byte, bit, length (R205). -/
def thF (wag : List Byte) (byte lo len : Nat) : Nat := bF wag (4096 + byte) lo len

/-- Wagons of a vector of `n` elements that starts at wagon w (R207). -/
def vecWagons (g : List Byte) (w n : Nat) : Nat := ceilDiv n (if thF (imgWagon g w) 193 4 1 = 1 then 1024 else 2048)

/-- A part holds the factors that its kind and form ask for: A and B, s, optional v, bias or probe wagons. Of a special working's part each of
A, B, s and v may be absent or of its count (assumption log 82). -/
def partCounts (g : List Byte) (p : Part) : Bool :=
  let kind := imgKind g
  let fmt := imgFmt g
  let r := 8 * (p.rank8 + 1)
  let inW := p.inW64 * 64
  let outW := p.outW64 * 64
  let vec (off n : Nat) : Nat := vecWagons g (p.first + p.aW + p.bW + off) n
  let noFactor := p.aW = 0 && p.bW = 0 && p.sW = 0
  let low := p.aW = tileWagons fmt (downTiles r inW) && p.bW = tileWagons fmt (upTiles r outW)
  let sOk := if imgForm g = 1 then p.sW = vec 0 outW else p.sW = 0
  let vOk := p.vW = 0 || p.vW = vec p.sW outW
  if kind = 1 && p.router then
    p.bW = 0 && p.sW = 0 && p.vW = 0 &&
      (if rtMode (imgRoute g) = 1 then p.aW = tileWagons fmt (downTiles r inW) && p.xW = 1 else p.aW = 0 && p.xW = 0)
  else if kind = 1 then low && sOk && p.vW = 0 && p.xW = 0
  else if kind = 2 then p.aW = tileWagons fmt (downTiles r inW) && p.bW = 0 && p.sW = 0 && p.vW = 0 && p.xW = 1
  else if kind = 4 && p.expert != 0 then noFactor && p.vW = vec 0 outW && p.xW = 0
  else if kind = 0 && imgForm g = 2 then noFactor && p.vW = vec 0 outW && p.xW = 0
  else if kind = 0 && imgForm g = 3 then
    (p.aW = 0 || p.aW = tileWagons fmt (downTiles r inW)) && (p.bW = 0 || p.bW = tileWagons fmt (upTiles r outW))
    && (p.sW = 0 || p.sW = vec 0 outW) && vOk && p.xW = 0
  else low && sOk && vOk && p.xW = 0

/-- All wagons of a part. -/
def Part.wagons (p : Part) : Nat := p.aW + p.bW + p.sW + p.vW + p.xW

/-- Check 5 of R213; `length` is the LENGTH of the descriptor (R473). A BODY_OFFSET that is no multiple of 256 fails it (assumption
log 82). -/
def imgCheck5 (g : List Byte) (length : Nat) : Bool :=
  let fits := decide (imgBytes g ≤ length) && imgBody g % 256 = 0
  if imgKind g = 3 then fits && decide (imgMode g < 3) && imgBytes g = (imgRegions g).2.2 && imgMapOk g
  else
    let ps := imgPartList g
    fits && ps.all (partCounts g) && ps.foldl (fun a p => a + p.wagons) 0 = imgWagons g
    && imgBytes g = imgBody g + imgWagons g * 4352

/-- The CRC-32C of a wagon is right (R204). -/
def wagonCrcOk (w : List Byte) : Bool := crc32c (w.take 4348) = BitVec.ofNat 32 (bF w 4348 0 32)

/-- FMT, MX6V, ROLE, LAYER, STOP, WAGON_IDX and VERSION of a tile header are those of wagon `idx` of a part; FMT and MX6V of a vector or bias
wagon are 0, and MX6V is 0 but for FMT 6 (R205, R206). -/
def headerAgrees (w : List Byte) (p : Part) (idx role fmt : Nat) (mx6v : Bool) (version : Nat) : Bool :=
  let vector := [2, 3, 5, 7].contains role
  thF w 193 0 3 = (if vector then 0 else fmt) && thF w 193 3 1 = (if vector || fmt != 6 then 0 else b2n mx6v)
  && thF w 194 0 8 = role && thF w 196 0 10 = p.layer && thF w 196 10 3 = p.stop && thF w 198 0 16 = idx && thF w 200 0 32 = version

/-- One wagon of a part: its tile header agrees with the image (R205, R206). `role` is its ROLE. -/
def wagonOk (g : List Byte) (p : Part) (partIdx idx role : Nat) : Bool :=
  let w := imgWagon g (p.first + idx)
  headerAgrees w p idx role (imgFmt g) (imgMx6v g) (imgVersion g)
  && thF w 192 0 8 = 1 && ([2, 3, 5, 7].contains role || imgFmt g = 6 || !imgMx6v g) && thF w 193 5 3 = 0
  && thF w 195 0 5 = p.rank8 && thF w 195 5 3 = 0 && thF w 196 13 3 = 0
  && thF w 204 0 16 = partIdx && zeroSpan w (4096 + 206) (4096 + 252)

/-- The roles of a part's wagons in order (R207, R210). -/
def partRoles (kind : Nat) (p : Part) : List Nat :=
  List.replicate p.aW (if p.router then 4 else if kind = 2 then 6 else 0) ++ List.replicate p.bW 1 ++ List.replicate p.sW 2
  ++ List.replicate p.vW 3 ++ List.replicate p.xW (if kind = 2 then 7 else 5)

/-- Check 6 of R213: the CRC of every wagon of the body, each a wagon of some part, and the tile header of every wagon of a part. -/
def imgCheck6 (g : List Byte) : Bool :=
  (imgKind g = 3 || (List.range (imgWagons g)).all fun w =>
    wagonCrcOk (imgWagon g w) && (imgPartList g).any fun p => decide (p.first ≤ w ∧ w < p.first + p.wagons))
  && (imgPartList g).zipIdx.all fun p => (partRoles (imgKind g) p.1).zipIdx.all fun r => wagonOk g p.1 p.2 r.2 r.1

/-- The 32 bytes of a publisher key. -/
def keyBytes (ws : List Word) : List Byte := ws.flatMap fun w => leBytes 4 w.toNat

/-- The key slot that R221 selects for an image. -/
def State.keyFor (s : State) (g : List Byte) : Option Nat :=
  (List.range 16).find? fun k =>
    s.rf 0x0188 k 1 = 1 && (sha512 (keyBytes (s.keys.getD k []))).take 8 == (g.drop 40).take 8

/-- Check 7 of R213 (R221). -/
def State.imgCheck7 (s : State) (g : List Byte) : Bool :=
  if !imgSealed g then true else
  match s.keyFor g with
  | none => false
  | some k =>
    let body := g.take (imgBytes g)
    let msg := sha512 (body.take 192 ++ List.replicate 64 0 ++ body.drop 256)
    edVerify (keyBytes (s.keys.getD k [])) msg ((g.drop 192).take 64)

/-- Checks 1 to 7 of R213, in order: the first that fails. -/
def State.imageCheck (s : State) (g : List Byte) (length : Nat) : Option Answer :=
  if !imgCheck1 g then some (ans 0x40 0)
  else if !imgCheck2 g (s.specials.map (·.id)) then some (ans 0x18 2)
  else if !imgCheck3 g then some (ans 0x18 3)
  else if !s.imgCheck4 g then some (ans 0x18 4)
  else if !imgCheck5 g length then some (ans 0x18 5)
  else if !imgCheck6 g then some (ans 0x18 6)
  else if !s.imgCheck7 g then some (ans 0x14 0)
  else none

/-- The stored table bytes and whether the layout is split (R329, R334). -/
def State.tableLayout (s : State) (g : List Byte) : Nat × Bool :=
  let n8 := imgRegionRows g false
  let n4 := imgRegionRows g true
  let sc := compactSize (imgCols g) n8 n4
  if sc ≤ s.rf 0x40A4 0 8 * 2 ^ 20 then (sc, false) else (splitSize s.build (imgCols g) n8 n4, true)

/-- The copy that an image gives, in a copy region, with its identity. -/
def State.copyOf (s : State) (g : List Byte) (regionB : Bool) (id : Nat) : Copy :=
  let table := imgKind g = 3
  { regionB := regionB, kind := imgKind g, sealed := imgSealed g, trainable := imgTrainable g, shared := imgShared g
    xtenant := imgXtenant g, version := BitVec.ofNat 32 (imgVersion g), fmt := imgFmt g, mx6v := imgMx6v g
    origFmt := imgFmt g, form := imgForm g, swId := imgSwId g, route := imgRoute g, cf := imgCf g
    salt := BitVec.ofNat 32 (imgSalt g), wagons := imgWagons g, bodyOff := imgBody g
    keySlot := if imgSealed g then (s.keyFor g).getD 0 else 0, cols := imgCols g, split := table && (s.tableLayout g).2
    parts := imgPartList g, rows := if table then imgTRows g else [], head := id }

end Sys2Proof.Machine
end

