-- ==== Sys2Proof/Machine/Space.lean ====
section
/-! DEFINITION. The adapter space (R226 to R276): loads, stages, commits and retires with the checks of R255, the accounting they
change, quotas, and the physical release. -/
namespace Sys2Proof.Machine
open Sys2Proof

/-! Charges of a copy. -/

/-- What a copy costs: head wagons, its own wagons, runs, and tier-map entries (R241, R252). -/
structure CopyCost where
  head   : Nat
  wagons : Nat
  runs   : Nat
  table  : Bool
  deriving DecidableEq, Repr

/-- The cost of an image's copy: wagons in runs of 16, or the stored table in T1 (R239, R252, R332, R334). -/
def State.costOf (s : State) (g : List Byte) : CopyCost :=
  if imgKind g = 3 then
    let l := s.tableLayout g
    ⟨0, ceilDiv l.1 4352, ceilDiv (l.1 - 256) 69632, true⟩
  else ⟨ceilDiv (imgBody g) 4352, imgWagons g, ceilDiv (imgWagons g) 16, false⟩

/-- Bytes that the copy needs in its region (R236, R335). -/
def State.regionNeed (s : State) (g : List Byte) : Nat :=
  if imgKind g = 3 then (s.tableLayout g).1 else imgBody g + imgWagons g * 4352

/-- Checks 12 and 13 of R255 for a landing tier. `named` is the tier a refusal names, when the descriptor named none (R257). -/
def State.landCheck (s : State) (t k : Nat) (c : CopyCost) (named : Bool) : Option Answer :=
  match s.overQuota t [(1, c.head), (k, c.wagons)] with
  | some j => some (ans 0x12 (if named then j else k))
  | none => if s.roomFor k c.runs c.head c.runs then none else some (ans 0x12 (8 + k))

/-- The landing tier, or the refusal (R256 to R258). A tier that the object may not lie in has no runs for it: check 13 fails after check
12 (R244, R258, R473). Of a table whose landing tier is open T1 alone is tried, and a refusal names T1 (assumption log 35). -/
def State.landing (s : State) (t want : Nat) (c : CopyCost) : Nat × Option Answer :=
  if 4 < want ∨ (c.table ∧ 1 < want) then
    (want, some ((s.landCheck t want c true).getD (ans 0x12 (8 + want))))
  else if want ≠ 0 then (want, s.landCheck t want c true)
  else
    let tiers := if c.table then [1] else [1, 2, 3, 4]
    match tiers.find? fun k => (s.landCheck t k c false).isNone with
    | some k => (k, none)
    | none => let k := tiers.getLastD 1; (k, s.landCheck t k c false)

/-- Copies that hold shared slots: in force, or staged and uncommitted (check 10); a copy that leaves service holds its slots up to the
tick from which it has left (R270). -/
def Dir.sharedCopies (d : Dir) : List Copy :=
  let inForce := if d.st.inForce then d.cur.toList else []
  let leaving := match d.old with | some (_, c) => c.toList | none => []
  let staged := if d.st == .staged || d.st == .stagedNew then d.next.toList else []
  (inForce ++ leaving ++ staged).filter fun c => c.shared && c.kind = 0

/-- Check 10: at each stop with a part, one of the two shared slots is free or held by this handle. -/
def State.sharedRoom (s : State) (slot : Nat) (g : List Byte) : Bool :=
  !(imgShared g && imgKind g = 0) ||
  (imgPartList g).all fun p =>
    decide ((s.dirs.filter fun d => d.slot != slot && d.sharedCopies.any fun c => c.parts.any fun q => q.stop = p.stop).length < 2)

/-- Check 11: no other expert set of the tenant is in force or staged. -/
def State.setAlone (s : State) (slot t : Nat) (g : List Byte) : Bool :=
  imgKind g != 1 || !(s.dirs.any fun d => d.slot != slot && d.tenant = t &&
    (((if d.st.inForce then d.cur.toList else []) ++ d.next.toList).any fun c => c.kind = 1))

/-- Checks 8 to 11 of R255. -/
def State.spaceCheck (s : State) (d : Dir) (g : List Byte) : Option Answer :=
  let same := match d.cur with
    | some c => d.st != .staging || (c.kind = imgKind g && c.shared == imgShared g && c.trainable == imgTrainable g)
    | none => true
  if !same then some (ans 0x18 8)
  else if 268435456 < s.regionNeed g then some (ans 0x18 9)
  else if !s.sharedRoom d.slot g then some (ans 0x18 10)
  else if !s.setAlone d.slot d.tenant g then some (ans 0x18 11)
  else none

/-! Building. -/

/-- The copy region that a build uses: A for a first copy, else the one not in force (R233). -/
def Dir.buildRegion (d : Dir) : Bool := match d.cur with | some c => !c.regionB | none => false

/-- The tier-map entries of a new copy, from run `j` on; they have no places yet (R294). -/
def newRuns (base tier : Nat) : Nat → Nat → List TRun
  | 0, _ => []
  | n + 1, j => ⟨base + 69632 * j, 0, tier, false, 0, none, 0, false, false⟩ :: newRuns base tier n (j + 1)

/-- Tier-map entries of a run of addresses take their places, in order. -/
def giveRuns : List TRun → List Nat → List TRun
  | [], _ => []
  | r :: rs, ls =>
    if r.src != 0 then r :: giveRuns rs ls
    else match ls with
      | [] => r :: giveRuns rs []
      | l :: ls => { r with src := r.tier, loc := BitVec.ofNat 32 l } :: giveRuns rs ls

/-- The copy region that an address lies in. -/
def inRegion (slot : Nat) (b : Bool) (a : Nat) : Bool := decide (regionBase slot b ≤ a ∧ a < regionBase slot b + 2 ^ 28)

/-- The lowest free run of a channel from its row `start` on, cyclically; channel k of `on` enabled ones holds the runs k, k + on, … (R245). -/
def runOn (used : List Nat) (rows on start k : Nat) : Option Nat :=
  ((List.range rows).map fun i => (i + start) % rows * on + k).find? fun l => !used.contains l

/-- Places for the runs of a split table: run j of the copy belongs to channel j mod C, and a disabled channel's lie on the next enabled one
upward (R240, R334). -/
def State.takeSplit (s : State) (n : Nat) : Option (List Nat) :=
  let on := s.channelsOn
  let rows := s.tierCap1 / max 1 on.length
  let used := s.runLocs 1
  if s.tierCap1 < used.length + s.otherRuns 1 + n then none else
  let go (a : Option (List Nat × List Nat)) (j : Nat) : Option (List Nat × List Nat) :=
    a.bind fun a => (runOn a.2 rows on.length ((Config.freeWord s.free).toNat % max 1 rows)
      (on.idxOf (s.channelFor (j % s.build.channels)))).map fun l => (a.1 ++ [l], l :: a.2)
  ((List.range n).foldl go (some ([], used))).map (·.1)

/-- The copy that a region is built for is a split table. -/
def State.splitIn (s : State) (slot : Nat) (b : Bool) : Bool :=
  match s.dirAt slot with
  | some d => match d.next with | some c => c.split && c.regionB == b | none => false
  | none => false

/-- The new runs of a copy region take places in their tier; none while too many runs are occupied (R240, R294, R334). -/
def State.placeRegion (s : State) (slot : Nat) (b : Bool) : Option State :=
  let mine (r : TRun) : Bool := inRegion slot b r.addr
  let runs := s.tmap.filter fun r => mine r && r.src = 0
  match runs with
  | [] => some s
  | r :: _ => (if s.splitIn slot b then s.takeSplit runs.length else s.takeRuns r.tier runs.length).map fun ls =>
    { s with
      free := s.free + 1
      tmap := (s.tmap.filter fun r => !mine r) ++ giveRuns (s.tmap.filter mine) ls }

/-- Drop the tier-map entries of a copy region. -/
def State.dropRuns (s : State) (slot : Nat) (b : Bool) : State :=
  { s with tmap := s.tmap.filter fun r => !inRegion slot b r.addr }

/-- A copy region is released: its bytes, its runs, and what the platforms hold of it are gone. -/
def State.clearRegion (s : State) (slot : Nat) (b : Bool) : State :=
  let lo := regionBase slot b
  { s.dropRuns slot b with
    adMem := memClear s.adMem lo (lo + 2 ^ 28)
    frames := s.frames.filter fun f => !inRegion slot b f.addr
    tierOld := s.tierOld.filter fun e => !inRegion slot b e.addr }

/-- Bytes of the stored image: a table keeps its header beside its rows (R232, R331). -/
def storedImage (g : List Byte) : List Byte := if imgKind g = 3 then g.take 256 else g.take (imgBytes g)

/-- A checked image becomes a copy: charged, mapped, written (R232, R241, R252). -/
def State.acceptCopy (s : State) (d : Dir) (g : List Byte) (tier : Nat) : State :=
  let c := s.costOf g
  let id := s.nextId
  let b := d.buildRegion
  let copy := s.copyOf g b id
  let head : List Charge := if c.table then [] else [⟨d.slot, id, .head, d.tenant, 1, c.head, 0, 0, none⟩]
  let body : Charge := ⟨d.slot, id, if c.table then .table else .wagons, d.tenant, tier, c.wagons, c.runs, c.runs, none⟩
  let base := regionBase d.slot b + (if c.table then 256 else imgBody g)
  let s := { s with
    nextId := id + 1
    charges := s.charges ++ head ++ [body]
    headRuns := if c.table then s.headRuns else takeHead id s.headRuns c.head
    tmap := s.tmap ++ newRuns base tier c.runs 0
    adMem := memPutAll s.adMem (regionBase d.slot b) (storedImage g) }
  s.setDir { d with next := some copy, headRead := some (imgBody g) }

/-- The descriptor that waits for a build of the slot. -/
def State.building (s : State) (slot : Nat) : Option Taken := s.taken.find? fun t => t.pend == .build slot

/-- A build ends without a copy: FREE, or INSTALLED as before (R266). -/
def State.dropBuild (s : State) (d : Dir) : State :=
  let s := { s with reads := s.reads.filter fun (r : FmRead) => r.kind != RKind.image d.slot }
  if d.st == .loading then s.freeDir d.slot else s.setDir { d with st := .installed, headRead := none }

/-- A build fails with an answer. -/
def State.failBuild (s : State) (slot : Nat) (a : Answer) : State :=
  match s.dirAt slot, s.building slot with
  | some d, some tk => (s.dropBuild d).finish tk a
  | _, _ => s

/-- Wagons that a copy's charges name. -/
def State.chargedWagons (s : State) (slot id : Nat) : Nat :=
  s.charges.foldl (fun a c => if c.slot = slot && c.copy = id && c.kind != ChargeKind.state then a + c.wagons else a) 0

/-- The tier that an accepted copy landed in. -/
def State.landedIn (s : State) (slot id : Nat) : Nat :=
  match s.charges.find? fun c => c.slot = slot && c.copy = id && (c.kind == .wagons || c.kind == .table) with | some c => c.tier | none => 1

/-- A copy that the checks accepted is complete once its runs have places; until then the build waits (R266, R294). -/
def State.finishBuild (s : State) (slot : Nat) : State :=
  match s.dirAt slot, s.building slot with
  | some d, some tk =>
    match d.next with
    | none => s
    | some c =>
      match s.placeRegion slot c.regionB with
      | none => s
      | some s =>
        let s := s.setDir { d with st := if d.st == .staging then .staged else .stagedNew, headRead := none }
        s.finish tk (ansOk (s.landedIn slot c.head) (s.chargedWagons slot c.head) 0)
  | _, _ => s

/-- Builds that wait for runs go on. -/
def State.finishBuilds (s : State) : State :=
  let waiting := s.dirs.filter fun d => (d.st == .loading || d.st == .staging) && d.next.isSome
  if waiting.isEmpty then s else waiting.foldl (fun s d => s.finishBuild d.slot) s

/-- The copy region that a build needs still holds a former copy (R233). -/
def State.regionHeld (s : State) (d : Dir) : Bool := d.former.isSome || s.tmap.any fun r => inRegion d.slot d.buildRegion r.addr

/-- The image of a build has been read: checks 1 to 13, then the copy (R213, R255, R266). A build does not begin while its region's
former contents are not released (R233). -/
def State.completeBuild (s : State) (slot : Nat) (g : List Byte) : State :=
  match s.dirAt slot, s.building slot with
  | some d, some _ =>
    if d.next.isSome then s.finishBuild slot
    else if s.regionHeld d then s else
    match s.imageCheck g d.image.2, s.spaceCheck d g with
    | some a, _ => s.failBuild slot a
    | none, some a => s.failBuild slot a
    | none, none =>
      let c := s.costOf g
      let l := s.landing d.tenant d.landing c
      match l.2 with
      | some a => s.failBuild slot a
      | none =>
        let s := { s with reads := s.reads.filter fun (r : FmRead) => r.kind != RKind.image slot }
        (s.acceptCopy d g l.1).finishBuild slot
  | _, _ => s

/-- Start a build: the image is read from host memory beneath the ticks (R266), once the region's former contents are released (R233). -/
def State.startBuild (s : State) (d : Dir) (tk : Taken) : State :=
  let b := tk.bytes
  let d := { d with landing := dF b 14 0 3, image := (dF b 16 0 64, dF b 24 0 32), table := opcodeOf b = 0x24, headRead := none }
  let s := s.setDir d
  let s := if s.regionHeld d then s else s.addRead (.image d.slot) (dF b 16 0 64) (ceilDiv (dF b 24 0 32) 64)
  s.park tk (.build d.slot)

/-- A build that waited for its region begins to read its image (R233). -/
def State.resumeBuild (s : State) (slot : Nat) : State :=
  match s.dirAt slot, s.building slot with
  | some d, some _ =>
    if d.next.isSome || s.regionHeld d || s.reads.any (fun r => r.kind == .image slot) then s
    else s.addRead (.image slot) d.image.1 (ceilDiv d.image.2 64)
  | _, _ => s

/-- LOAD_ADAPTER and TABLE_LOAD at their read (check 0 of R255). -/
def State.loadReq (s : State) (tk : Taken) : State :=
  let h := word8 tk.bytes
  if hTag h = 0 ∨ (s.dirAt (hSlot h)).isSome ∨ dF tk.bytes 16 0 64 % 64 ≠ 0 then s.answer tk (ans 0x13 0)
  else
    s.startBuild ⟨hSlot h, h, dF tk.bytes 12 0 16, .loading, none, none, 0, (0, 0), false, false, 0, 0, 0, none, none, none, none, none, (0, []), none, none⟩ tk

/-- Charges of one copy leave the accounting at once (R293: it never came into force). -/
def State.releaseCopy (s : State) (slot : Nat) (c : Copy) : State :=
  s.release fun x => x.slot = slot && x.copy = c.head

/-- SWAP_ADAPTER with COMMIT 0 at its read. -/
def State.stageReq (s : State) (tk : Taken) : State :=
  match s.dirOf (word8 tk.bytes) with
  | some d =>
    if (d.st == .installed || d.st == .staged) && hTag d.handle != 0 && dF tk.bytes 16 0 64 % 64 = 0 then
      let s := match d.next with
        | some c => (s.releaseCopy d.slot c).clearRegion d.slot c.regionB
        | none => s
      s.startBuild { d with st := .staging, next := none } tk
    else s.answer tk (ans 0x13 0)
  | none => s.answer tk (ans 0x13 0)

/-! Leaving service. -/

/-- Updates of a row in flight. -/
def State.rowUpsOf (s : State) (slot row : Nat) : List RowUp := s.rowUps.filter fun u => u.slot = slot && u.row = row

/-- Change rows of a slot's table in force. -/
def State.updRows (s : State) (slot : Nat) (f : Nat → TRow → TRow) : State :=
  match s.dirAt slot with
  | none => s
  | some d => match d.cur with
    | none => s
    | some c => s.setDir { d with cur := some { c with rows := c.rows.zipIdx.map fun r => f r.2 r.1 } }

/-- PENDING of every row follows the updates in flight (R330). -/
def State.syncPending (s : State) (slot : Nat) : State :=
  s.updRows slot fun i r => { r with pending := !(s.rowUpsOf slot i).isEmpty }

/-- The updates of a table in flight end with an answer: CANCELLED when its copy leaves service, POISONED with it (R343, R348, R351). -/
def State.endRows (s : State) (slot : Nat) (a : Answer) : State :=
  let mine := s.taken.filter fun t => match t.pend with | .rows sl _ _ _ => sl = slot | _ => false
  let s := mine.foldl (fun (s : State) t => s.finishRows t a) s
  if !s.rowUps.any fun u => u.slot = slot then s else
  ({ s with
    rowUps := s.rowUps.filter fun u => u.slot != slot
    reads := s.reads.filter fun r => match r.kind with
      | .rowRecords k n => !mine.any fun t => t.ring = k && t.num.toNat = n
      | _ => true } : State).syncPending slot

/-- A fetch of a wagon serves tick n or an earlier one: its timetable needs it, or one built before predicted that it would. -/
def State.neededIn (s : State) (n a : Nat) : Bool :=
  let of (t : Option Timetable) : Bool := match t with
    | some t => (decide (t.tick ≤ n) && t.needs.any fun r => decide (r.1 ≤ a ∧ a < r.1 + 4352 * r.2))
        || (decide (t.tick < n) && (t.look.headD []).contains a)
    | none => false
  of s.tick.cur || of s.tick.next

/-- The state region of a slot is emptied, with what the platforms hold of it and what its tier would keep (R269, R428). -/
def State.clearState (s : State) (slot : Nat) : State :=
  let mine (a : Nat) : Bool := decide (slot * 2 ^ 30 + 2 ^ 29 ≤ a ∧ a < slot * 2 ^ 30 + 3 * 2 ^ 28)
  { s with
    adMem := memClear s.adMem (slot * 2 ^ 30 + 2 ^ 29) (slot * 2 ^ 30 + 3 * 2 ^ 28)
    frames := s.frames.filter fun f => !mine f.addr
    tierOld := s.tierOld.filter fun e => !mine e.addr }

/-- A copy in force leaves service at tick n + 1 (R268, R269, R293, R428): its moves stop, fetches that only later ticks need are
cancelled, its dirty wagons are discarded with its optimiser state, and its charges leave at TICK_ACK of tick n + 8. Write-backs and
fetches that are under way for tick n or earlier complete. -/
def State.leaveService (s : State) (d : Dir) (c : Copy) (n : Nat) : State :=
  let mine (a : Nat) : Bool := inRegion d.slot c.regionB a
  let stop_ (r : TRun) : TRun :=
    if mine r.addr then { r with dirty := 0, moving := false, dest := none, due := false, built := false } else r
  let gone (f : Frame) : Bool := mine f.addr && !s.neededIn n f.addr
  let fetched (a : Nat) : Bool := mine a && !(s.frames.any fun f => f.addr = a && !gone f)
  let s := s.endRows d.slot (ans 0x30 0)
  let s := { s with
    tmap := s.tmap.map stop_
    reads := s.reads.filter fun r => match r.kind with | .wagon a => !fetched a | _ => true
    frames := s.frames.filter fun f => !gone f
    cache := s.cache.filter fun e => e.handle != d.handle }
  (s.clearState d.slot).releaseAt d.slot (fun (x : Charge) => x.copy = c.head) (n + 8)

/-- SWAP_ADAPTER with COMMIT 1 read at tick n (R266, R270, R348). -/
def State.commitReq (s : State) (tk : Taken) : State :=
  match s.dirOf (word8 tk.bytes) with
  | some d =>
    match d.next with
    | some c =>
      if d.st == .stagedNew || d.st == .staged then
        let n := tk.readTick
        let s := match d.cur with | some o => s.leaveService d o n | none => s
        let d := (s.dirAt d.slot).getD d
        let s := s.finishWhere (fun p => match p with | .adapt sl _ => sl = d.slot | .adaptRelease sl => sl = d.slot | _ => false) (ans 0x30 0)
        let d' := { d with
          st := .installed, cur := some c, next := none, heat := 0, accFmt := c.fmt, accWag := c.wagons, opt := none, optNext := none
          conv := none, convRuns := (0, []), old := some (n + 1, d.inForceAt n), former := d.cur }
        (s.setDir d').park tk (.commit d.slot (n + 1))
      else s.answer tk (ans 0x13 0)
    | none => s.answer tk (ans 0x13 0)
  | none => s.answer tk (ans 0x13 0)

/-- RETIRE_ADAPTER read at tick n (R266, R268, R270). After a commit in the same tick the copy of tick n is still the former one (R267). -/
def State.retireReq (s : State) (tk : Taken) : State :=
  match s.dirOf (word8 tk.bytes) with
  | some d =>
    if d.st == .releasing || hTag d.handle = 0 then s.answer tk (ans 0x13 0) else
    let n := tk.readTick
    let s := match s.building d.slot with | some b => (s.dropBuild d).finish b (ans 0x30 0) | none => s
    let s := s.finishWhere (fun p => match p with | .adapt sl _ => sl = d.slot | .adaptRelease sl => sl = d.slot | _ => false) (ans 0x30 0)
    let s := match d.next with | some c => (s.releaseCopy d.slot c).clearRegion d.slot c.regionB | none => s
    let s := match d.cur with | some c => s.leaveService d c n | none => s
    let d := (s.dirAt d.slot).getD d
    let d' := { d with
      st := .releasing, next := none, opt := none, optNext := none, conv := none, convRuns := (0, []), headRead := none
      old := some (n + 1, d.inForceAt n) }
    (s.setDir d').park tk (.retire d.slot)
  | none => s.answer tk (ans 0x13 0)

/-- SET_QUOTA (R253, R254). -/
def State.quotaReq (s : State) (tk : Taken) : State :=
  let b := tk.bytes
  let t := s.tenant (dF b 8 0 16)
  let dflt := dF b 10 4 1 = 1
  let q := (List.range 4).map fun k =>
    if dF b 10 k 1 = 1 then (if dflt then none else some (BitVec.ofNat 32 (dF b (12 + 4 * k) 0 32))) else t.quota.getD k none
  (s.setTenant { t with quota := q }).answer tk (ansOk 0 0 0)

/-- The former layouts of conversions are let go where the tick that they are kept for satisfies `past` (R251). -/
def State.dropPriors (s : State) (past : Nat → Bool) : State :=
  let spent (d : Dir) : Bool := match d.prior with | some (m, _) => past m | none => false
  let gone := (s.dirs.filter spent).map (·.slot)
  if gone.isEmpty then s else
  { s with
    dirs := s.dirs.map fun d => if spent d then { d with prior := none } else d
    adMem := gone.foldl (fun m slot => memClear m (oldSpace + slot * 2 ^ 30) (oldSpace + slot * 2 ^ 30 + 2 ^ 29)) s.adMem
    stale := s.stale.filter fun e => !(decide (oldSpace ≤ e.addr) && gone.contains (slotOf e.addr))
    frames := s.frames.filter fun f => !(decide (oldSpace ≤ f.addr) && gone.contains (slotOf f.addr)) }

/-- Commits that fall due at TICK_ACK of tick n complete; handles drop their former copies (R266). -/
def State.commitsDue (s : State) (n : Nat) : State :=
  let due := s.taken.filter fun t => match t.pend with | .commit _ m => decide (m ≤ n) | _ => false
  let s := due.foldl (fun (s : State) t => match t.pend with
    | .commit slot _ =>
      let v := match s.dirAt slot with | some d => (match d.cur with | some c => c.version.toNat | none => 0) | none => 0
      s.finish t (ansOk v 0 0)
    | _ => s) s
  let s := s.dropPriors fun m => decide (m < n)
  { s with dirs := s.dirs.map fun d => match d.old with | some (m, _) => if m ≤ n then { d with old := none } else d | none => d }

/-- A copy that was in force in tick n leaves the block only after tick n's work (R268). -/
def State.stillServes (s : State) (d : Dir) : Bool :=
  match d.old with
  | some (m, some _) => decide (s.tick.count + 1 < m) || (decide (s.tick.count + 1 = m) && s.tick.active)
  | _ => false

/-- A copy region is still in use: by a fetch or a write-back under way, of an address that lies in it or in the slot's state region
(R268). -/
def State.regionBusy (s : State) (slot : Nat) (b : Bool) : Bool :=
  (s.reads.any fun r => match r.kind with
    | .wagon a => inRegion slot b a
    | .writeBack a => inRegion slot b a || decide (a / 2 ^ 28 = 4 * slot + 2)
    | _ => false)
  || s.frames.any fun f => f.group.isSome && inRegion slot b f.addr

/-- The space of what left service is free on the block, once tick n's work and every transfer of the copy is done (R266, R268, R294). What
waited for the region or its runs goes on. -/
def State.freeRegions (s : State) (slot : Nat) : State :=
  match s.dirAt slot with
  | none => s
  | some d =>
    if s.stillServes d then s
    else if d.st == .releasing then
      if s.regionBusy slot false || s.regionBusy slot true then s else
      let s := ((s.clearRegion slot false).clearRegion slot true).freeDir slot
      (s.finishWhere (fun p => p == .retire slot) (ansOk 0 0 0)).finishBuilds
    else if (d.st == .installed || d.st == .staging) && d.next.isNone && s.regionHeld d then
      if s.regionBusy slot d.buildRegion then s else
      (((s.setDir { d with former := none }).clearRegion slot d.buildRegion).resumeBuild slot).finishBuilds
    else s

/-- LOAD_ADAPTER. -/
def execLoadAdapter (s : State) : Host.Outcome State Fault Refusal :=
  .next (s.begin.withDesc (fun b => opcodeOf b = 0x20) State.loadReq)

/-- TABLE_LOAD. -/
def execTableLoad (s : State) : Host.Outcome State Fault Refusal :=
  .next (s.begin.withDesc (fun b => opcodeOf b = 0x24) State.loadReq)

/-- SWAP_ADAPTER, COMMIT 0. -/
def execSwapAdapterStage (s : State) : Host.Outcome State Fault Refusal :=
  .next (s.begin.withDesc (fun b => opcodeOf b = 0x21 && !commitOf b) State.stageReq)

/-- SWAP_ADAPTER, COMMIT 1. -/
def execSwapAdapterCommit (s : State) : Host.Outcome State Fault Refusal :=
  .next (s.begin.withDesc (fun b => opcodeOf b = 0x21 && commitOf b) State.commitReq)

/-- RETIRE_ADAPTER. -/
def execRetireAdapter (s : State) : Host.Outcome State Fault Refusal :=
  .next (s.begin.withDesc (fun b => opcodeOf b = 0x22) State.retireReq)

/-- SET_QUOTA. -/
def execSetQuota (s : State) : Host.Outcome State Fault Refusal :=
  .next (s.begin.withDesc (fun b => opcodeOf b = 0x23) State.quotaReq)

/-- LOAD_BUILD_COMPLETE: the image that a build reads has come in whole; its reads and writes are background traffic (R301). -/
def execLoadBuildComplete (slot : Nat) (image : List Byte) (s : State) : Host.Outcome State Fault Refusal :=
  let s := s.begin
  .next (if s.live && s.landMay true false then s.completeBuild slot image else s)

end Sys2Proof.Machine
end

