-- ==== Sys2Proof/Machine/Tables.lean ====
section
/-! DEFINITION. Live replacement of table rows (R340 to R351), the platform cache of rows (R336, R337) and poisoning of any object
with what it ends (R305, R351). -/
namespace Sys2Proof.Machine
open Sys2Proof

/-- Poison an object; updates of a table in flight end with POISONED (R305, R351). -/
def State.poisonObject (s : State) (slot : Nat) : State :=
  match s.dirAt slot with
  | none => s
  | some d => if d.poisoned then s else (s.poison slot).endRows slot (ans 0x51 0)

/-- The generation of a row's active slot. -/
def TRow.gen (r : TRow) : BitVec 16 := if r.active then r.gen1 else r.gen0

/-- Descriptors of row updates in flight. -/
def State.rowDescs (s : State) : List Taken := s.taken.filter fun t => match t.pend with | .rows _ _ _ _ => true | _ => false

/-- The checks of R340 and the record address (R474), for a descriptor read at the start of tick n: the copy in force is that of tick n, before
a commit read in the same tick (R266). -/
def State.rowCheck (s : State) (b : DescBytes) (n : Nat) : Option Answer × Option (Dir × Copy) :=
  let first := dF b 12 0 32
  let count := dF b 16 0 32
  match s.dirOf (word8 b) with
  | none => (some (ans 0x13 0), none)
  | some d =>
    match d.inForceAt n with
    | none => (some (ans 0x13 0), none)
    | some c =>
      if !d.st.inForce || hTag d.handle = 0 || c.kind != 3 || c.sealed || d.poisoned then (some (ans 0x13 0), none)
      else if count = 0 ∨ 65536 < count ∨ c.rows.length < first + count then (some (ans 0x18 14), none)
      else if decide (65536 ≤ s.rowDescs.length)
          || (List.range count).any fun i => decide (32767 ≤ (s.rowUpsOf d.slot (first + i)).length) then (some (ans 0x12 0x10), none)
      else if dF b 24 0 64 % 64 ≠ 0 then (some (ans 0x18 15), none)
      else (none, some (d, c))

/-- Bytes of the records of rows `first` to `first + n - 1`, with the offset of each (R224). -/
def recordOffsets (c : Copy) (first n : Nat) : List (Nat × Nat) × Nat :=
  (List.range n).foldl (fun a i =>
    let w := match c.rows[first + i]? with | some r => r.int4 | none => false
    (a.1 ++ [(first + i, a.2)], a.2 + recordBytes c.cols w)) ([], 0)

/-- A row's update may start writing: it heads the row's queue, and the inactive slot was not active in unfinished work (R343). -/
def State.mayWrite (s : State) (u : RowUp) : Bool := (s.rowUpsOf u.slot u.row).head? == some u && !s.flips.contains (u.slot, u.row)

/-- Where a descriptor's record of a row lies and its bytes (R224, R474). -/
def State.recordAt (s : State) (u : RowUp) : Option (Nat × Nat) :=
  match s.rowDescs.find? fun t => t.ring = u.ring && t.num = u.num, (s.dirAt u.slot).bind (·.cur) with
  | some tk, some c => match tk.pend with
    | .rows _ first count _ =>
      ((recordOffsets c first count).1.find? fun x => x.1 = u.row).map fun x =>
        (dF tk.bytes 24 0 64 + x.2, recordBytes c.cols (match c.rows[u.row]? with | some r => r.int4 | none => false))
    | _ => none
  | _, _ => none

/-- Updates whose turn has come go to WRITING: their records are read beneath the ticks, row by row (R343). -/
def State.startRows (s : State) : State :=
  let go (s : State) (u : RowUp) : State :=
    match if !u.started && s.mayWrite u then s.recordAt u else none with
    | some x =>
      let mark (v : RowUp) : RowUp := if v = u then { v with started := true } else v
      ({ s with rowUps := s.rowUps.map mark } : State).addRead (.rowRecords u.ring u.num.toNat) x.1 (ceilDiv x.2 64)
    | none => s
  s.rowUps.foldl go s

/-- TABLE_ROW_UPDATE at its read (R340, R342, R344). One that follows a commit of the same tick is of a copy that leaves service, and ends with it
(R343, R348, assumption log 112). -/
def State.rowUpdate (s : State) (tk : Taken) : State :=
  match s.rowCheck tk.bytes tk.readTick with
  | (some a, _) => s.answer tk a
  | (none, none) => s.answer tk (ans 0x13 0)
  | (none, some (d, c)) =>
    if d.cur != some c then s.answer tk (ans 0x30 0) else
    let first := dF tk.bytes 12 0 32
    let count := dF tk.bytes 16 0 32
    let due := tk.readTick + tk.lag
    let ups := (List.range count).map fun i =>
      let row := first + i
      let vis := match c.rows[row]? with | some r => r.gen | none => 0
      (⟨tk.ring, tk.num, d.slot, row, vis + BitVec.ofNat 16 ((s.rowUpsOf d.slot row).length + 1), due, false, false⟩ : RowUp)
    let s := { s with rowUps := s.rowUps ++ ups }
    ((s.syncPending d.slot).park tk (.rows d.slot first count due)).startRows

/-- Updates that belong to a descriptor. -/
def RowUp.of (tk : Taken) (u : RowUp) : Bool := u.ring = tk.ring && u.num = tk.num

/-- A descriptor's updates leave with what is read for them, PENDING follows, and the next updates of its rows may start. -/
def State.dropUps (s : State) (tk : Taken) (slot : Nat) : State :=
  (({ s with
    rowUps := s.rowUps.filter fun (u : RowUp) => !u.of tk
    reads := s.reads.filter fun r => r.kind != RKind.rowRecords tk.ring tk.num.toNat } : State).syncPending slot).startRows

/-- One generation follows another, by serial numbers modulo 2^16 (R342). -/
def follows (new old : BitVec 16) : Bool := decide (0 < (new - old).toNat ∧ (new - old).toNat < 32768)

/-- All rows of a written descriptor flip together, but for a row whose generation does not follow the visible one (R342, R343, R344, R346,
assumption log 112); `late` counts CNT_FLIP_LATE, `busy` says that a tick's work
is under way. -/
def State.flipDesc (s : State) (tk : Taken) (late busy : Bool) : State :=
  match tk.pend with
  | .rows slot first count _ =>
    let mine := s.rowUps.filter (RowUp.of tk)
    let gen0 := ((mine.find? fun u => u.row = first).map (·.gen)).getD 0
    let rows := match (s.dirAt slot).bind (·.cur) with | some c => c.rows | none => []
    let hit (i : Nat) : Bool := decide (first ≤ i ∧ i < first + count)
      && mine.any fun u => u.row = i && follows u.gen (((rows[i]?).map TRow.gen).getD 0)
    let s := s.updRows slot fun i r => if hit i then { r with active := !r.active } else r
    let h := match s.dirAt slot with | some d => d.handle | none => 0
    let whole := s.cache.any fun e => e.handle = h && e.row = none
    let stale (e : CacheEnt) : CacheEnt :=
      match e.row with
      | some i => if e.handle = h && hit i then { e with valid := false } else e
      | none => e
    let cache := s.cache.map stale
    let extra := if whole then
        ((List.range count).filter fun i => hit (first + i)).filterMap fun i =>
          if cache.any fun e => e.handle = h && e.row = some (first + i) then none
          else some (⟨h, some (first + i), false⟩ : CacheEnt)
      else []
    let s := { s with
      cache := cache ++ extra
      flips := if busy then s.flips ++ ((List.range count).filter fun i => hit (first + i)).map fun i => (slot, first + i) else s.flips }
    let s := if late then s.count .flipLate 1 else s
    (s.dropUps tk slot).finishRows tk (ansOk gen0.toNat 0 0)
  | _ => s

/-- Every row of a descriptor is WRITTEN. -/
def State.allWritten (s : State) (tk : Taken) : Bool := (s.rowUps.filter (RowUp.of tk)).all (·.written)

/-- The flips of TICK_ACK of tick n (R343, R344). -/
def State.flipsDue (s : State) (n : Nat) : State :=
  s.rowDescs.foldl (fun s tk => match tk.pend with
    | .rows _ _ _ due => if decide (due ≤ n) && s.allWritten tk then s.flipDesc tk (decide (due < n)) true else s
    | _ => s) s

/-- The flips that idle allows at once (R343). -/
def State.flipsIdle (s : State) : State :=
  if !s.tick.idle then s else
  s.rowDescs.foldl (fun s tk => match tk.pend with
    | .rows _ _ _ due => if s.allWritten tk then s.flipDesc tk (decide (due ≤ s.tick.count)) false else s
    | _ => s) s

/-- The records of an update's rows that are being read are written into the inactive slots, or refused (R341, R343); the rows whose turn has
not come follow later. -/
def State.rowsWritten (s : State) (ring num : Nat) (records : List Byte) : State :=
  match s.rowDescs.find? fun t => t.ring = ring && t.num.toNat = num with
  | none => s
  | some tk =>
    match tk.pend with
    | .rows slot first count _ =>
      match s.dirAt slot with
      | none => s
      | some d => match d.cur with
        | none => s
        | some c =>
          let turn (row : Nat) : Bool := s.rowUps.any fun u => u.of tk && u.row = row && u.started && !u.written
          let rows := (List.range count).filter fun i => turn (first + i)
          if rows.isEmpty then s else
          let offs := (recordOffsets c first count).1
          let recOf (row : Nat) : RowRec :=
            let w := match c.rows[row]? with | some r => r.int4 | none => false
            let o := ((offs.find? fun x => x.1 = row).map (·.2)).getD 0
            rowRecOf (records.drop o) c.cols w
          let s := { s with reads := s.reads.filter fun r => r.kind != RKind.rowRecords ring num }
          let ok := rows.all fun i =>
            let x := recOf (first + i)
            x.clean && (match c.rows[first + i]? with | some r => x.int4 == r.int4 | none => false)
          if !ok then (s.dropUps tk slot).finishRows tk (ans 0x18 15) else
          let gen (row : Nat) : BitVec 16 := (((s.rowUps.filter (RowUp.of tk)).find? fun u => u.row = row).map (·.gen)).getD 0
          let put_ (i : Nat) (r : TRow) : TRow :=
            if turn i then
              let x := recOf i
              if r.active then { r with scale0 := x.scale, zero0 := x.zero, gen0 := gen i, codes0 := x.codes }
              else { r with scale1 := x.scale, zero1 := x.zero, gen1 := gen i, codes1 := x.codes }
            else r
          let s := s.updRows slot put_
          let s := { s with rowUps := s.rowUps.map fun (u : RowUp) => if u.of tk && u.started then { u with written := true } else u }
          s.flipsIdle
    | _ => s

/-! The cache (R336, R337). -/

/-- Fewest enabled cars of a usable train (R328, R336). -/
def State.minCars (s : State) : Nat :=
  (s.usable.map fun t => ((List.range 16).filter fun c => s.clusterOn (16 * t + c)).length).foldl min 16

/-- Bytes that a cached row costs each car (R336). -/
def State.rowCost (s : State) (c : Copy) (r : TRow) : Nat := 16 + ceilDiv (ceilDiv (codeBytes c.cols r.int4) 4) (max 1 s.minCars) * 4

/-- Tables in force. -/
def State.tablesOn (s : State) : List (Dir × Copy) :=
  s.dirs.filterMap fun d => if d.st.inForce then (match d.cur with | some c => if c.kind = 3 then some (d, c) else none | none => none) else none

/-- Manifest rows of both lines whose requests name a table. -/
def State.namedBy (s : State) (h : Word) : Nat :=
  ([0, 1].flatMap fun l => (s.line l).rows.filter fun r => match s.rowReq r with | some q => q.vocab = h || q.bag = h | none => false).length

/-- Take entries in order while each fits the space left; the space counts in `unit`s. -/
def takeFitting {α : Type} (cost : α → Nat) : Nat → List α → List α × Nat
  | left, [] => ([], left)
  | left, a :: as =>
    if cost a ≤ left then let r := takeFitting cost (left - cost a) as; (a :: r.1, r.2) else takeFitting cost left as

/-- The cache selection at a step boundary; rows that stay keep their validity, rows that enter are not yet filled (R337). -/
def State.selectCache (s : State) : State :=
  let cfg := s.tableCfg
  let small := fld cfg 0 8 * 65536
  let oneSlot (c : Copy) : Nat := c.rows.foldl (fun a r => a + 16 + codeBytes c.cols r.int4) 0
  let cand := s.tablesOn.filter fun x => !x.2.split && fld cfg 0 8 != 0 && decide (oneSlot x.2 ≤ small)
  let key (x : Dir × Copy) : List Nat := [10 ^ 9 - s.namedBy x.1.handle, x.1.handle.toNat]
  let ranked := (sortBy (fun a b => keyLt a.1 b.1) (cand.map fun x => (key x, x))).map (·.2)
  let frames (x : Dir × Copy) : Nat := ceilDiv (x.2.rows.foldl (fun a r => a + s.rowCost x.2 r) 0) 4352
  let repl := takeFitting frames (fld cfg 8 8) ranked
  let hotMin := fld cfg 16 8
  let seen := s.fetched.flatMap id
  let hot := seen.filter fun f => decide (hotMin ≤ f.mult) && !repl.1.any fun x => x.1.handle = f.handle
  let hkey (f : Fetched) : List Nat := [10 ^ 9 - f.chan, 10 ^ 9 - f.band, 10 ^ 9 - f.mult, f.handle.toNat, f.row]
  let hrank := firstOf (fun (f : Fetched) => [f.handle.toNat, f.row]) []
    ((sortBy (fun a b => keyLt a.1 b.1) (hot.map fun f => (hkey f, f))).map (·.2))
  let rowOf (f : Fetched) : Option (Copy × TRow) :=
    match s.tablesOn.find? fun x => x.1.handle = f.handle with
    | some x => (x.2.rows[f.row]?).map fun r => (x.2, r)
    | none => none
  let live := hrank.filter fun f => (rowOf f).isSome
  let cost (f : Fetched) : Nat := match rowOf f with | some x => s.rowCost x.1 x.2 | none => 0
  let rows := (takeFitting cost (repl.2 * 4352) live).1
  let old (h : Word) (r : Option Nat) : Bool := s.cache.any fun e => e.handle = h && e.row = r && e.valid
  let marks := s.cache.filter fun e => !e.valid && e.row.isSome && repl.1.any fun x => x.1.handle = e.handle && old e.handle none
  { s with cache := repl.1.map (fun x => ⟨x.1.handle, none, old x.1.handle none⟩)
      ++ rows.map (fun f => ⟨f.handle, some f.row, old f.handle (some f.row)⟩) ++ marks }

/-- CACHE_FILL_DONE: a row of the selection, or the whole of a replica, holds its bytes (R339, R346). -/
def State.cacheFilled (s : State) (slot row : Nat) : State :=
  match s.dirAt slot with
  | none => s
  | some d =>
    let one := s.cache.any fun e => e.handle = d.handle && e.row = some row
    { s with cache := s.cache.map fun e =>
        if e.handle = d.handle && (if one then e.row = some row else e.row = none) then { e with valid := true } else e }

/-- TABLE_ROW_UPDATE. -/
def execTableRowUpdate (s : State) : Host.Outcome State Fault Refusal :=
  .next (s.begin.withDesc (fun b => opcodeOf b = 0x25) State.rowUpdate)

/-- ROW_UPDATE_WRITTEN. -/
def execRowUpdateWritten (ring num : Nat) (records : List Byte) (s : State) : Host.Outcome State Fault Refusal :=
  let s := s.begin
  .next (if s.live && s.landMay true true then s.rowsWritten ring num records else s)

/-- CACHE_FILL_DONE. -/
def execCacheFillDone (slot row : Nat) (s : State) : Host.Outcome State Fault Refusal :=
  let s := s.begin
  .next (if s.live && s.landMay false true then s.cacheFilled slot row else s)

end Sys2Proof.Machine
end

