-- ==== Sys2Proof/Machine/Adapt.lean ====
section
/-! DEFINITION. Online adaptation (R424 to R450): ADAPT_ENABLE, the optimiser state of R447, and the optimiser step with the
wagons it rewrites. -/
namespace Sys2Proof.Machine
open Sys2Proof

/-! Optimiser state (R447). -/

/-- Base of a slot's state region (R231). -/
def stateBase (slot : Nat) : Nat := slot * 2 ^ 30 + 2 ^ 29

/-- The 256-byte state header and the part table. -/
def stateHead (c : Copy) (o : OptSt) : List Byte :=
  padTo 256 (leBytes 1 o.opt ++ leBytes 1 o.pmask ++ leBytes 2 0 ++ o.hyper.flatMap (fun w => leBytes 4 w.toNat)
    ++ leBytes 4 c.version.toNat ++ leBytes 4 c.wagons ++ leBytes 1 c.fmt)
  ++ o.t.flatMap fun n => leBytes 4 n ++ leBytes 4 0

/-- The state of a slot, in its record and in the adapter space. -/
def State.setOpt (s : State) (d : Dir) (c : Copy) (o : OptSt) : State :=
  ({ s with adMem := memPutAll s.adMem (stateBase d.slot) (stateHead c o) } : State).setDir { d with opt := some o }

/-! ADAPT_ENABLE. -/

/-- What R424 asks of an adapter beside its optimiser state. -/
def trainableCopy (d : Dir) (c : Copy) : Bool :=
  c.trainable && c.kind = 0 && !c.shared && decide (c.form ≤ 2) && !d.poisoned

/-- Check 1 of R426. -/
def hyperOk (opt : Nat) (h : List Word) : Bool :=
  let v (k : Nat) : Word := h.getD k 0
  opt = 0 || (decide (opt ≤ 2) && h.all fpFinite && fpLe 0 (v 0) && fpLe 0 (v 1) && fpLt (v 1) fpOne && fpLe 0 (v 4)
    && fpLe 0 (v 6) && (opt = 1 || (fpLe 0 (v 2) && fpLt (v 2) fpOne && fpLt 0 (v 3))))

/-- The copy in force of a handle that may be trained (check 0). -/
def State.adaptTarget (s : State) (h : Word) : Option (Dir × Copy) :=
  if hTag h = 0 then none else
  match s.dirOf h with
  | some d => match d.cur with
    | some c => if d.st.inForce && trainableCopy d c then some (d, c) else none
    | none => none
  | none => none

/-- The charge of the optimiser state of a copy leaves the accounting at the read (R293); the state of a copy that has left service
stays charged with it. -/
def State.releaseState (s : State) (slot copy : Nat) : State :=
  s.release fun (x : Charge) => x.slot = slot && x.copy = copy && x.kind == ChargeKind.state

/-- Descriptors that wait for a state of a slot to be created. -/
def Pend.creates (slot : Nat) : Pend → Bool
  | .adapt sl _ => sl = slot
  | _ => false

/-- Create state: checks 2 to 4 of R426 with the released state counted as gone, then the charge; the zeros are written once every step that is
built for the old state has run (R427). Its size is that of the copy's format in the accounting, since a conversion under way ends first; a
creation that has not ended is CANCELLED by another (assumption log 113). -/
def State.createState (s : State) (tk : Taken) (d : Dir) (c : Copy) (o : OptSt) : State :=
  let size := stateSize { c with fmt := d.accFmt, wagons := d.accWag } o.opt
  let w := ceilDiv size 4352
  let runs := ceilDiv w 16
  let s' := s.releaseState d.slot c.head
  if 268435456 < size then s.answer tk (ans 0x12 0x30)
  else if (s'.overQuota d.tenant [(1, w)]).isSome then s.answer tk (ans 0x12 1)
  else if !s'.roomFor 1 runs 0 0 then s.answer tk (ans 0x12 9)
  else
    let charge : Charge := ⟨d.slot, c.head, .state, d.tenant, 1, w, runs, 0, none⟩
    let s := ({ s' with charges := s'.charges ++ [charge] } : State).finishWhere (Pend.creates d.slot) (ans 0x30 0)
    (s.setDir { d with opt := d.opt.map fun x => { x with closing := true }, optNext := some o }).park tk (.adapt d.slot w)

/-- The adapter form (R425 to R427). -/
def State.adaptReq (s : State) (tk : Taken) : State :=
  let b := tk.bytes
  let opt := dF b 9 0 2
  let hyper := (List.range 7).map fun k => BitVec.ofNat 32 (dF b (16 + 4 * k) 0 32)
  match s.adaptTarget (word12 b) with
  | none => s.answer tk (ans 0x13 0)
  | some (d, c) =>
    if !hyperOk opt hyper then s.answer tk (ans 0x18 16) else
    let fresh : OptSt := ⟨opt, dF b 10 0 4, hyper, c.parts.map fun _ => 0, false, false⟩
    if opt = 0 then
      match d.opt.orElse (fun _ => d.optNext) with
      | none => s.answer tk (ansOk 0 0 0)
      | some o =>
        let s := (s.releaseState d.slot c.head).finishWhere (Pend.creates d.slot) (ans 0x30 0)
        (s.setDir { d with opt := some { o with closing := true }, optNext := none }).park tk (.adaptRelease d.slot)
    else match d.opt with
      | some o =>
        if o.opt = opt && !o.closing then
          (s.setOpt d c { o with pmask := fresh.pmask, hyper := hyper }).answer tk (ansOk 0 0 0)
        else s.createState tk d c fresh
      | none => s.createState tk d c fresh

/-- The request form (R429). -/
def State.adaptRequest (s : State) (tk : Taken) : State :=
  match s.reqOf (word12 tk.bytes) with
  | none => s.answer tk (ans 0x15 0)
  | some r => (s.setReq { r with adapt := dF tk.bytes 16 0 1 = 1, trainMask := dF tk.bytes 17 0 4 }).answer tk (ansOk 0 0 0)

/-- A handle has steps in a timetable. -/
def stepsBuilt (t : Option Timetable) (h : Word) : Bool :=
  match t with
  | some tt => tt.hdr.kind = 3 && tt.plan.any fun p => p.passes.any fun q => q.any fun g => g.handle = h
  | none => false

/-- Something of a slot waits to be written back, or is being written back; nothing of a poisoned object is (R305). -/
def State.owesBacks (s : State) (d : Dir) : Bool :=
  !d.poisoned && ((s.tmap.any fun r => slotOf r.addr = d.slot && r.dirty != 0) || (s.tierOld.any fun e => slotOf e.addr = d.slot)
    || s.reads.any fun (r : FmRead) => match r.kind with | .writeBack a => slotOf a = d.slot | _ => false)

/-- A released state's space may not be freed yet: a step that is built has not run, or a write-back has not landed (R427). -/
def State.stateBusy (s : State) (d : Dir) : Bool :=
  (s.tick.active && stepsBuilt s.tick.cur d.handle) || stepsBuilt s.tick.next d.handle || s.owesBacks d

/-- A created state stands: its zeros have landed, under a header for the copy as it is (R427, R447). -/
def State.installState (s : State) (slot : Nat) : State :=
  match s.dirAt slot with
  | none => s
  | some d =>
    match d.cur, d.optNext with
    | some c, some o =>
      if d.conv.isSome then s else
      let s := s.setOpt { d with optNext := none } c { o with ready := true }
      (s.taken.filter fun t => t.pend.creates slot).foldl
        (fun (s : State) t => match t.pend with | .adapt _ w => s.finish t (ansOk w 0 0) | _ => s) s
    | _, _ => s

/-- A released state's space is freed once every step built has run and every write-back has landed, and the zeros of a new state land
(R427). -/
def State.stateReady (s : State) (slot : Nat) : State :=
  match s.dirAt slot with
  | none => s
  | some d =>
    match d.opt with
    | none => s.installState slot
    | some o =>
      if !o.closing || s.stateBusy d then s else
      (((s.clearState slot).setDir { d with opt := none }).finishWhere (fun p => p == .adaptRelease slot) (ansOk 0 0 0)).installState slot

/-! The step count (R441). -/

/-- A build that schedules a part's step advances its count. -/
def State.countStep (s : State) (h : Header) (stop : Nat) (g : Seg) : State :=
  match s.dirOf g.handle with
  | some d => match d.cur, d.opt with
    | some c, some o =>
      let hit (p : Part) : Bool := p.layer = h.layer && p.stop = stop && p.expert = 0 && !p.router
      let t := (c.parts.zip o.t).map fun x => if hit x.1 then min (2 ^ 32 - 1) (x.2 + 1) else x.2
      if g.visits.isEmpty || o.closing then s else s.setOpt d c { o with t := t }
    | _, _ => s
  | none => s

/-- Every step of a built BACKWARD timetable advances its part's count. -/
def State.countSteps (s : State) (h : Header) (plan : List StopPlan) : State :=
  if h.kind ≠ 3 then s else
  plan.foldl (fun s p => (p.passes.flatMap id).foldl (fun s g => s.countStep h p.stop g) s) s

/-- The steps that a BACKWARD timetable schedules: what they use is as it stands at the build, with the advanced count (R427, R441). -/
def State.stepPlans (s : State) (h : Header) (n : Nat) (plan : List StopPlan) : List StepPlan :=
  if h.kind ≠ 3 then [] else
  plan.flatMap fun p => (p.passes.flatMap id).filterMap fun g =>
    match s.dirOf g.handle with
    | some d => match d.cur, d.opt with
      | some c, some o =>
        let hit (x : Part) : Bool := x.layer = h.layer && x.stop = p.stop && x.expert = 0 && !x.router
        let t := match (c.parts.zip o.t).find? fun x => hit x.1 with | some x => min (2 ^ 32 - 1) (x.2 + 1) | none => 0
        if g.visits.isEmpty || o.closing then none else some ⟨p.stop, g.handle, o.opt, o.pmask, o.hyper, t, n, c.head, []⟩
      | _, _ => none
    | none => none

/-! The step (R440 to R446). -/

/-- Logical tile and column of row element j of wagon w (R209). -/
def tileOf (fmt w j : Nat) : Nat × Nat :=
  if fmt = 0 then (w / 2, 32 * (w % 2) + j) else if fmt = 4 then (2 * w + j / 64, j % 64) else (w, j)

/-- The slot at a lane, tile and column holds an element of the down factor A (R208). -/
def slotInA (r inW lane tile col : Nat) : Bool :=
  if r < 64 then decide (lane < 64 / r * r) && decide (tile * 64 + col < inW / (64 / r))
  else
    let t := ceilDiv inW 64
    decide (tile / t * 64 + lane < r) && decide (tile % t * 64 + col < inW)

/-- The slot holds an element of the up factor B (R208). -/
def slotInB (r outW lane tile col : Nat) : Bool :=
  if r ≤ 64 then
    let g := 64 / r
    decide (col / r < g) && decide ((tile * g + col / r) * 64 + lane < outW)
  else
    let w := ceilDiv r 64
    decide (tile % w * 64 + col < r) && decide (tile / w * 64 + lane < outW)

/-- Role of wagon w of a part (R210): 0 A, 1 B, 2 s, 3 v, with its index within the role. -/
def wagonRole (p : Part) (w : Nat) : Nat × Nat :=
  if w < p.aW then (0, w) else if w < p.aW + p.bW then (1, w - p.aW)
  else if w < p.aW + p.bW + p.sW then (2, w - p.aW - p.bW) else (3, w - p.aW - p.bW - p.sW)

/-- Element slot `i` of a wagon holds an element (R208, R442). `vec32` is the wagon's VEC32. -/
def slotUsed (p : Part) (fmt role idx : Nat) (vec32 : Bool) (i : Nat) : Bool :=
  let r := 8 * (p.rank8 + 1)
  let e := rowCount fmt
  let tc := tileOf fmt idx (i % e)
  if role = 0 then slotInA r (p.inW64 * 64) (i / e) tc.1 tc.2
  else if role = 1 then slotInB r (p.outW64 * 64) (i / e) tc.1 tc.2
  else decide (idx * (if vec32 then 1024 else 2048) + i < p.outW64 * 64 ∧ i < if vec32 then 1024 else 2048)

/-- The element that a slot of a wagon holds: (k, l) of A, (c, k) of B, (c, 0) of a vector (R207 to R209). -/
def slotElem (p : Part) (fmt role idx : Nat) (vec32 : Bool) (i : Nat) : Nat × Nat :=
  let r := 8 * (p.rank8 + 1)
  let e := rowCount fmt
  let lane := i / e
  let tile := (tileOf fmt idx (i % e)).1
  let col := (tileOf fmt idx (i % e)).2
  if role = 0 then
    if r < 64 then (lane % r, lane / r * (p.inW64 * 64 / (64 / r)) + tile * 64 + col)
    else (tile / p.inW64 * 64 + lane, tile % p.inW64 * 64 + col)
  else if role = 1 then
    if r ≤ 64 then ((tile * (64 / r) + col / r) * 64 + lane, col % r)
    else (tile / ceilDiv r 64 * 64 + lane, tile % ceilDiv r 64 * 64 + col)
  else (idx * (if vec32 then 1024 else 2048) + i, 0)

/-- The step of an element (R442): y, the moments m and v, and w. -/
structure StepOut where
  y : Word
  m : Word
  v : Word
  w : Word
  deriving DecidableEq, Repr

/-- Held within ±c. -/
def fpClip (c y : Word) : Word :=
  let a := if fpLt y (fpNeg c) then fpNeg c else y
  if fpLt c a then c else a

/-- One element's step, in the order R442 writes it; c1 and c2 are the part's corrections. -/
def stepElem (k : StepPlan) (c1 c2 g w m v : Word) : StepOut :=
  let h (i : Nat) : Word := k.hyper.getD i 0
  let y := if fpLt 0 (h 6) then fpClip (h 6) (fpMul (h 5) g) else fpMul (h 5) g
  if k.opt = 1 then
    let m' := fpAdd (fpMul (h 1) m) y
    ⟨y, m', v, fpSub w (fpMul (h 0) (fpAdd m' (fpMul (h 4) w)))⟩
  else
    let m' := fpAdd (fpMul (h 1) m) (fpMul (fpSub fpOne (h 1)) y)
    let v' := fpAdd (fpMul (h 2) v) (fpMul (fpSub fpOne (h 2)) (fpMul y y))
    let dir := fpDiv (fpDiv m' c1) (fpAdd (fpSqrt (fpDiv v' c2)) (h 3))
    ⟨y, m', v', fpSub w (fpMul (h 0) (fpAdd dir (fpMul (h 4) w)))⟩

/-- 1 − pow(B, t) for hyperparameter `i` (R442). -/
def StepPlan.correction (k : StepPlan) (i : Nat) : Word := fpSub fpOne (powWord (k.hyper.getD i 0) k.t)

/-- The value at an element slot of a wagon (R201, R207). -/
def slotVal (fmt role : Nat) (vec32 : Bool) (wag : List Byte) (i : Nat) : Word :=
  if role ≤ 1 then deqVal fmt false (fun b => wag.getD b 0) (i / rowCount fmt) (i % rowCount fmt)
  else if vec32 then BitVec.ofNat 32 (bytesAt wag (4 * i) 4)
  else ofBf16 (BitVec.ofNat 16 (bytesAt wag (2 * i) 2))

/-- A wagon of a part and its moments as the step leaves them, and whether every y, moment and w is finite (R443). -/
structure SteppedWagon where
  idx     : Nat
  bytes   : List Byte
  moments : List Byte
  finite  : Bool
  deriving DecidableEq, Repr

/-- The payload, SCALE and ZERO of a factor wagon from its slots' values (R444). -/
def factorBytes (fmt tick addr : Nat) (old : List Byte) (vals : List Word) : List Byte :=
  let e := rowCount fmt
  let rows := (List.range 64).map fun l =>
    requantRow fmt (drawOf tick addr l) (BitVec.ofNat 16 (bytesAt old (4096 + 2 * l) 2)) (old.getD (4224 + l) 0) ((vals.drop (l * e)).take e)
  rows.flatMap (·.1) ++ rows.flatMap (fun r => leBytes 2 r.2.1.toNat) ++ rows.map (·.2.2)

/-- Those of a vector wagon: fp32 elements exactly, bf16 elements drawn; slots that hold no element stand (R444). A vector wagon has FMT 0,
whose rows hold 32 elements (R203, R205), so element i draws as element i mod 32 of row i ÷ 32 (R219). -/
def vectorBytes (tick addr : Nat) (vec32 : Bool) (old : List Byte) (slots : List (Bool × Word)) : List Byte :=
  let n := if vec32 then 1024 else 2048
  let elem (x : (Bool × Word) × Nat) : List Byte :=
    if vec32 then (if x.1.1 then leBytes 4 x.1.2.toNat else (old.drop (4 * x.2)).take 4)
    else if x.1.1 then leBytes 2 (bf16Draw (drawOf tick addr (x.2 / 32) (x.2 % 32)) x.1.2).toNat
    else (old.drop (2 * x.2)).take 2
  ((slots.take n).zipIdx.flatMap elem) ++ (old.drop 4096).take 192

/-- The step of wagon w of a part: every element takes its step with its summed gradient, free within the bound of R439; the rows are
stored again, the header stands and the CRC follows (R442 to R444). -/
def State.steppedWagon (s : State) (x : Stop) (d : Dir) (c : Copy) (k : StepPlan) (p : Part) (w : Nat) : SteppedWagon :=
  let role := wagonRole p w
  let n := momentSlots c.fmt
  let free := s.free + w * n
  let a := wagonAt d.slot c (p.first + w)
  let m := stateBase d.slot + momentBase c.parts.length + (p.first + w) * momentBlock c.fmt k.opt
  let old := memGetAll s.adMem a 4352
  let mom := memGetAll s.adMem m (momentBlock c.fmt k.opt)
  let vec32 := bytesAt old (4096 + 193) 1 / 16 % 2 = 1
  let at4 (i : Nat) : Word := BitVec.ofNat 32 (bytesAt mom (4 * i) 4)
  let c1 := k.correction 1
  let c2 := k.correction 2
  let slots : List (Bool × StepOut) := (List.range n).map fun i =>
    let v := slotVal c.fmt role.1 vec32 old i
    let e := slotElem p c.fmt role.1 role.2 vec32 i
    if slotUsed p c.fmt role.1 role.2 vec32 i then
      let g := (s.gradRef x d.slot role.1 e.1 e.2).pick (Config.gradient (free + i)) 1 16 24 1
      (true, stepElem k c1 c2 g v (at4 i) (at4 (n + i)))
    else (false, ⟨0, 0, 0, v⟩)
  let front := if role.1 ≤ 1 then factorBytes c.fmt k.tick a old (slots.map (·.2.w))
    else vectorBytes k.tick a vec32 old (slots.map fun x => (x.1, x.2.w))
  let body := front ++ (old.drop 4288).take 60
  { idx := w, bytes := body ++ leBytes 4 (crc32c body).toNat
    moments := slots.flatMap (fun x => leBytes 4 x.2.m.toNat) ++ (if k.opt = 2 then slots.flatMap (fun x => leBytes 4 x.2.v.toNat) else [])
    finite := slots.all fun x => !x.1 || (fpFinite x.2.y && fpFinite x.2.m && fpFinite x.2.v && fpFinite x.2.w) }

/-- What the tier holds of an address stands while the frame is dirty: kept at the first step, with the tick of the latest (R262, R295). -/
def State.keepTier (s : State) (tick a n : Nat) : State :=
  if s.tierOld.any fun e => e.addr = a then
    { s with tierOld := updWhere (fun (e : TierCopy) => e.addr = a) (fun e => { e with tick := tick }) s.tierOld }
  else { s with tierOld := s.tierOld ++ [⟨a, tick, memGetAll s.adMem a n, none⟩] }

/-- A stepped wagon and its moments are written, its DIRTY bit set, a write-back of either under way to be followed by another
(R295, R297, R445). -/
def State.putWagon (d : Dir) (c : Copy) (k : StepPlan) (p : Part) (s : State) (x : SteppedWagon) : State :=
  let n := p.first + x.idx
  let a := wagonAt d.slot c n
  let m := stateBase d.slot + momentBase c.parts.length + n * momentBlock c.fmt k.opt
  let run := regionBase d.slot c.regionB + c.bodyOff + n / 16 * 69632
  let mark (r : TRun) : TRun := if r.addr = run then { r with dirty := r.dirty ||| BitVec.ofNat 16 (2 ^ (n % 16)) } else r
  let s := (s.keepTier k.tick a 4352).keepTier k.tick m x.moments.length
  let redo (y : FmRead) : FmRead := if y.kind = .writeBack a || y.kind = .writeBack m then { y with again := true } else y
  { s with
    reads := s.reads.map redo
    adMem := memPutAll (memPutAll s.adMem a x.bytes) m x.moments
    tmap := s.tmap.map mark }

/-- A step of a part is abandoned (R448). -/
def State.abandonStep (s : State) : State :=
  (s.count .optAbandoned 1).updTick fun t => { t with abandoned := t.abandoned + 1 }

/-- The step that the executing timetable schedules for a segment's part (R440, R441). -/
def State.stepPlanOf (s : State) (stop : Nat) (h : Word) : Option StepPlan :=
  match s.tick.cur with
  | some t => t.steps.find? fun k => k.stop = stop && k.handle = h
  | none => none

/-- The step of one segment of a BACKWARD stop: the whole step is formed from the old wagons, and nothing of it is kept where a value
is not finite (R440, R443, R448). -/
def State.optStep (x : Stop) (s : State) (g : Seg) : State :=
  match s.dirOf g.handle, s.stepPlanOf x.stop g.handle with
  | some d, some k =>
    match d.cur, d.opt with
    | some c, some o =>
      match s.partAt c s.curHdr.layer x.stop with
      | none => s
      | some p =>
        if g.visits.isEmpty || d.poisoned || !o.ready || o.opt != k.opt || k.copy != c.head then s
        else if g.visits.any fun v => s.rowEnded x v.row then s.abandonStep
        else
          let wagons := (List.range (p.aW + p.bW + p.sW + p.vW)).filter fun w => k.pmask / 2 ^ (wagonRole p w).1 % 2 = 1
          let made := wagons.map (s.steppedWagon x d c k p)
          let s := { s with free := s.free + (p.aW + p.bW + p.sW + p.vW) * momentSlots c.fmt }
          if made.any fun y => !y.finite then
            (s.count .gradNonfinite 1).updTick fun t => { t with abandoned := t.abandoned + 1 }
          else ((made.foldl (State.putWagon d c k p) s).count .optStep 1).updTick fun t => { t with steps := t.steps + 1 }
    | _, _ => s
  | _, _ => s

/-- The steps of a BACKWARD stop, after its last GRAD (R440). -/
def State.optSteps (s : State) (x : Stop) : State :=
  if s.curHdr.kind ≠ 3 then s else (x.plan.passes.flatMap id).foldl (State.optStep x) s

/-- The steps of a stop whose OPT has not run are abandoned (R39, R448). -/
def State.abandonSteps (s : State) (p : StopPlan) : State :=
  (p.passes.flatMap id).foldl (fun s g =>
    match s.dirOf g.handle with
    | some d => if g.visits.isEmpty || d.poisoned || d.opt.isNone then s else s.abandonStep
    | none => s) s

/-! Write-back (R296 to R299). -/

/-- Host address of an adapter-space address whose run lies in a pool of T2 to T4 (R242, R245); 0 in T1. -/
def State.poolAddr (s : State) (a : Nat) : Nat :=
  match s.runOf a with
  | some r => if 2 ≤ r.src then s.addr64 (0x4020 + 16 * (r.src - 2)) + r.loc.toNat * 69632 + (a - r.addr) else 0
  | none => 0

/-- A write-back starts: as writes over FM to a pool, within the block to the depot (R296, R527); what it carries is what the frame holds
then. -/
def State.startWriteBack (s : State) (a : Nat) : State :=
  if s.writingBack a then s
  else
    let carry (e : TierCopy) : TierCopy := { e with sent := some (e.tick, memGetAll s.adMem a e.bytes.length) }
    let s := { s with
      tierOld := updWhere (fun (e : TierCopy) => e.addr = a) carry s.tierOld
      nextId := s.nextId + 1
      reads := s.reads ++ [⟨s.nextId, 0, .writeBack a, 0, 68, 0, [], false, false, 0⟩] }
    if 2 ≤ s.tierOf a then s.addWrite (.writeBack a) (s.poolAddr a) (memGetAll s.adMem a 4352) [] else s

/-- The tick whose step dirtied an address, as its write-backs are ordered (R297). -/
def State.stepTick (s : State) (a : Nat) : Nat := ((s.tierOld.find? fun e => e.addr = a).map (·.tick)).getD 0

/-- Dirty wagons that may be written back, in the order of R297: of runs that are not moving, of objects that are not poisoned
(R250, R305). -/
def State.dirtyWagons (s : State) : List Nat :=
  (sortBy (fun a b => keyLt a.1 b.1) (s.backAddrs.map fun a => ([s.stepTick a, a], a))).map (·.2)

/-- The moment block of a trained wagon (R447). -/
def State.momentsOf (s : State) (a : Nat) : Option Nat :=
  match s.dirAt (a / 2 ^ 30) with
  | some d => match d.cur, d.opt with
    | some c, some o => some (stateBase d.slot + momentBase c.parts.length
        + (a - wagonAt d.slot c 0) / 4352 * momentBlock c.fmt o.opt)
    | _, _ => none
  | none => none

/-- The cars other than the one that holds and updates a wagon let it go at the end of the tick whose step wrote it (R446). -/
def State.outdated (s : State) (f : Frame) : Bool :=
  match s.tick.cur with
  | some t =>
    let held := t.steps.flatMap (·.cars)
    s.stepTick f.addr = s.tick.count && s.isDirty f.addr && (held.any fun x => x.1 = f.addr) && !held.contains (f.addr, f.cluster)
  | none => false

/-- The write-back of a dirty wagon and of its state block is issued, unless one is under way (R296, R445). -/
def State.writeBackOf (s : State) (a : Nat) : State :=
  if s.writingBack a || !s.dirtyWagons.contains a then s else
  let s := s.startWriteBack a
  match s.momentsOf a with | some m => s.startWriteBack m | none => s

/-- The write-backs of every dirty wagon are issued, as in idle (R309). -/
def State.writeBacks (s : State) : State := s.dirtyWagons.foldl State.writeBackOf s

/-- ADAPT_ENABLE, adapter form. -/
def execAdaptEnableAdapter (s : State) : Host.Outcome State Fault Refusal :=
  .next (s.begin.withDesc (fun b => opcodeOf b = 0x26 && dF b 8 0 1 = 0) State.adaptReq)

/-- ADAPT_ENABLE, request form. -/
def execAdaptEnableRequest (s : State) : Host.Outcome State Fault Refusal :=
  .next (s.begin.withDesc (fun b => opcodeOf b = 0x26 && dF b 8 0 1 = 1) State.adaptRequest)

/-- ADAPT_STATE_READY. -/
def execAdaptStateReady (slot : Nat) (s : State) : Host.Outcome State Fault Refusal :=
  let s := s.begin
  .next (if s.live then s.stateReady slot else s)

end Sys2Proof.Machine
end

