-- ==== Sys2Proof/Machine/Convert.lean ====
section
/-! DEFINITION. Conversions of a copy's factor wagons (R215 to R217, R220): widening int4 to E4M3, and narrowing any
format to int4. -/
namespace Sys2Proof.Machine
open Sys2Proof

/-! Building wagons. -/

/-- Payload, SCALE, ZERO and a header with FMT, MX6V and WAGON_IDX set, and the CRC over them (R204, R205, R215). -/
def buildWagon (payload scale zero header : List Byte) (fmt idx : Nat) (vector : Bool) : List Byte :=
  let b1 := if vector then header.getD 1 0 else BitVec.ofNat 8 fmt
  let h := header.take 1 ++ [b1] ++ (header.drop 2).take 4 ++ leBytes 2 idx ++ header.drop 8
  let body := padTo 4096 payload ++ padTo 128 scale ++ padTo 64 zero ++ h
  body ++ leBytes 4 (crc32c body).toNat

/-- The header bytes of a wagon. -/
def wagonHeader (wag : List Byte) : List Byte := (wag.drop 4288).take 60

/-- The E4M3 encoding of an int4 code (R216). -/
def codeE4m3 (v : Nat) : Byte :=
  let m := if v < 8 then v else 16 - v
  let e : Nat := [0x00, 0x38, 0x40, 0x44, 0x48, 0x4A, 0x4C, 0x4E, 0x50].getD m 0
  BitVec.ofNat 8 (e + (if v < 8 then 0 else 128))

/-- Half `h` of a widened int4 wagon (R216). -/
def widenWagon (wag : List Byte) (h idx : Nat) : List Byte :=
  let payload := (List.range 64).flatMap fun l => (List.range 64).map fun j => codeE4m3 (elemBits 4 (fun i => wag.getD i 0) l (64 * h + j))
  buildWagon payload ((wag.drop 4096).take 128) ((wag.drop 4224).take 64) (wagonHeader wag) 1 idx false

/-- A narrowed wagon: the columns of tiles 2w and 2w + 1 of a factor whose source wagons are given (R209, R217). `addr` is its
address. -/
def narrowWagon (fmt : Nat) (mx6v : Bool) (src : List (List Byte)) (tick addr w idx : Nat) : List Byte :=
  let val (l j : Nat) : Word :=
    let tile := 2 * w + j / 64
    let col := j % 64
    let k := if fmt = 0 then 2 * tile + col / 32 else tile
    match src[k]? with
    | some wag => deqVal fmt mx6v (fun i => wag.getD i 0) l (if fmt = 0 then col % 32 else col)
    | none => 0
  let rows := (List.range 64).map fun l => narrowRow tick addr l ((List.range 128).map (val l))
  let first := src.getD (if fmt = 0 then 4 * w else 2 * w) []
  buildWagon (rows.flatMap fun r => packNibbles r.codes) (rows.flatMap fun r => leBytes 2 r.scale.toNat)
    (rows.map fun r => intByte r.zero) (wagonHeader first) 4 idx false

/-! A copy in another format. -/

/-- Wagons of a factor once narrowed to int4, whatever its present format. -/
def narrowed (fmt n : Nat) : Nat := if fmt = 4 then n else if fmt = 0 then ceilDiv (n / 2) 2 else ceilDiv n 2

/-- Wagons of a factor in a target format, int4 or E4M3 (R216, R217). -/
def convCount (fmt target n : Nat) : Nat := if target = 4 then narrowed fmt n else 2 * narrowed fmt n

/-- Wagons of a part in a target format. -/
def Part.convWagons (p : Part) (fmt target : Nat) : Nat :=
  convCount fmt target p.aW + convCount fmt target p.bW + p.sW + p.vW + p.xW

/-- Wagons of a copy in a target format. -/
def Copy.convWagons (c : Copy) (target : Nat) : Nat := c.parts.foldl (fun a p => a + p.convWagons c.fmt target) 0

/-- The part table after a conversion: the parts keep their order (R215). -/
def Copy.convParts (c : Copy) (target : Nat) : List Part :=
  c.parts.map fun p =>
    let first := c.parts.foldl (fun a q => if q.first < p.first then a + q.convWagons c.fmt target else a) 0
    { p with first := first, aW := convCount c.fmt target p.aW, bW := convCount c.fmt target p.bW }

/-- Wagon w of a copy as it lies in the adapter space. -/
def State.wagonBytes (s : State) (slot : Nat) (c : Copy) (w : Nat) : List Byte := memGetAll s.adMem (wagonAt slot c w) 4352

/-- The source wagons of wagon `i` of a converted factor that had `n`. -/
def convSources (fmt target i n : Nat) : List Nat :=
  let xs := if target = 1 then [i / 2] else if fmt = 0 then [4 * i, 4 * i + 1, 4 * i + 2, 4 * i + 3] else [2 * i, 2 * i + 1]
  xs.filter fun x => decide (x < n)

/-- The wagons of one part in its new form, each with the wagons of the copy that it comes from; `base` is the address of the
part's first new wagon. -/
def State.convPart (s : State) (slot : Nat) (c : Copy) (target base : Nat) (p : Part) : List (List Byte × List Nat) :=
  let a' := convCount c.fmt target p.aW
  let b' := convCount c.fmt target p.bW
  let factor (from_ n off i : Nat) : List Byte × List Nat :=
    let src := (List.range n).map fun k => s.wagonBytes slot c (from_ + k)
    let w := if target = 1 then widenWagon (src.getD (i / 2) []) (i % 2) (off + i)
      else narrowWagon c.fmt c.mx6v src s.tick.count (base + 4352 * (off + i)) i (off + i)
    (w, (convSources c.fmt target i n).map (from_ + ·))
  let other (k : Nat) : List Byte × List Nat :=
    let w := s.wagonBytes slot c (p.first + p.aW + p.bW + k)
    (buildWagon (w.take 4096) ((w.drop 4096).take 128) ((w.drop 4224).take 64) (wagonHeader w) 0 (a' + b' + k) true,
      [p.first + p.aW + p.bW + k])
  (List.range a').map (factor p.first p.aW 0) ++ (List.range b').map (factor (p.first + p.aW) p.bW a')
  ++ (List.range (p.sW + p.vW + p.xW)).map other

/-- A factor wagon of the copy holds a non-finite value (R202). -/
def State.copyNonfinite (s : State) (slot : Nat) (c : Copy) : Bool :=
  c.parts.any fun p => (List.range (p.aW + p.bW)).any fun k => wagonNonfinite c.fmt c.mx6v (s.wagonBytes slot c (p.first + k))

/-- The header bytes that a conversion rewrites, with the part table (R215). -/
def State.convHeader (s : State) (base bodyOff target wagons : Nat) (parts : List Part) : State :=
  let m := memPut s.adMem (base + 12) (BitVec.ofNat 8 target)
  let m := memPutAll m (base + 28) (leBytes 4 wagons)
  let m := memPutAll m (base + 36) (leBytes 4 (bodyOff + wagons * 4352))
  { s with adMem := parts.zipIdx.foldl (fun m x =>
      memPutAll m (base + 256 + 32 * x.2 + 8) (leBytes 4 x.1.first ++ leBytes 2 x.1.aW ++ leBytes 2 x.1.bW)) m }

/-- The last tick whose build began before now and whose work is not done; none when there is none (R251). -/
def State.builtAhead (s : State) : Option Nat :=
  if s.tick.next.isSome || s.inputs.isSome then some (s.tick.count + 1) else none

/-- What ticks built before a remap still read of a copy: its old bytes, runs and frames, above the adapter space; without such a tick
all of it is let go (R251). -/
def State.keepFormer (s : State) (d : Dir) (c : Copy) : State :=
  let mine (a : Nat) : Bool := inRegion d.slot c.regionB a
  let body := regionBase d.slot c.regionB + c.bodyOff
  let rename (f : Frame) : Frame := if mine f.addr then { f with addr := oldSpace + f.addr } else f
  match s.builtAhead with
  | none => { s with frames := s.frames.filter fun f => !mine f.addr }
  | some m =>
    { s with
      adMem := memPutAll s.adMem (oldSpace + body) (memGetAll s.adMem body (c.wagons * 4352))
      stale := s.stale ++ (s.tmap.filter fun r => mine r.addr).map fun r => ⟨oldSpace + r.addr, r.src, r.loc, m⟩
      frames := s.frames.map rename }

/-- The runs of a converted copy, in the places taken for them; a wagon made from a dirty one is dirty. -/
def convRunsOf (body tier n : Nat) (places dirty : List Nat) : List TRun :=
  let mark (r : TRun) : TRun := { r with dirty := dirty.foldl (fun a w =>
      if r.addr = body + w / 16 * 69632 then a ||| BitVec.ofNat 16 (2 ^ (w % 16)) else a) 0 }
  (giveRuns (newRuns body tier n 0) places).map mark

/-- Convert the copy in force of a slot: its wagons, its header, its record and its runs, all of which lie in `tier` (R215, R251,
R292). Ticks built before still read its former layout. -/
def State.convertCopy (s : State) (d : Dir) (c : Copy) (target tier : Nat) : State :=
  let parts := c.convParts target
  let total := c.convWagons target
  let body := regionBase d.slot c.regionB + c.bodyOff
  let made := (c.parts.zip parts).map fun x => (x.2.first, s.convPart d.slot c target (body + 4352 * x.2.first) x.1)
  let dirtyOld (w : Nat) : Bool := s.tmap.any fun r => r.addr = body + w / 16 * 69632 && r.dirty.getLsbD (w % 16)
  let dirtyNew := made.flatMap fun x => (x.2.zipIdx.filter fun y => y.1.2.any dirtyOld).map fun y => x.1 + y.2
  let runs := convRunsOf body tier (ceilDiv total 16) d.convRuns.2 dirtyNew
  let prior := match s.builtAhead with
    | some m => some (m, { c with bodyOff := oldSpace + c.bodyOff })
    | none => none
  let s := s.keepFormer d c
  let m := made.foldl (fun m x => x.2.zipIdx.foldl (fun m y => memPutAll m (body + 4352 * (x.1 + y.2)) y.1.1) m)
    (memClear s.adMem body (body + 4352 * max total c.wagons))
  let s := { s.dropRuns d.slot c.regionB with
    adMem := m, tierOld := s.tierOld.filter fun e => !inRegion d.slot c.regionB e.addr }
  let s := ({ s with tmap := s.tmap ++ runs } : State).convHeader (regionBase d.slot c.regionB) c.bodyOff target total parts
  s.setDir { d with
    conv := none, convRuns := (0, []), prior := prior
    cur := some { c with fmt := target, mx6v := false, wagons := total, parts := parts } }

end Sys2Proof.Machine
end

