-- ==== Sys2Proof/Machine/Moves.lean ====
section
/-! DEFINITION. Decided moves and conversions on the block (R249 to R251, R292, R294): when a run sets MOVING, and which run it is. -/
namespace Sys2Proof.Machine
open Sys2Proof

/-- Runs of a copy. -/
def ofCopy (d : Dir) (c : Copy) (r : TRun) : Bool := inRegion d.slot c.regionB r.addr

/-- First layer that a run of a copy holds. -/
def Copy.runLayer (d : Dir) (c : Copy) (r : TRun) : Nat :=
  let lo := (r.addr - (regionBase d.slot c.regionB + c.bodyOff)) / 4352
  (c.parts.filter fun p => decide (p.first < lo + 16 ∧ lo < p.first + p.wagons)).foldl (fun a p => min a p.layer) 1024

/-- The copy in force that owns a run. -/
def State.ownerOf (s : State) (a : Nat) : Option (Dir × Copy) :=
  match s.dirAt (slotOf a) with
  | some d => match d.cur with
    | some c => if inRegion d.slot c.regionB a then some (d, c) else none
    | none => none
  | none => none

/-- Something of a run is dirty or being written back (R250). -/
def State.runBusy (s : State) (r : TRun) : Bool :=
  r.dirty != 0 || s.reads.any fun (x : FmRead) => match x.kind with
    | .writeBack a => decide (r.addr ≤ a ∧ a < r.addr + 69632)
    | _ => false

/-- The run of a copy whose turn it is: in ascending order of the first layer that it holds, then of address, the first that is decided
and neither remapped nor built (R292). -/
def State.nextMove (s : State) (d : Dir) (c : Copy) : Option TRun :=
  let due := s.tmap.filter fun r => ofCopy d c r && r.due && !r.built
  ((sortBy (fun a b => keyLt a.1 b.1) (due.map fun r => ([c.runLayer d r, r.addr], r))).map (·.2)).head?

/-- MOVING is set on a run. -/
def State.setMoving (s : State) (a : Nat) (dest : Option Word) : State :=
  { s with tmap := updWhere (fun (r : TRun) => r.addr = a) (fun r => { r with moving := true, dest := dest }) s.tmap }

/-- Where a moved run starts to look for its place: behind the place of the run before it in the copy, where that lies or is being moved in the
same tier, so that consecutive runs stripe over the channels (R240); else where the block will (R247). -/
def State.moveStart (s : State) (r : TRun) : Nat :=
  match s.tmap.find? fun q => q.addr + 69632 = r.addr && q.tier = r.tier with
  | some q => match q.dest with
    | some l => l.toNat + 1
    | none => if q.src = r.tier then q.loc.toNat + 1 else (Config.freeWord s.free).toNat
  | none => (Config.freeWord s.free).toNat

/-- The next run of a copy's decided move or conversion begins, unless something of it is dirty or being written back, or the places that
it needs are still occupied; a conversion takes places for all its new runs at its first (R250, R292, R294). -/
def State.startMove (s : State) (d : Dir) : State :=
  match d.cur with
  | none => s
  | some c =>
    match s.nextMove d c with
    | none => s
    | some r =>
      if r.moving || s.runBusy r || d.poisoned then s else
      match d.conv with
      | some f =>
        let n := ceilDiv (c.convWagons f) 16
        if d.convRuns.2.length = n then s.setMoving r.addr none
        else match s.takeRuns r.tier n with
          | none => s
          | some ls => (({ s with free := s.free + 1 } : State).setDir { d with convRuns := (r.tier, ls) }).setMoving r.addr none
      | none => match s.takeRunsAt r.tier 1 (s.moveStart r) with
        | some (l :: _) => ({ s with free := s.free + 1 } : State).setMoving r.addr (some (BitVec.ofNat 32 l))
        | _ => s

/-- Every copy with a decided move or conversion goes on with it, beneath the ticks (R292). -/
def State.startMoves (s : State) : State :=
  if s.tmap.any (·.due) then s.dirs.foldl State.startMove s else s

/-- RELEASE_COMPLETE: what waited for the space goes on, moves too (R294). -/
def State.releaseDone (s : State) (slot : Nat) : State := (s.freeRegions slot).startMoves

/-- RELEASE_COMPLETE. -/
def execReleaseComplete (slot : Nat) (s : State) : Host.Outcome State Fault Refusal :=
  let s := s.begin
  .next (if s.live then s.releaseDone slot else s)

end Sys2Proof.Machine
end

