-- ==== Sys2Proof/Machine/Run.lean ====
section
/-! DEFINITION. The execution of a timetable's lines (R58 to R67): waits, loops, the activation and exchange slots, and the ends
of stops. A line issues as soon as it may; the beats it takes are counted for the trains and for nothing else. -/
namespace Sys2Proof.Machine
open Sys2Proof

/-- Change the program's run. -/
def State.updRun (s : State) (f : Run → Run) : State := s.updTick fun t => { t with run := f t.run }

/-- A stop of the current tick was skipped (R21). -/
def State.skippedStop (s : State) (stop : Nat) : Bool := s.tick.skips.contains stop

/-- Emit the rows of a stop that can leave, in schedule order, at most `n`, on the ports that PORTS names (R22). -/
def State.emitRows (s : State) (stop n ports : Nat) : State :=
  let s := match s.stopAt stop with
    | some x => if s.curHdr.kind = 0 && !x.gathered && (x.full || !x.ingress) then s.gatherStop stop else s
    | none => s
  match s.stopAt stop with
  | none => s
  | some x =>
    let kind := s.curHdr.kind
    if s.standing || kind = 2 || x.ended || (kind = 0 && !x.gathered) then s
    else if kind = 3 && s.rf 0x2100 16 2 = 2 then
      s.updStop stop fun y => { y with emitted := y.emitted ++ (s.ready x).take n }
    else ((s.ready x).take n).foldl (fun s i =>
      if kind = 0 then s.emitEmbed ports x i else s.emitRow ports kind stop i (s.rowZero x i) (s.rowElem x i (s.outShape kind stop).2)) s

/-! Opening (R15, R18, R20). -/

/-- Flits of a stop's ingress (R87, R314, R355, R434); of an embedding stop, those before its index section. -/
def State.stopFlits (s : State) (kind stop rows : Nat) : Nat :=
  if kind = 0 then 1 + embedRowFlits rows else rows * s.rowFlits kind stop

/-- The stop is named by the header of the tick under way and has not been opened or skipped. -/
def State.mayOpen (s : State) (stop : Nat) : Bool :=
  s.tick.active && s.curHdr.has stop && (s.stopAt stop).isNone && !s.skippedStop stop

/-- A stop as it opens, with the rows that are late already: at the build, with a poisoned object, on a failed
wagon, or because the exchange is lost. -/
def State.openedStop (s : State) (p : StopPlan) : Stop :=
  let x : Stop := { p.fresh s.tick.count with flits := s.stopFlits s.curHdr.kind p.stop p.rows.length }
  { x with late := if s.standing then p.rows else sortNat (p.late ++ p.bad ++ s.tick.failed.flatMap (s.rowsNeeding p) ++ p.rows.filter (s.rowEnded x)) }

/-- A stop whose opening is a framing error, with the rows of R615. The reserved STOP_ID 6 is no stop: it has no rows, so it sends no mask
(assumption log 102). -/
def State.framingStop (s : State) (stop : Nat) : Stop :=
  let rows := match s.planOf stop with | some p => p.rows | none => if stop < 6 then s.stopRows s.curHdr s.tick.count else []
  { (StopPlan.none_ stop rows).fresh s.tick.count with framing := true, late := rows, exitMask := true }

/-- Open a stop: named and new, it takes rows; otherwise it is a framing error. Before any tick has begun, no header and no rows stand: the
error bit is set and nothing opens (assumption log 102). -/
def State.openStop (s : State) (stop : Nat) : State :=
  let add (s : State) (x : Stop) : State := s.updTick fun t => { t with stops := t.stops ++ [x] }
  if s.mayOpen stop then
    match s.planOf stop with
    | none => s
    | some p => add s (s.openedStop p)
  else
    let s := s.setErr .stopFraming
    if s.tick.cur.isNone then s else add s (s.framingStop stop)

/-- An edge has started and awaits its TICK_ACK: stop flits are not ready (R26). -/
def State.awaitsAck (s : State) : Bool := match s.tick.edge with | .none | .held _ => false | _ => true

/-- The stop that STOP_VALID frames; STOP_ID 7 frames the tick header (R23). -/
def State.pinned (s : State) : Option Nat := s.tick.pinStop.filter fun p => decide (p < 7)

/-- The open entry that STOP_VALID frames. -/
def State.framed (s : State) : Option Stop :=
  match s.pinned with
  | none => none
  | some p => s.tick.stops.find? fun x => x.stop = p && x.tick = s.tick.count && x.ingress

/-! Closing (R17, R20, R39, R40). -/

/-- A stop that is open when the lenient policy ends the tick is closed: what has not left is late (R39, R40, R317). -/
def State.cutStop (s : State) (x : Stop) : State :=
  if x.ended then s
  else if x.framing then
    let s := s.lateMask x false
    let hit (y : Stop) : Bool := y.stop = x.stop && y.framing && y.tick = x.tick
    s.updTick fun t => { t with stops := updWhere hit (fun y => { y with ended := true }) t.stops }
  else
    let s := if s.curHdr.kind = 0 && !x.gathered then s.takeTokens x else s
    let s := s.updStop x.stop fun y => { y with late := sortNat (y.late ++ y.plan.rows.filter fun i => !y.emitted.contains i) }
    s.endStop x.stop true true

/-- The ingress of an opened stop closes (R17, R20, R40). -/
def State.closeStop (s : State) (x : Stop) : State :=
  let hit (y : Stop) : Bool := y.stop = x.stop && y.framing = x.framing && y.tick = x.tick && y.ingress
  let s := s.updTick fun t => { t with stops := updWhere hit (fun y => { y with ingress := false }) t.stops }
  if x.ended then s
  else if x.framing then (s.cutStop x).pumpDone
  else
    let gone := if s.standing then [] else s.missing s.curHdr.kind x
    let s := s.errIf (!(s.missing s.curHdr.kind x).isEmpty) .stopFraming
    let s := s.updStop x.stop fun y => { y with late := sortNat (y.late ++ gone.filter fun i => !y.emitted.contains i) }
    if s.standing then (if s.curHdr.kind = 0 then s.takeTokens x else s).endStop x.stop true false
    else if s.curHdr.kind = 0 then s.gatherStop x.stop
    else if s.curHdr.kind = 2 then s.finishHead
    else s

/-- Open a stop whose STOP_VALID has come and gone, and close it at once. -/
def State.openClosed (s : State) (stop : Nat) : State :=
  let n := s.tick.stops.length
  let s := (s.updTick fun t => { t with shut := t.shut.drop 1 }).openStop stop
  match s.tick.stops[n]? with
  | some x => s.closeStop x
  | none => s

/-- Stops that were framed and closed while two others were open open in their turn, while at most one is open (R18). -/
def State.openShut (s : State) : Nat → State
  | 0 => s
  | n + 1 =>
    match s.tick.shut with
    | [] => s
    | st :: _ => if decide (s.openStops < 2) then (s.openClosed st).openShut n else s

/-- Open the stops that wait, and then the stop that STOP_VALID frames, while at most one other is open (R18). Between an edge and its
TICK_ACK no stop flit is ready (R26); a stop that is closed already needs none, so the old tick's work goes on to its end (R37). -/
def State.ensureOpen (s : State) : State :=
  let s := s.openShut s.tick.shut.length
  match s.pinned with
  | none => s
  | some p =>
    if s.awaitsAck || s.framed.isSome || !s.tick.shut.isEmpty || !decide (s.openStops < 2) then s else s.openStop p

/-! Waits (R66, R67). -/

/-- A read over FM for a fetch group, or a write-back that the group stands for, is under way: it holds the group's wait until it is done, or
has failed (R281, R299, R300). -/
def State.fetching (s : State) (g : Nat) : Bool :=
  s.reads.any fun r => match r.kind with
    | .wagon a => s.frames.any fun f => f.addr = a && f.group = some g
    | .writeBack a => !(s.writes.any fun w => w.kind == .writeBack a && w.failed) && s.frames.any fun f => f.addr = a && f.group = some g
    | _ => false

/-- Rows of a row group of a stop that still have to leave. -/
def Stop.rowsLeft (x : Stop) (size group : Nat) : List Nat :=
  x.plan.rows.filter fun i => i / max 1 size = group && !x.late.contains i && !x.emitted.contains i

/-- The merge stage has room for the accumulators of a row group beside those of the rows admitted and not yet emitted, in the platform of
every home car (R109). -/
def State.mergeRoom (s : State) (c : ConsPlan) : Bool :=
  match s.tick.cur, s.stopAt c.stop with
  | some t, some x =>
    let new := (x.rowsLeft c.size c.group).map fun r => (c.stop, r)
    let old := s.tick.run.merging.filter fun r => !new.contains r && (match s.stopAt r.1 with
      | some y => !y.ended && !y.late.contains r.2 && !y.emitted.contains r.2
      | none => false)
    let all := old ++ new
    let cars := sortNat ((t.homes.filter fun h => new.contains (h.1, h.2.1)).map (·.2.2))
    c.kind != 0 || t.hdr.kind != 1 || cars.all fun cl =>
      decide ((all.filter fun r => t.homes.contains (r.1, r.2, cl)).foldl (fun a r => a + s.outW r.1 * 8) 0 ≤ t.merge.getD cl 0)
  | _, _ => true

/-- A row group is admitted to the merge stage (R109). -/
def State.admitGroup (s : State) (c : ConsPlan) : State :=
  match s.stopAt c.stop with
  | some x => if c.kind = 0 && s.curHdr.kind = 1 then
      s.updRun fun r => { r with merging := r.merging ++ ((x.rowsLeft c.size c.group).map fun i => (c.stop, i)).filter fun y => !r.merging.contains y }
    else s
  | none => s

/-- The condition of a WAIT line; whether a fetch group is complete and whether DOUT has credit come from outside. WAIT_KIND 0 waits for
nothing; kind 7 is reserved, and no built line has it (assumption log 85). A lost exchange releases the routing waits, since it lets no group be placed. -/
def State.waitHolds (s : State) (l : TLine) (fetchDone credit : Bool) : Bool :=
  let a := ctlArg l
  match ctlWait l with
  | 1 => !s.tick.run.groups.contains (a % 8) || (fetchDone && !s.fetching (a % 8))
  | 2 => match s.tick.cons.find? fun c => c.plan.num = a % 128 with
    | some c => c.ended || (c.done && s.mergeRoom c.plan)
    | none => true
  | 3 =>
    let stop := a / 16384 % 8
    s.skippedStop stop || (match s.stopAt stop with
      | some x => !x.ingress || (List.range (a % 16384)).all (s.rowIn s.curHdr.kind x)
      | none => false)
  | 4 => credit
  | 5 => s.skippedStop (a % 8) || (s.stopAt (a % 8)).isSome
  | 6 => s.exchangeLost || s.skippedStop (a % 8) || (match s.stopAt (a % 8) with
      | some x => decide (x.waits < x.placed.length) || x.plan.routing.isEmpty
      | none => false)
  | _ => true

/-- A passed wait: its fetch group is complete, its row group is admitted to the merge stage (R109), its routing release is taken (R187). -/
def State.passWait (s : State) (l : TLine) : State :=
  let a := ctlArg l
  match ctlWait l with
  | 1 =>
    let came (f : Frame) : Frame := if f.group = some (a % 8) then { f with group := none } else f
    ({ s with frames := s.frames.map came } : State).dropStale.updRun fun r => { r with groups := r.groups.filter fun g => g != a % 8 }
  | 2 => match s.tick.cons.find? fun c => c.plan.num = a % 128 with
    | some c => s.admitGroup c.plan
    | none => s
  | 6 => s.updStop (a % 8) fun x => { x with waits := x.waits + 1 }
  | _ => s

/-- Rows that keep a returned row group out of the merge stage leave before its wait, if they can (R109, assumption log 103). -/
def State.relieve (s : State) (l : TLine) : State :=
  if ctlOp l ≠ 3 || ctlWait l ≠ 2 then s else
  match s.tick.cons.find? fun c => c.plan.num = ctlArg l % 128 with
  | some c => if c.done && !c.ended && !s.mergeRoom c.plan then
      match s.stopAt c.plan.stop with | some x => s.emitRows c.plan.stop x.plan.rows.length 3 | none => s
    else s
  | none => s

/-! Slots. -/

/-- Exchange OP 4 may issue: the descriptors of the tick's start are checked, no boundary of an earlier HEAD tick is due, and no manifest of
one waits for page moves (R415). -/
def State.digestMay (s : State) : Bool :=
  s.front.isNone && (List.range 2).all fun l =>
    decide (s.tick.count ≤ (s.line l).headTick) || (!(s.line l).boundary && (s.manifestMoves l).isEmpty)

/-- The exchange slot (R63). -/
def State.issueXch (s : State) (l : TLine) : State :=
  let w := xchSlot l
  if xchOp w = 1 || xchOp w = 3 then s.sendCons (xchNum w)
  else if xchOp w = 2 then s.updRun fun r => { r with expects := r.expects ++ [xchNum w] }
  else if xchOp w = 4 then s.sendDigest else s

/-- Nothing of a stop's rows is still to come or to leave. -/
def State.spent (s : State) (x : Stop) : Bool := (s.toEmit x).isEmpty && (x.full || !x.ingress)

/-- The probe rows of a stop's active exit point are judged, but for those that are late and those whose consignment has ended (R193,
R195). -/
def State.probesJudged (s : State) (x : Stop) : Bool :=
  x.plan.exitPt.isNone || s.exchangeLost || x.plan.probe.all fun r =>
    x.plan.gone.contains r || s.tick.cons.all fun c =>
      !(c.plan.stop = x.stop && c.plan.kind = 1 && r / max 1 c.plan.size = c.plan.group) || c.ended || x.judged.contains c.plan.group

/-- The activation slot (R64): rows accepted, delta rows emitted up to the last position that it names, in the order in which the stop's rows
leave, and the masks once the rows before them have left. A tick header is taken with its edge, whatever the slots say (R26). -/
def State.issueAct (s : State) (l : TLine) (beats : Nat) : State :=
  let w := actSlot l
  let st := actStop w
  if actOp w = 1 || actOp w = 4 then
    s.updRun fun r => { r with accepts := r.accepts ++ [(st, actBase w, actRows w * beats, actPorts w)] }
  else if actOp w = 2 then
    match s.stopAt st with
    | some x => s.emitRows st (min (actRows w * beats) (actBase w + actRows w * beats - x.emitted.length)) (actPorts w)
    | none => s
  else if actOp w = 5 then
    match s.stopAt st with
    | some x => if s.curHdr.kind = 1 && !x.ended && !s.standing && s.spent x && s.probesJudged x then (s.lateMask x true).exitMaskOf x else s
    | none => s
  else if actOp w = 6 then
    match s.stopAt st with
    | some x => if s.curHdr.kind != 2 && !x.ended && !s.standing && s.spent x then s.lateMask x true else s
    | none => s
  else s

/-- The fetch list of the executing timetable. -/
def State.fetchList (s : State) : List DWord := match s.tick.cur with | some t => t.fetch | none => []

/-- An address is that of a wagon of some ranges. -/
def inRanges (rs : List (Nat × Nat)) (a : Nat) : Bool := rs.any fun r => decide (r.1 ≤ a ∧ a < r.1 + 4352 * r.2)

/-- An address lies in the state region of an object whose parts step (R440). -/
def inStates (ks : List StepPlan) (a : Nat) : Bool :=
  ks.any fun k => slotOf a = fld k.handle 0 18 && decide (stateBase (slotOf a) ≤ a % oldSpace)

/-- The address that a fetch of this tick reads: a tick built before a conversion's remap reads the former layout (R251). -/
def State.fetchAddr (s : State) (a : Nat) : Nat :=
  match s.dirAt (slotOf a) with
  | some d => match d.prior with
    | some (m, c) => if decide (s.tick.count ≤ m) && inRegion d.slot c.regionB a then oldSpace + a else a
    | none => a
  | none => a

/-- Where a fetch reads at its issue: tier, run number and offset in the run as the tier map names them then, or another frame, for a
dirty wagon or one whose write-back has not landed (R281, R298). -/
def State.fetchFrom (s : State) (a : Nat) : Nat × Word × Nat :=
  if s.isDirty a || s.writingBack a then (0, 0, 0)
  else if oldSpace ≤ a then
    match s.stale.find? fun e => decide (e.addr ≤ a ∧ a < e.addr + 69632) with
    | some e => (e.tier, e.loc, a - e.addr)
    | none => (1, 0, 0)
  else match s.runOf a with
    | some r => (r.src, r.loc, a - r.addr)
    | none => (1, 0, 0)

/-- The fetch's transfer: over FM from a pool, else within the block. -/
def State.readWagon (s : State) (a : Nat) (at_ : Nat × Word × Nat) : State :=
  if 2 ≤ at_.1 then
    s.addRead (.wagon a) (s.addr64 (0x4020 + 16 * (at_.1 - 2)) + at_.2.1.toNat * 69632 + at_.2.2) 68
  else s

/-- The lowest platform slot of a car that holds no frame. -/
def State.freeSlot (s : State) (train car : Nat) : Nat :=
  let used := sortNat ((s.frames.filter fun f => f.train = train && f.car = car).map (·.slot))
  lowestFree used 0

/-- The frame at a platform slot of a car holds the authoritative copy of another wagon, or one whose write-back has not landed: it is not
free (R280, R295). -/
def State.slotHeld (s : State) (train car slot a : Nat) : Bool :=
  s.frames.any fun f => f.train = train && f.car = car && f.slot = slot && f.addr != a && (s.isDirty f.addr || s.writingBack f.addr)

/-- A look-ahead fetch serves a copy that is in force in the next tick: one of a copy that leaves service is cancelled (R268). -/
def State.servesNext (s : State) (a : Nat) : Bool :=
  match s.dirAt (slotOf a) with
  | some d => match d.inForceAt (s.tick.count + 1) with
    | some c => inRegion d.slot c.regionB a
    | none => false
  | none => false

/-- A fetch takes a frame in the platform of each car that its wagon is brought to: of the slot that it names, or of another where that one's
frame is not free. A wagon that the tick's own work uses is allocated for it; another is a look-ahead, allocated over the window (R95, R278
to R280). Nothing of a poisoned object is fetched (R305). -/
def State.takeFrame (s : State) (train group : Nat) (e : DWord) : State :=
  if s.poisonedAt (entryAddr e) then s else
  match s.tick.cur with
  | none => s
  | some t =>
    let n := s.tick.count
    let a := s.fetchAddr (entryAddr e)
    let needed := inRanges t.needs (entryAddr e) || inStates t.steps (entryAddr e)
    if !needed && !s.servesNext (entryAddr e) then s else
    let from_ := s.fetchFrom a
    let frameOf (c : Nat) : Frame :=
      let slot := if s.slotHeld (c / 16) (c % 16) (entrySlot e) a then s.freeSlot (c / 16) (c % 16) else entrySlot e
      ⟨c / 16, c % 16, slot, a, if needed then n else n + 3, some group, group, from_.1, from_.2.1, 0⟩
    ({ s with frames := (t.castTo (train, e)).foldl (fun fs c => putFrame fs (frameOf c)) s.frames } : State).readWagon a from_

/-- A clean wagon whose frame failed parity is fetched again into another frame, and its fetch group waits again (R304). -/
def State.refetch (s : State) (train a : Nat) : State :=
  match s.frames.find? fun f => f.train = train && f.addr % oldSpace = a with
  | none => s
  | some f =>
    let from_ := s.fetchFrom f.addr
    let g : Frame := { f with slot := s.freeSlot train f.car, group := some f.home, tier := from_.1, loc := from_.2.1, fails := f.fails + 1 }
    let swap (y : Frame) : Frame := if y = f then g else y
    let s := ({ s with frames := s.frames.map swap } : State).updRun fun r => { r with groups := sortNat (r.groups ++ [f.home]) }
    s.readWagon f.addr from_

/-- A fetch of the program that runs takes the frame of this wagon for another. -/
def State.frameWanted (s : State) (a : Nat) : Bool :=
  match s.tick.cur with
  | some t => (fetchesOf t 1).any fun f => entryAddr f.2 != a && s.frames.any fun y =>
      y.addr = a && y.cluster = fetchCar f && y.slot = entrySlot f.2
  | none => false

/-- The write-backs of a fetch slot are issued; those of a pressed car, and those whose frame a fetch of the program takes, hold the slot's
group until they have landed (R280, R296, R300). -/
def State.issueWriteBacks (s : State) (group : Nat) (as : List Nat) : State :=
  let held := as.filter fun a => s.urgent a || s.frameWanted a
  let s := as.foldl State.writeBackOf s
  if held.isEmpty then s else
  let hold (f : Frame) : Frame := if held.contains f.addr && s.writingBack f.addr then { f with group := some group } else f
  ({ s with frames := s.frames.map hold } : State).updRun fun r => { r with groups := sortNat (r.groups ++ [group]) }

/-- One fetch slot over its beats (R61, R62, R67): wagons into frames, write-backs of dirty wagons, or gathers of table rows. The
list's cursor goes on from beat to beat; a line that a loop issues again starts at LIST_IDX again (assumption log 103). -/
def State.issueFetchSlot (s : State) (w beats : Nat) : State :=
  let es := (s.fetchList.drop (fetchIdx w)).take (fetchCount w * beats)
  if fetchKind w = 1 then
    (es.foldl (fun s e => s.takeFrame (fetchTrain w) (fetchGroup w) e) s).updRun fun r => { r with groups := sortNat (r.groups ++ [fetchGroup w]) }
  else if fetchKind w = 2 then s.issueWriteBacks (fetchGroup w) (es.map entryAddr)
  else if fetchKind w = 3 then s.updRun fun r => { r with groups := sortNat (r.groups ++ [fetchGroup w]) }
  else s

/-- The fetch slots. -/
def State.issueFetch (s : State) (l : TLine) (beats : Nat) : State :=
  let s := (List.range 4).foldl (fun s k => s.issueFetchSlot (fetchSlot l k) beats) s
  let at_ (r : Run) (k : Nat) : Nat :=
    let w := fetchSlot l k
    if fetchKind w = 0 then r.cursors.getD k 0 else fetchIdx w + fetchCount w * beats
  s.updRun fun r => { r with cursors := (List.range 4).map (at_ r) }

/-- The train slots: what each train was issued, its busy beats, and how long its walkers have been on their entries (R59, R67). -/
def State.issueTrains (s : State) (l : TLine) (beats : Nat) : State :=
  let ws := (List.range s.build.trains).map (trainSlot l)
  s.updRun fun r => { r with
    slots := ws
    busy := ws.zipIdx.map fun w => r.busy.getD w.2 0 + (if slotOp w.1 = 0 then 0 else beats)
    yard := ws.zipIdx.map fun w => r.yard.getD w.2 0 + (if slotOp w.1 = 0 || slotShared w.1 then 0 else beats)
    walk := ws.zipIdx.map fun w =>
      let old := r.walk.getD w.2 (0, 0)
      if slotOp w.1 = 0 || slotShared w.1 then old
      else (slotBase w.1, beats + (if old.1 = slotBase w.1 && !slotClr w.1 then old.2 else 0)) }

/-- Issue every slot of a line. -/
def State.issueLine (s : State) (l : TLine) : State :=
  let beats := ctlRepeat l + 1
  (((s.issueTrains l beats).issueFetch l beats).issueXch l).issueAct l beats

/-! The ends. -/

/-- STOP_END may pass: the stop was skipped or has ended, or nothing of it is left to leave. The program stands there until every row of
the stop has left or is late, and rows that no emit slot has named leave there, on both ports in turn (assumption log 103). -/
def State.stopEnd (s : State) (stop : Nat) : Option State :=
  if s.skippedStop stop then some s else
  match s.stopAt stop with
  | none => none
  | some x =>
    if x.ended then some s
    else if s.standing then none
    else if s.curHdr.kind = 2 then
      let s := s.finishHead
      match s.stopAt stop with | some y => if y.ended then some s else none | none => none
    else
      let s := s.emitRows stop x.plan.rows.length 3
      match s.stopAt stop with
      | none => none
      | some y =>
        if s.spent y && s.probesJudged y then some ((s.optSteps y).endStop stop true false)
        else none

/-- The next line after one that is not a loop's end. -/
def Run.next (r : Run) : Run := { r with pc := r.pc + 1 }

/-- LOOP_BEGIN: entered anew, or for a further iteration. -/
def Run.loopBegin (r : Run) (l : TLine) : Run :=
  match r.loops with
  | (p, _, _) :: _ => if p = r.pc then r.next else { r with pc := r.pc + 1, loops := (r.pc, ctlLoopLevel l, ctlLoopCount l) :: r.loops }
  | [] => { r with pc := r.pc + 1, loops := [(r.pc, ctlLoopLevel l, ctlLoopCount l)] }

/-- LOOP_END: back to the body's first line until its iterations are done. -/
def Run.loopEnd (r : Run) : Run :=
  match r.loops with
  | (p, lv, n) :: rest => if n = 0 then { r with pc := r.pc + 1, loops := rest } else { r with pc := p, loops := (p, lv, n - 1) :: rest }
  | [] => r.next

/-- The exchange slot of a line may issue: a digest once it is complete, a consignment while it has room (R103, R415). -/
def State.xchMay (s : State) (l : TLine) : Bool :=
  let w := xchSlot l
  if xchOp w = 4 then s.digestMay else if xchOp w = 1 || xchOp w = 3 then s.xchRoom (xchNum w) else true

/-- One line; none when it must wait. A reserved CTL_OP, which no built line has, is a STEP (assumption log 85). -/
def State.runLine (s : State) (l : TLine) (fetchDone credit : Bool) : Option State :=
  if !s.xchMay l then none else
  match ctlOp l with
  | 1 => some ((s.issueLine l).updRun fun r => r.loopBegin l)
  | 2 => some ((s.issueLine l).updRun Run.loopEnd)
  | 3 => if s.waitHolds l fetchDone credit then some (((s.passWait l).issueLine l).updRun Run.next) else none
  | 4 => ((s.stopEnd (ctlArg l % 8)).map fun s => (s.issueLine l).updRun Run.next)
  | 5 =>
    let s := s.issueLine l
    some ((s.updStop (ctlArg l % 8) fun x => { x with pass := ctlArg l / 8 % 4 + 1 }).updRun Run.next)
  | 6 => some ((s.issueLine l).updRun fun r => { r with ended := true })
  | _ => some ((s.issueLine l).updRun Run.next)

/-- Run lines until one must wait, the program ends or issue is paused; at most `n` lines. -/
def State.runLines (s : State) (fetchDone credit : Bool) : Nat → State
  | 0 => s
  | n + 1 =>
    if !s.tick.active || s.tick.run.ended || s.paused then s else
    match s.tick.cur with
    | none => s
    | some t =>
      match t.lines[s.tick.run.pc]? with
      | none => s.updRun fun r => { r with ended := true }
      | some l => match (s.relieve l).runLine l fetchDone credit with
        | none => s.relieve l
        | some s' => s'.runLines false false n

/-- Lines run by one command; a program longer than this goes on at its next release. -/
def runFuel : Nat := 4194304

/-- The program goes on. -/
def State.proceed (s : State) (fetchDone credit : Bool) : State := s.ensureOpen.runLines fetchDone credit runFuel

/-- TIMETABLE_WAIT_RELEASE. -/
def execTimetableWaitRelease (fetchDone credit : Bool) (s : State) : Host.Outcome State Fault Refusal :=
  let s := s.begin
  .next (if s.live then s.proceed fetchDone credit else s)

end Sys2Proof.Machine
end

