-- ==== Sys2Proof/Machine/Builder.lean ====
section
/-! DEFINITION. The builder (R50 to R57): the consignments of a tick with the segments removed for them (R97 to R99, R172, R368, R369,
R437, R515), planned visits (R283), the prediction of the ticks that follow (R278), and what a program must be that the builder writes
for a plan (R54 to R67, R71, R95, R109, R112, R133, R147, R148, R163, R187, R277 to R280, R296). Within that, the manual leaves the
program to the block, so it is an operand of TIMETABLE_BUILD (assumption log 22). -/
namespace Sys2Proof.Machine
open Sys2Proof

/-! Consignments. -/

/-- The block while a timetable runs, before anything has come. -/
def State.ahead (s : State) (tt : Timetable) : State :=
  s.updTick fun t => { t with count := tt.tick, cur := some tt, cons := [], recs := [] }

/-- The rows of a stop in a window of host rows. -/
def groupRows (p : StopPlan) (size group : Nat) : List Nat := p.rows.filter fun i => i / max 1 size = group

/-- Values of 4 bytes that a consignment of a kind holds for a row group of a pass (R99, R172, R368, R369, R437). -/
def State.consWords (s : State) (x : Stop) (kind pass size group : Nat) : Nat :=
  let h := s.curHdr.kind
  let total (ns : List Nat) : Nat := ns.foldl (· + ·) 0
  if h = 1 && kind = 0 then total ((s.groupUses x pass size group).map Use.len)
  else if h = 1 && kind = 1 && pass = 0 then (s.scoreRefs x size group).length
  else if h = 2 && kind = 0 then
    total ((groupRows x.plan size group).flatMap fun r => (s.headUses r).map fun u => u.2.part.rank)
  else if h = 2 && kind = 2 then 144 * (groupRows x.plan size group).length
  else if h = 3 && kind = 3 then (s.backRefs x pass size group).length
  else 0

/-- The fragment image that a special working has for the build. -/
def State.fragment (s : State) (id : Nat) : List Byte := ((s.specials.find? fun x => x.id = id).map (·.image)).getD []

/-- The special workings of a pass, by the place of their segment or, in pass 0, by 2048 and the shared slot, with their images (R99). -/
def State.passSpecials (s : State) (x : Stop) (pass : Nat) : List (Nat × List Byte) :=
  ((x.plan.passes.getD pass []).zipIdx.filterMap fun g =>
    if g.1.form = 3 && !g.1.empty then some (g.2, s.fragment g.1.swId) else none)
  ++ (if pass ≠ 0 then [] else (x.plan.shared.zipIdx.filterMap fun h => match s.dirOf h.1 with
    | some d => match d.copyAt s.tick.count with
      | some c => if c.form = 3 then some (2048 + h.2, s.fragment c.swId) else none
      | none => none
    | none => none))

/-- The consignments of a pass at a row-group size, but for their numbers: by kind, the scores first, each kind by ascending row group;
then those that fragments stage. One without an entry is not sent (R97, R99; assumption log 75). -/
def State.passCons (s : State) (x : Stop) (pass size : Nat) : List ConsPlan :=
  let groups := sortNat (x.plan.rows.map fun i => i / max 1 size)
  let sized := [1, 0, 3, 2].flatMap fun kind => groups.filterMap fun g =>
    let n := s.consWords x kind pass size g
    if n = 0 then none else some (⟨0, kind, x.stop, pass, g, size, 0, ceilDiv n 64⟩ : ConsPlan)
  sized ++ (s.passSpecials x pass).flatMap fun f => (swCons f.2).map fun c => ⟨0, 4, x.stop, pass, f.1, size, c.1, c.2⟩

/-- A pass keeps the limits of one consignment (R98). -/
def State.passFits (s : State) (x : Stop) (pass size : Nat) : Bool :=
  (s.passCons x pass size).all fun c =>
    decide (c.len ≤ 16383) && (c.kind != 2 || decide (c.len * 256 * s.groupSize ≤ 8388608))

/-- The passes of a tick, by stop and then pass. -/
def stopPasses (plan : List StopPlan) (n : Nat) : List (Stop × Nat) :=
  plan.flatMap fun p => (List.range (max 1 p.passes.length)).map fun k => (p.fresh n, k)

/-- Row-group sizes under the first step of R98; none when a pass cannot keep the limits. -/
def State.halved (s : State) : List (Stop × Nat) → Option (List ((Stop × Nat) × Nat))
  | [] => some []
  | p :: ps =>
    match [1024, 512, 256, 128].find? (s.passFits p.1 p.2), s.halved ps with
    | some z, some r => some ((p, z) :: r)
    | _, _ => none

/-- Consignments of a tick besides the digest. -/
def State.consCount (s : State) (ps : List ((Stop × Nat) × Nat)) : Nat :=
  ps.foldl (fun a p => a + (s.passCons p.1.1 p.1.2 p.2).length) 0

/-- The second step of R98, at most `n` doublings: the pass with the most consignments is doubled while there are more than 127; none
when it cannot be (assumption log 75). -/
def State.doubled (s : State) : Nat → List ((Stop × Nat) × Nat) → Option (List ((Stop × Nat) × Nat))
  | 0, _ => none
  | n + 1, ps =>
    if s.consCount ps ≤ 127 then some ps else
    let counts := ps.map fun p => (s.passCons p.1.1 p.1.2 p.2).length
    let i := (counts.takeWhile fun c => decide (c < counts.foldl max 0)).length
    match ps[i]? with
    | some p => if p.2 < 8192 && s.passFits p.1.1 p.1.2 (2 * p.2) then s.doubled n (setAt ps i (p.1, 2 * p.2)) else none
    | none => none

/-- The consignments at given row-group sizes, numbered (R515). -/
def State.numbered (s : State) (ps : List ((Stop × Nat) × Nat)) : List ConsPlan :=
  (ps.flatMap fun p => s.passCons p.1.1 p.1.2 p.2).zipIdx.map fun c => { c.1 with num := c.2 + 1 }

/-- The segments of a tick that its passes hold, from the last in the order of R41, as their stops; what is equal in it goes by the higher
stop first (assumption log 75). -/
def State.removalOrder (s : State) (h : Header) (n : Nat) : List Nat :=
  let all := (List.range 6).filter h.has |>.flatMap fun st =>
    let out := (s.passSegs h n st).2.length
    let keys := sortBy (fun a b => keyLt a b) ((s.stopSegs h n st).zipIdx.map fun g => workKey g.1.prio g.1.dead g.2 ++ [st])
    (keys.take (keys.length - out)).map fun k => (k, st)
  ((sortBy (fun a b => keyLt a.1 b.1) all).map (·.2)).reverse

/-- How many segments each stop loses when `k` are removed. -/
def cutsOf (order : List Nat) (k : Nat) : List (Nat × Nat) :=
  let gone := order.take k
  (List.range 6).filterMap fun st => let n := gone.count st; if n = 0 then none else some (st, n)

/-- A timetable of a plan before its program. -/
def State.draft (s : State) (h : Header) (n : Nat) (plan : List StopPlan) (samp : List (Nat × Sampling × Nat)) : Timetable :=
  { hdr := h, tick := n, lines := [], fetch := [], cons := [], splits := [], areas := [], merge := [], homes := [], places := [], onCar := []
    bcast := [], look := [], visits := [], needs := [], plan := plan, samp := samp, allow := s.allowance, standing := false, idle := [], prefillN := 0, steps := [] }

/-- The consignments of a plan; none when neither step of R98 meets the limits. -/
def State.planCons (s : State) (tt : Timetable) : Option (List ConsPlan) :=
  let s := s.ahead tt
  match s.halved (stopPasses tt.plan tt.tick) with
  | some ps => (s.doubled (8 * ps.length + 1) ps).map s.numbered
  | none => none

/-- What the length of a schedule rests on: for each segment its rows, rank and form (R130). -/
def planKey (h : Header) (plan : List StopPlan) : List Nat :=
  [h.kind, h.line, h.layer] ++ plan.flatMap fun p => [p.stop, p.rows.length, p.shared.length] ++ p.passes.flatMap fun gs =>
    gs.length :: gs.flatMap fun g => [g.run.length, g.cap, g.rank8, g.form, g.fmt]

/-- The schedule of a plan needs more than 131,072 lines (R57). The manual gives no measure: that of a plan with more than 512 segments is a
constant of the configuration, and one with fewer, at 256 lines for each, fits (assumption log 22). -/
def overLong (h : Header) (plan : List StopPlan) : Bool :=
  decide (512 < plan.foldl (fun a p => a + p.passes.foldl (fun b gs => b + gs.length) 0) 0)
  && decide (131072 < Config.scheduleLines (planKey h plan))

/-- The plan of a tick with its consignments: from `k` removed segments on, as few as R57 and R98 allow (R57, R98, R130). -/
def State.fitPlan (s : State) (h : Header) (n : Nat) (samp : List (Nat × Sampling × Nat)) (order : List Nat) : Nat → Nat → Timetable
  | 0, k => s.draft h n (s.planTick h n (cutsOf order k)) samp
  | f + 1, k =>
    let tt := s.draft h n (s.planTick h n (cutsOf order k)) samp
    match s.planCons tt with
    | some cs => if overLong h tt.plan && decide (0 < f) then s.fitPlan h n samp order f (k + 1) else { tt with cons := cs }
    | none => s.fitPlan h n samp order f (k + 1)

/-! Sampling blocks and planned visits. -/

/-- The sampling blocks that a HEAD build takes, with the parts of each speculative head (R363, R374). -/
def State.takeSamp (s : State) (h : Header) (n : Nat) : List (Nat × Sampling × Nat) :=
  if h.kind ≠ 2 then [] else
  let slots := sortNat ((s.rowsAt h.line (s.stopRows h n)).map (·.slot))
  slots.filterMap fun sl => (s.reqAt sl).map fun q =>
    let parts := match s.resolveKind q.samp.specHead n 5 with
      | some y => if mayUse q.tenant y then y.2.parts.length else 0
      | none => 0
    (sl, q.samp, parts)

/-- Planned visits of objects, by handle and row, for heat: explicit and shared visits, probe rows of an active exit point, and the
heads that the rows of a HEAD tick use, before removal and lateness (R283). `s` is the block ahead of the timetable. -/
def State.planVisits (s : State) (tt : Timetable) : List (Word × Nat) :=
  let h := tt.hdr
  let n := tt.tick
  if h.kind = 1 then
    tt.plan.flatMap fun p =>
      let rows := s.layerRows h.line n
      (rows.flatMap fun x => (s.explicitVisits h.layer p.stop n x).map fun v => (v.1, x.1))
      ++ ((s.sharedAt h.layer p.stop n).flatMap fun d => rows.map fun x => (d.1.handle, x.1))
      ++ (match p.exitPt with | some e => p.probe.map fun i => (s.exitHandle h.line e, i) | none => [])
  else if h.kind = 2 then
    (tt.plan.flatMap (·.rows)).flatMap fun i => match s.rowOwner i with
      | none => []
      | some q =>
        let p := (s.headSamp q).1
        let use (w : Word) (us : List Use) : List (Word × Nat) := if us.isEmpty then [] else [(w, i)]
        use p.outHead (s.outUse q i).toList ++ use p.specHead (s.specUses q i) ++ use p.planeHead (s.planeUse q i).toList
  else []

/-! Wagons. -/

/-- The wagons of a segment. -/
def Seg.range (g : Seg) : List (Nat × Nat) := if g.empty || g.wagons = 0 then [] else [(g.wagon, g.wagons)]

/-- The wagons of a part of a copy. -/
def partRange (slot : Nat) (c : Copy) (p : Part) : List (Nat × Nat) :=
  let n := p.aW + p.bW + p.sW + p.vW + p.xW
  if n = 0 then [] else [(wagonAt slot c p.first, n)]

/-- The wagons of the shared parts of a stop (R82). -/
def State.sharedRange (s : State) (h : Header) (n : Nat) (p : StopPlan) : List (Nat × Nat) :=
  ((s.sharedAt h.layer p.stop n).filter fun y => p.shared.contains y.1.handle).flatMap fun y => partRange y.1.slot y.2.1 y.2.2

/-- The wagons of the heads that a HEAD stop uses (R357, R358). -/
def State.headRange (s : State) (p : StopPlan) : List (Nat × Nat) :=
  p.rows.flatMap fun i => match s.rowOwner i with
    | none => []
    | some q => ((s.outUse q i).toList ++ s.specUses q i ++ (s.planeUse q i).toList).flatMap fun u => partRange u.slot u.copy u.part

/-- The wagons that a tick uses, in the order of R41 within each stop: shared parts, scores, segments, heads. -/
def State.wagonNeeds (s : State) (tt : Timetable) : List (Nat × Nat) :=
  tt.plan.flatMap fun p =>
    s.sharedRange tt.hdr tt.tick p ++ p.score.flatMap Seg.range ++ (p.passes.flatMap id).flatMap Seg.range
    ++ (if tt.hdr.kind = 2 then s.headRange p else [])

/-- The wagon addresses of ranges. -/
def wagonList (rs : List (Nat × Nat)) : List Nat := rs.flatMap fun r => (List.range r.2).map fun i => r.1 + 4352 * i

/-! Prediction (R278). -/

/-- The tick of a line that follows one, in the order of R13; a HEAD tick is followed by EMBED (assumption log 76). -/
def State.nextOf (s : State) (kind layer : Nat) : Nat × Nat :=
  if kind = 0 then (1, 0)
  else if kind = 1 then (if layer < s.layersM1 then (1, layer + 1) else (2, 0))
  else if kind = 3 && layer ≠ 0 then (3, layer - 1)
  else (0, 0)

/-- The headers predicted for the two ticks after the one of header `h`; a predicted LAYER tick has its stops (R278, assumption
log 76). -/
def State.predicted (s : State) (h : Header) : List Header :=
  let other := 1 - h.line
  let ran (l : Nat) : Bool := !(s.line l).layerAt.isEmpty || (l = h.line && h.kind = 1)
  let mk (l : Nat) (k : Nat × Nat) : Header := ⟨k.1, l, k.2, if k.1 = 1 || k.1 = 3 then h.stops else 1⟩
  let own := s.nextOf h.kind h.layer
  if ran 0 && ran 1 then
    let o := match (s.line other).last with | some (k, l) => s.nextOf k l | none => (0, 0)
    [mk other o, mk h.line own]
  else [mk h.line own, mk h.line (s.nextOf own.1 own.2)]

/-- The wagons that the predicted ticks use, in order (R278, R279). -/
def State.lookAhead (s : State) (tt : Timetable) : List (List Nat) :=
  (s.predicted tt.hdr).zipIdx.map fun h =>
    let n := tt.tick + 1 + h.2
    wagonList (s.wagonNeeds (s.draft h.1 n (s.planTick h.1 n []) (s.takeSamp h.1 n)))

/-! Programs: where their lines stand. -/

/-- A line of a program: its number, whether it stands in a loop, and the stop, with its pass unless it is the last, whose marks come
next: the work of a line belongs to them (assumption log 77). -/
structure ProgLine where
  line   : TLine
  idx    : Nat
  looped : Bool
  home   : Option (Nat × Option Nat)
  deriving DecidableEq, Repr

/-- The marks that come next at each line. -/
def lineHomes : List TLine → List (Option (Nat × Option Nat))
  | [] => []
  | l :: ls =>
    let rest := lineHomes ls
    (if ctlOp l = 5 then some (ctlArg l % 8, some (ctlArg l / 8 % 4))
     else if ctlOp l = 4 then some (ctlArg l % 8, none) else (rest.head?).getD none) :: rest

/-- The lines that stand in a loop. -/
def loopedLines : Nat → List TLine → List Bool
  | _, [] => []
  | depth, l :: ls =>
    let d := if ctlOp l = 1 then depth + 1 else depth
    decide (0 < d) :: loopedLines (if ctlOp l = 2 then d - 1 else d) ls

/-- The lines of a program with their places. -/
def progLines (ls : List TLine) : List ProgLine :=
  (((ls.zip (lineHomes ls)).zip (loopedLines 0 ls)).zipIdx).map fun x => ⟨x.1.1.1, x.2, x.1.2, x.1.1.2⟩

/-- The line works for a pass of a stop. -/
def ProgLine.works (l : ProgLine) (p : StopPlan) (pass : Nat) : Bool :=
  match l.home with
  | some (st, k) => st = p.stop && k.getD (p.passes.length - 1) = pass
  | none => false

/-! Programs: encodings. -/

/-- The codes and reserved fields of a line (R59 to R65). -/
def lineCodes (l : TLine) : Bool :=
  decide (ctlOp l ≤ 6) && decide (ctlWait l ≤ 6) && lF l 992 2 = 0 && lF l 984 5 = 0
  && (List.range 32).all (fun t => opCode (slotOp (trainSlot l t)))
  && decide (xchOp (xchSlot l) ≤ 4) && xchSlot l % 8 = 0 && decide (actOp (actSlot l) ≤ 6) && actSlot l % 2 = 0
  && decide (actRows (actSlot l) ≤ 8192)

/-- A program fits its buffer and has no reserved code (R57 to R65). -/
def programCodes (tt : Timetable) : Bool :=
  decide (tt.lines.length ≤ 131072) && decide (tt.fetch.length ≤ 131072) && tt.lines.all lineCodes
  && tt.fetch.all (fun e => e.toNat / 2 ^ 61 = 0) && loopsPair 4 [] tt.lines

/-- The marks of the program (R67, R133): for each stop its passes in order and its end, TICK_END last, none in a loop. -/
def programMarks (tt : Timetable) (ps : List ProgLine) : Bool :=
  let marks := ps.filter fun l => decide (4 ≤ ctlOp l.line)
  let of_ (st : Nat) : List (Option Nat) := marks.filterMap fun l =>
    if ctlOp l.line ≠ 6 && ctlArg l.line % 8 = st then some (if ctlOp l.line = 5 then some (ctlArg l.line / 8 % 4) else none) else none
  let want (k : Nat) : List (Option Nat) := (List.range k).map some ++ [none]
  marks.all (fun l => !l.looped && (ctlOp l.line = 6 || tt.plan.any fun p => p.stop = ctlArg l.line % 8))
  && (tt.plan.all fun p => of_ p.stop = want (p.passes.length - 1) || of_ p.stop = want p.passes.length)
  && (match ps.reverse with
    | l :: rest => ctlOp l.line = 6 && rest.all fun y => ctlOp y.line != 6
    | [] => false)

/-! Programs: exchange and activation. -/

/-- The exchange slots (R54, R55, R63, R515): the digest first and once, then each consignment once in the order of its number, with its
length, stop and pass; what is expected is a consignment, with the same fields. -/
def programSends (tt : Timetable) (ps : List ProgLine) : Bool :=
  let slots := ps.filter fun l => xchOp (xchSlot l.line) != 0
  let once (l : ProgLine) : Bool := !l.looped && ctlRepeat l.line = 0
  let sends := (slots.drop 1).filter fun l => xchOp (xchSlot l.line) != 2
  let fields (w : Nat) : List Nat := [xchNum w, xchFlits w, xchStopOf w, xchPassOf w]
  let told (c : ConsPlan) : List Nat := [c.num, c.len, c.stop, c.pass]
  (match slots with
    | l :: _ => let w := xchSlot l.line; xchOp w = 4 && xchNum w = 0 && xchFlits w = 1 && once l
    | [] => false)
  && sends.all once
  && sends.map (fun l => let w := xchSlot l.line; xchOp w :: fields w)
      = tt.cons.map (fun c => (if c.kind = 2 then 3 else 1) :: told c)
  && slots.all fun l => xchOp (xchSlot l.line) != 2 || tt.cons.any fun c => told c = fields (xchSlot l.line)

/-- The line that sends a consignment. -/
def sendAt (ps : List ProgLine) (num : Nat) : Nat :=
  (ps.takeWhile fun l => !((xchOp (xchSlot l.line) = 1 || xchOp (xchSlot l.line) = 3) && xchNum (xchSlot l.line) = num)).length

/-- The lines that wait for a kind of condition. -/
def waitLines (ps : List ProgLine) (kind : Nat) : List ProgLine := ps.filter fun l => ctlOp l.line = 3 && ctlWait l.line = kind

/-- The row groups of a stop that hold routing rows, ascending (R187). -/
def routingGroups (tt : Timetable) (p : StopPlan) : List Nat :=
  let size := ((tt.cons.find? fun c => c.stop = p.stop && c.pass = 0).map (·.size)).getD 1024
  sortNat (p.routing.map fun r => r.1 / max 1 size)

/-- A consignment goes out once the rows of its group are present and its routed rows placed, and the program waits for it before the
pass ends, group after group (R112, R187). A learned group's scores are awaited by the routing wait. -/
def consWaits (tt : Timetable) (ps : List ProgLine) (c : ConsPlan) : Bool :=
  match tt.plan.find? fun p => p.stop = c.stop with
  | none => false
  | some p =>
    let out := sendAt ps c.num
    let rows := if c.kind = 4 then [] else groupRows p c.size c.group
    let reach := (p.rows.zipIdx.filter fun r => rows.contains r.1).foldl (fun a r => max a (r.2 + 1)) 0
    let present := reach = 0 || (waitLines ps 3).any fun l =>
      decide (l.idx ≤ out) && ctlArg l.line / 16384 % 8 = c.stop && decide (reach ≤ ctlArg l.line % 16384)
    let groups := routingGroups tt p
    let size0 := ((tt.cons.find? fun y => y.stop = p.stop && y.pass = 0).map (·.size)).getD 1024
    let last := (p.routing.filter fun r => rows.contains r.1).foldl (fun a r => max a (groups.idxOf (r.1 / max 1 size0) + 1)) 0
    let released := ((waitLines ps 6).filter fun l => decide (l.idx ≤ out) && ctlArg l.line % 8 = c.stop).length
    let back := (waitLines ps 2).any fun l => decide (out < l.idx) && ctlArg l.line % 128 = c.num && l.works p c.pass
    present && (c.kind != 0 || decide (last ≤ released))
    && (back || (c.kind = 1 && p.learned.any fun r => rows.contains r.1))

/-- The line that waits for a consignment's return; the end of the program where none does. -/
def backAt (ps : List ProgLine) (num : Nat) : Nat :=
  (((waitLines ps 2).find? fun l => ctlArg l.line % 128 = num).map (·.idx)).getD ps.length

/-- The waits of the program: one for each consignment, in order within a pass; one for each routing row group of a stop (R112, R187). -/
def programWaits (tt : Timetable) (ps : List ProgLine) : Bool :=
  tt.cons.all (consWaits tt ps)
  && (tt.cons.all fun c => tt.cons.all fun d =>
      !(c.stop = d.stop && c.pass = d.pass && c.kind = d.kind && (c.kind = 0 || c.kind = 3) && decide (c.group < d.group))
        || decide (backAt ps c.num ≤ backAt ps d.num))
  && tt.plan.all fun p =>
    ((waitLines ps 6).filter fun l => ctlArg l.line % 8 = p.stop).length = (routingGroups tt p).length

/-- Row positions that the activation slots of some operations take of a stop: first position and count. -/
def actSpans (ps : List ProgLine) (ops : List Nat) (stop : Nat) : List (Nat × Nat) :=
  ps.filterMap fun l =>
    let w := actSlot l.line
    if ops.contains (actOp w) && actStop w = stop then some (actBase w, actRows w * (ctlRepeat l.line + 1)) else none

/-- The activation slots (R64): those that accept or emit name stops of the tick and a port, gradient rows are those of a BACKWARD tick, and
every row position of a stop is accepted, in whatever pieces (assumption log 22). -/
def programActs (tt : Timetable) (ps : List ProgLine) : Bool :=
  (ps.all fun l =>
    let w := actSlot l.line
    actOp w = 0 || actOp w = 3
      || (tt.plan.any (fun p => p.stop = actStop w) && (actOp w != 4 || tt.hdr.kind = 3) && (decide (5 ≤ actOp w) || actPorts w != 0)))
  && tt.plan.all fun p =>
    let got := actSpans ps (if tt.hdr.kind = 3 then [1, 4] else [1]) p.stop
    (List.range (ceilDiv p.rows.length 16)).all fun k =>
      let last := min p.rows.length (16 * (k + 1)) - 1
      got.any (fun g => decide (g.1 ≤ 16 * k ∧ 16 * k < g.1 + g.2)) && got.any fun g => decide (g.1 ≤ last ∧ last < g.1 + g.2)

/-! Programs: entries and cars (R56, R59, R60, R147, R148, R163). -/

/-- The entry is worked by a train slot of this operation: the score list and the work of embedding and head stops have none. -/
def segOp (op : Nat) : Bool := op != 0 && !([0x0A, 0x0B, 0x0C, 0x0D, 0x0E, 0x11].contains op)

/-- The operation reads the entry's weights, whose format its slot names (R59). -/
def weightOp (op : Nat) : Bool := [0x01, 0x02, 0x03, 0x0F, 0x10].contains op

/-- A use of an entry of a pass by a car. -/
structure CarUse where
  train : Nat
  car   : Nat
  base  : Nat
  entry : Nat
  seg   : Nat              -- the segment, in the order of R41, that the entry holds or divides
  op    : Nat
  clr   : Bool
  final : Bool
  idx   : Nat              -- the line
  deriving DecidableEq, Repr

/-- The splits of a pass. -/
def splitsOf (tt : Timetable) (p : StopPlan) (pass : Nat) : List Split := tt.splits.filter fun x => x.stop = p.stop && x.pass = pass

/-- The places of empty entries: those of the disabled cars of the trains that work on a pass (R56). -/
def State.emptyPlaces (s : State) (ps : List ProgLine) (p : StopPlan) (pass : Nat) : List Nat :=
  sortNat ((ps.filter fun l => l.works p pass).flatMap fun l => (List.range s.build.trains).flatMap fun t =>
    let w := trainSlot l.line t
    if !segOp (slotOp w) then [] else
    (List.range 16).filterMap fun c => if s.clusterOn (16 * t + c) then none else slotEntry w c)

/-- The entries of `n` segments in order, past the empty ones; where the table has no room for those, the segments stand without a gap
(R56, R145; assumption log 106). -/
def entryPlaces (empty : List Nat) (n : Nat) : List Nat :=
  let at_ := ((List.range (n + empty.length)).filter fun i => !empty.contains i).take n
  if (at_.getLast?.getD 0) < 2048 then at_ else List.range n

/-- The table entries of the segments of a pass. -/
def Timetable.placesOf (tt : Timetable) (stop pass n : Nat) : List Nat :=
  ((tt.places.find? fun x => x.1 = stop && x.2.1 = pass).map (·.2.2)).getD (List.range n)

/-- Entries that the segments of a pass take, the empty ones among them. -/
def Timetable.entriesOf (tt : Timetable) (stop pass n : Nat) : Nat :=
  match (tt.placesOf stop pass n).getLast? with | some e => e + 1 | none => n

/-- The entries of a pass that work is for, with the segment of each: the segments' own, then the splits (R145). -/
def passEntries (tt : Timetable) (p : StopPlan) (pass : Nat) : List (Nat × Nat × Seg) :=
  let segs := p.passes.getD pass []
  let at_ := tt.placesOf p.stop pass segs.length
  let top := tt.entriesOf p.stop pass segs.length
  (segs.zipIdx.filterMap fun g => if g.1.empty then none else some (at_.getD g.2 g.2, g.2, g.1))
  ++ (splitsOf tt p pass).zipIdx.filterMap fun x => (segs[x.1.parent]?).map fun g => (top + x.2, x.1.parent, g)

/-- What enabled cars do on the entries of a pass, in program order. Under an operation on weights, a car whose entry has another format than
the slot idles (R59, R163). -/
def State.carUses (s : State) (tt : Timetable) (ps : List ProgLine) (p : StopPlan) (pass : Nat) : List CarUse :=
  let es := passEntries tt p pass
  (ps.filter fun l => l.works p pass).flatMap fun l => (List.range s.build.trains).flatMap fun t =>
    let w := trainSlot l.line t
    if !segOp (slotOp w) then [] else
    (List.range 16).filterMap fun c =>
      if !s.clusterOn (16 * t + c) then none else
      (slotEntry w c).bind fun e => (es.find? fun x => x.1 = e).bind fun x =>
        if weightOp (slotOp w) && slotFmt w != x.2.2.fmt then none
        else some ⟨t, c, slotBase w, e, x.2.1, slotOp w, slotClr w, slotFinal w, l.idx⟩

/-- The operations that an entry's work takes (R60): by its form, its scale, steering and routing; the exchange's only in a group of more
than one; in a BACKWARD tick its products and, where its part steps, OPT. A special working does what its fragment says (R71). -/
def State.entryOps (s : State) (tt : Timetable) (stop : Nat) (g : Seg) : List Nat :=
  let xch (ops : List Nat) : List Nat := if s.groupSize = 1 then [] else ops
  if g.form = 3 then [] else
  if tt.hdr.kind = 3 then
    (if g.form = 2 then [] else [0x01, 0x02] ++ xch [0x07, 0x08]) ++ [0x0F]
    ++ (if tt.steps.any fun k => k.stop = stop && k.handle = g.handle then [0x10] else [])
  else if g.form = 2 then [0x06]
  else [0x01, 0x02] ++ xch [0x07, 0x08] ++ [0x03] ++ (if g.hasS then [0x04] else []) ++ (if g.routed then [0x05] else [])
    ++ (if g.hasV then [0x06] else [])

/-- One car, or in a BACKWARD tick the cars of one train, works on an entry, with every operation that its work takes; an accumulating
operation is cleared where it begins and marked where it ends (R56, R59, R60, R163, R440). -/
def State.entryServed (s : State) (tt : Timetable) (stop : Nat) (uses : List CarUse) (e : Nat × Nat × Seg) : Bool :=
  match uses.filter fun u => u.entry = e.1 with
  | [] => false
  | u :: us =>
    let mine := u :: us
    let inP := inPrefill s.build.trains tt.idle tt.prefillN u.train
    let free := if e.2.2.prefill then tt.prefillN = 0 else tt.prefillN = tt.allow
    let ends (op : Nat) : Bool :=
      match mine.filter fun v => v.op = op with
      | [] => true
      | v :: vs => v.clr && ((v :: vs).getLast?.map (·.final)).getD true
    us.all (fun v => v.train = u.train && (v.car = u.car || tt.hdr.kind = 3))
    && (tt.hdr.kind = 3 || free || inP = e.2.2.prefill)
    && (s.entryOps tt stop e.2.2).all (fun op => mine.any fun v => v.op = op)
    && (tt.hdr.kind = 3 || e.2.2.form = 3 || [0x02, 0x03].all ends)

/-- Work of an entry, as it counts toward a car's beats: its positions times the tiled rank times both widths (R94; assumption log 22). -/
def State.entryWork (s : State) (stop : Nat) (g : Seg) : Nat :=
  let r := 8 * (g.rank8 + 1)
  let rt := if r ≤ 8 then 8 else if r ≤ 16 then 16 else if r ≤ 32 then 32 else roundUp r 64
  (if g.routed then g.cap else g.run.length) * (if g.form = 2 then s.outW stop else rt * (s.inW stop + s.outW stop))

/-- The beats are as nearly equal as moving one block of entries to another train of the yard can make them: no such move lowers the higher
of the two trains' loads (R163; assumption log 22). A block is what one SEG_BASE gives a train's cars. -/
def State.balanced (s : State) (tt : Timetable) (p : StopPlan) (pass : Nat) (uses : List CarUse) : Bool :=
  let es := passEntries tt p pass
  let work (e : Nat) : Nat := ((es.find? fun x => x.1 = e).map fun x => s.entryWork p.stop x.2.2).getD 0
  let blocks := (uses.map fun u => (u.train, u.base)).eraseDups
  let load (t : Nat) (without : Nat → Bool) (c : Nat) : Nat :=
    ((uses.filter fun u => u.train = t && u.car = c && !without u.base).map (·.entry)).eraseDups.foldl (fun a e => a + work e) 0
  let cars := List.range 16
  let top (f : Nat → Nat) : Nat := (cars.map f).foldl max 0
  tt.hdr.kind = 3 || blocks.all fun b =>
    let here := top (load b.1 fun _ => false)
    let mine (c : Nat) : Nat := load b.1 (fun x => x != b.2) c
    (List.range s.build.trains).all fun t =>
      t = b.1 || tt.idle.contains t
      || inPrefill s.build.trains tt.idle tt.prefillN t != inPrefill s.build.trains tt.idle tt.prefillN b.1
      || !cars.all (fun c => mine c = 0 || s.clusterOn (16 * t + c))
      || decide (max here (top (load t fun _ => false))
          ≤ max (top (load b.1 fun x => x = b.2)) (top fun c => load t (fun _ => false) c + mine c))

/-- The score list's entries and the work of embedding and head stops: SCORE for each score entry before its consignment goes out,
GATHER_POOL, and LOGIT with TOPK before the gather and SAMPLE after it (R60, R173). -/
def State.passExtras (s : State) (tt : Timetable) (ps : List ProgLine) (p : StopPlan) : Bool :=
  let slots := ps.flatMap fun l => if l.works p 0 || l.works p (p.passes.length - 1) then
      (List.range s.build.trains).map fun t => (l.idx, t, trainSlot l.line t) else []
  let has (op lo hi : Nat) : Bool := slots.any fun x => slotOp x.2.2 = op && decide (lo ≤ x.1 ∧ x.1 ≤ hi)
  let on (t c : Nat) : Bool := s.clusterOn (16 * t + c)
  let scored := (List.range p.score.length).all fun e => slots.any fun x =>
    slotOp x.2.2 = 0x0A && (List.range 16).any fun c => slotEntry x.2.2 c = some e && on x.2.1 c
      && (match tt.cons.find? fun y => y.stop = p.stop && y.kind = 1 with | some y => decide (x.1 ≤ sendAt ps y.num) | none => true)
  scored
  && (p.rows.isEmpty || tt.hdr.kind != 0 || has 0x0B 0 ps.length)
  && (p.rows.isEmpty || tt.hdr.kind != 2 || tt.cons.all fun y => y.kind != 2
      || (has 0x0C 0 (sendAt ps y.num) && has 0x0D 0 (sendAt ps y.num) && has 0x0E (backAt ps y.num) ps.length))

/-- Each entry of a pass is served, every car takes up the segments of an operation in the order of R41, the trains are balanced, and shared
work runs in pass 0 only (R56, R133, R158, R163). -/
def State.passServed (s : State) (tt : Timetable) (ps : List ProgLine) (p : StopPlan) (pass : Nat) : Bool :=
  let uses := s.carUses tt ps p pass
  (passEntries tt p pass).all (s.entryServed tt p.stop uses)
  && (List.range s.build.trains).all (fun t => (List.range 16).all fun c => (List.range 22).all fun op =>
    let mine := ((uses.filter fun u => u.train = t && u.car = c && u.op = op).map (·.seg)).eraseDups
    mine = sortNat mine)
  && s.balanced tt p pass uses
  && (pass = 0 || (ps.filter fun l => l.works p pass).all fun l => (List.range s.build.trains).all fun t =>
      slotOp (trainSlot l.line t) = 0 || !slotShared (trainSlot l.line t))

/-- The order of train work around a u consignment (R112): the down legs of the entries that it carries are issued by its sending, shared
ones among them; their up legs from its return on, the tenants' before the shared ones. -/
def State.consOrder (s : State) (tt : Timetable) (ps : List ProgLine) (c : ConsPlan) : Bool :=
  match tt.plan.find? fun p => p.stop = c.stop with
  | none => false
  | some p =>
    if c.kind ≠ 0 then true else
    let out := sendAt ps c.num
    let back := backAt ps c.num
    let uses := s.carUses tt ps p c.pass
    let es := (passEntries tt p c.pass).filter fun e => (e.2.2.form = 0 || e.2.2.form = 1)
      && (e.2.2.routed || e.2.2.run.any fun v => v.row / max 1 c.size = c.group && !p.gone.contains v.row)
    let shared (op : Nat) : List Nat := (ps.filter fun l => l.works p c.pass && (List.range s.build.trains).any fun t =>
      slotOp (trainSlot l.line t) = op && slotShared (trainSlot l.line t)).map (·.idx)
    let sh := c.pass = 0 && !p.sharedU.isEmpty
    let ups := es.filterMap fun e => (uses.find? fun u => u.entry = e.1 && u.op = 0x03 && decide (back ≤ u.idx)).map (·.idx)
    es.all (fun e => uses.any fun u => u.entry = e.1 && u.op = 0x02 && decide (u.idx ≤ out))
    && ups.length = es.length
    && (!sh || ((shared 0x02).any (fun i => decide (i ≤ out))
        && (shared 0x03).any fun i => decide (back ≤ i ∧ ups.foldl max 0 ≤ i)))

/-- The splits of a segment are exact: with the parent's piece they are every row slice of its positions taken with every span, the slices
at multiples of 16, the spans equal and no narrower than 64 elements of the input or the output (R147, R148). -/
def State.splitsExact (s : State) (g : Seg) (stop : Nat) (xs : List Split) : Bool :=
  let starts := sortNat (0 :: xs.map (·.ptr))
  let n := (xs.head?.map (·.spans)).getD 1
  let ends := starts.drop 1 ++ [g.run.length]
  let pieces := ((starts.zip ends).flatMap fun r => (List.range n).map fun k => (r.1, r.2 - r.1, k)).drop 1
  !g.routed && !g.empty && [1, 2, 4, 8, 16].contains n
  && s.inW stop % n = 0 && s.outW stop % n = 0 && decide (n = 1 ∨ (64 ≤ s.inW stop / n ∧ 64 ≤ s.outW stop / n))
  && starts.all (fun a => a % 16 = 0 && decide (a < g.run.length)) && xs.all (fun x => x.spans = n)
  && sortBy (fun a b => keyLt [a.1, a.2.2] [b.1, b.2.2]) (xs.map fun x => (x.ptr, x.rows, x.span)) = pieces

/-- The splits of a pass stand in entries that would be EMPTY, and divide segments of it (R145, R147). -/
def State.passSplits (s : State) (tt : Timetable) (p : StopPlan) (pass : Nat) : Bool :=
  let segs := p.passes.getD pass []
  let xs := splitsOf tt p pass
  decide (tt.entriesOf p.stop pass segs.length + xs.length ≤ 2048)
  && (sortNat (xs.map (·.parent))).all fun i => match segs[i]? with
    | some g => s.splitsExact g p.stop (xs.filter fun x => x.parent = i)
    | none => false

/-- Entries, splits and idle trains of a program (R56, R147, R148, R163, R481). -/
def State.programCars (s : State) (tt : Timetable) (ps : List ProgLine) : Bool :=
  let table := tt.hdr.kind = 1 || tt.hdr.kind = 3
  tt.splits.all (fun x => table && tt.plan.any fun p => p.stop = x.stop && decide (x.pass < p.passes.length))
  && (!table || (tt.plan.all fun p => (List.range p.passes.length).all fun k => s.passServed tt ps p k && s.passSplits tt p k)
      && tt.cons.all (s.consOrder tt ps))
  && tt.plan.all (s.passExtras tt ps)
  && ps.all fun l => tt.idle.all (fun t => slotOp (trainSlot l.line t) = 0)
      && (List.range 32).all fun t => decide (t < s.build.trains) || trainSlot l.line t = 0

/-! Shared parts and home cars (R95, R109). -/

/-- The enabled cars of the trains that work, ascending by train and car. -/
def State.workCars (s : State) (idle : List Nat) : List Nat :=
  (List.range s.clusters).filter fun c => s.clusterOn c && !idle.contains (c / 16)

/-- How a shared part is tiled for `rows` rows on `cars` cars: blocks of 16 rows, rank tiles of 64, and input spans, as many as give every
car one where blocks and rank tiles alone do not (R95; how many, and which car has which tile, is the model's: assumption log 108). -/
def sharedTiles (p : Part) (rows cars : Nat) : Nat × Nat × Nat :=
  let b := ceilDiv rows 16
  let r := ceilDiv (8 * (p.rank8 + 1)) 64
  (b, r, max 1 (min (cars / max 1 (b * r)) p.inW64))

/-- The cars that work on the tiles that satisfy `want`: tile after tile over the cars in turn. -/
def tileCars (cars : List Nat) (t : Nat × Nat × Nat) (want : Nat → Nat → Nat → Bool) : List Nat :=
  sortNat ((List.range (t.1 * t.2.1 * t.2.2)).filterMap fun i =>
    if want (i / t.2.2 / t.2.1) (i / t.2.2 % t.2.1) (i % t.2.2) then cars[i % max 1 cars.length]? else none)

/-- The rank tile of a wagon of a part, and the fraction of the input width that it covers as first and last span of `n`: a down factor's
columns run over the input; of its other wagons every span has the rank tile. -/
def wagonTile (fmt : Nat) (p : Part) (w n : Nat) : Nat × Nat × Nat :=
  let logical (i : Nat) : Nat := if fmt = 0 then i / 2 else if fmt = 4 then 2 * i else i
  let r := 8 * (p.rank8 + 1)
  if w < p.aW then
    let t := logical w
    if r < 64 then (0, 0, n - 1)
    else (t / max 1 p.inW64, t % max 1 p.inW64 * n / max 1 p.inW64, t % max 1 p.inW64 * n / max 1 p.inW64)
  else if w < p.aW + p.bW then ((if r ≤ 64 then 0 else logical (w - p.aW) % ceilDiv r 64), 0, n - 1)
  else (0, 0, n - 1)

/-- Rows of a stop in the largest of its row groups in pass 0. -/
def largestGroup (tt : Timetable) (p : StopPlan) : Nat :=
  let size := ((tt.cons.find? fun y => y.stop = p.stop && y.pass = 0).map (·.size)).getD 1024
  ((sortNat (p.rows.map fun r => r / max 1 size)).map fun g => (p.rows.filter fun r => r / max 1 size = g).length).foldl max 0

/-- The wagons of the shared parts of a tick, each with the cars whose tile it belongs to (R95). -/
def State.broadcasts (s : State) (tt : Timetable) : List (Nat × List Nat) :=
  let cars := s.workCars tt.idle
  tt.plan.flatMap fun p =>
    ((s.sharedAt tt.hdr.layer p.stop tt.tick).filter fun y => p.shared.contains y.1.handle).flatMap fun y =>
      let t := sharedTiles y.2.2 (largestGroup tt p) cars.length
      (wagonList (partRange y.1.slot y.2.1 y.2.2)).zipIdx.map fun a =>
        let w := wagonTile y.2.1.fmt y.2.2 a.2 t.2.2
        (a.1, tileCars cars t fun _ r k => r = w.1 && decide (w.2.1 ≤ k ∧ k ≤ w.2.2))

/-- The home cars of a row: the car of its first segment in schedule order; of a row slice, that of the slice's first span. A row that may
visit routed segments before that is counted with their cars too, since its choices are placed while the tick runs. A row of shared parts
alone has the lowest car of its block of 16 rows in its row group (R109). -/
def State.homeCars (s : State) (tt : Timetable) (ps : List ProgLine) (p : StopPlan) (row : Nat) : List Nat :=
  let uses (k : Nat) := s.carUses tt ps p k
  let carOf (k e : Nat) : Option Nat := ((uses k).find? fun u => u.entry = e).map fun u => 16 * u.train + u.car
  let entry (k : Nat) (g : Seg × Nat) : Nat :=
    let segs := p.passes.getD k []
    let at_ := g.1.run.findIdx fun v => v.row = row
    let piece := (splitsOf tt p k).findIdx fun x => x.parent = g.2 && x.span = 0 && decide (x.ptr ≤ at_ ∧ at_ < x.ptr + x.rows)
    if piece < (splitsOf tt p k).length then tt.entriesOf p.stop k segs.length + piece
    else (tt.placesOf p.stop k segs.length).getD g.2 g.2
  let all := (List.range p.passes.length).flatMap fun k => (p.passes.getD k []).zipIdx.map fun g => (k, g)
  let mine (g : Seg) : Bool := g.visits.any fun v => v.row = row
  let routes (g : Seg) : Bool := g.routed && p.routing.any fun r => r.1 = row && r.2 = fld g.handle 0 18
  let before := all.takeWhile fun x => !mine x.2.1
  let found := (before.filter fun x => routes x.2.1) ++ ((all.drop before.length).take 1)
  if found.isEmpty then
    match (s.sharedAt tt.hdr.layer p.stop tt.tick).find? fun y => p.shared.contains y.1.handle with
    | none => []
    | some y =>
      let cars := s.workCars tt.idle
      let size := ((tt.cons.find? fun z => z.stop = p.stop && z.pass = 0).map (·.size)).getD 1024
      let group := p.rows.filter fun r => r / max 1 size = row / max 1 size
      let block := (group.takeWhile fun r => r != row).length / 16
      ((tileCars cars (sharedTiles y.2.2 (largestGroup tt p) cars.length) fun b _ _ => b = block).head?).toList
  else sortNat (found.filterMap fun x => carOf x.1 (entry x.1 x.2))

/-- The home cars of the rows of a LAYER tick, by stop and row. -/
def State.homesOf (s : State) (tt : Timetable) (ps : List ProgLine) : List (Nat × Nat × Nat) :=
  if tt.hdr.kind ≠ 1 then [] else
  tt.plan.flatMap fun p => (p.rows.filter fun r => !p.late.contains r).flatMap fun r =>
    (s.homeCars tt ps p r).map fun c => (p.stop, r, c)

/-- Passes in which a row may have visits. -/
def rowPasses (p : StopPlan) (row : Nat) : Nat :=
  ((List.range p.passes.length).filter fun k => (p.passes.getD k []).any fun g =>
    (g.visits.any fun v => v.row = row) || (g.routed && p.routing.any fun r => r.1 = row && r.2 = fld g.handle 0 18)).length

/-- Bytes of merge accumulators that a car must have room for at one stop: those of its rows that stay over several passes, and of one row
group (R109, R134). -/
def State.mergeNeed (s : State) (tt : Timetable) (p : StopPlan) (c : Nat) : Nat :=
  let size := ((tt.cons.find? fun y => y.stop = p.stop && y.pass = 0).map (·.size)).getD 1024
  let mine := (tt.homes.filter fun h => h.1 = p.stop && h.2.2 = c).map (·.2.1)
  let long := (mine.filter fun r => decide (1 < rowPasses p r)).length
  let short := mine.filter fun r => !decide (1 < rowPasses p r)
  let most := ((sortNat (short.map fun r => r / max 1 size)).map fun g => (short.filter fun r => r / max 1 size = g).length).foldl max 0
  (long + most) * s.outW p.stop * 8

/-! Programs: wagons (R56, R62, R95, R277 to R280, R296). -/

/-- The entries that fetch slots name stand in the list. -/
def fetchesIn (tt : Timetable) : Bool :=
  tt.lines.all fun l => (List.range 4).all fun k =>
    let w := fetchSlot l k
    fetchKind w = 0 || decide (fetchIdx w + fetchCount w * (ctlRepeat l + 1) ≤ tt.fetch.length)

/-- A wagon lies in a car's platform when the tick begins. -/
def State.resident (s : State) (cluster addr : Nat) : Bool :=
  s.frames.any fun f => 16 * f.train + f.car = cluster && f.addr = addr

/-- A wagon is fetched for a car, or lies in its platform. -/
def State.brought (s : State) (fs : List (Nat × DWord)) (cluster addr : Nat) : Bool :=
  s.resident cluster addr || fs.any fun f => fetchCar f = cluster && entryAddr f.2 = addr

/-- Bytes of row store that a car gives to the tick: the largest two stops', spread over the enabled cars (R18, R136). -/
def State.storeShare (s : State) (tt : Timetable) : Nat :=
  let bytes (p : StopPlan) : Nat :=
    let later := (p.passes.drop 1).flatMap fun q => q.flatMap fun x => x.visits.map (·.row)
    (sortNat (later ++ (p.routing.map (·.1)).filter fun r => !p.late.contains r)).length * s.storeBytes tt.hdr.kind p.stop
  let two := (sortBy (fun a b => decide (b < a)) (tt.plan.map bytes)).take 2
  ceilDiv (two.foldl (· + ·) 0) (max 1 s.enabledClusters)

/-- The wagon area of a car: all that working buffers, row store and merge accumulators leave free, up to 361 frames (R277). -/
def State.areaOf (s : State) (tt : Timetable) (kept : Nat × Nat) : Nat :=
  min 361 ((1572864 - (kept.1 + kept.2 + s.storeShare tt)) / 4352)

/-- The platforms (R109, R277): every enabled car has an area of 128 frames or more, and its merge accumulators have the room they need. -/
def State.programAreas (s : State) (tt : Timetable) : Bool :=
  tt.areas.length = s.clusters && tt.merge.length = s.clusters
  && (List.range s.clusters).all fun c =>
    !s.clusterOn c || (decide (128 ≤ tt.areas.getD c 0)
      && (tt.hdr.kind != 1 || tt.plan.all fun p => decide (s.mergeNeed tt p c ≤ tt.merge.getD c 0)))

/-- The place of a wagon in the look-ahead order. -/
def aheadPlace (ahead : List Nat) (a : Nat) : Nat := ahead.idxOf a

/-- The 4,352-byte units of a trained wagon's state block (R440, R447). -/
def stateUnits (slot parts fmt opt w : Nat) : List Nat :=
  let size := momentBlock fmt opt
  (List.range (ceilDiv size 4352)).map fun i => slot * 2 ^ 30 + 2 ^ 29 + momentBase parts + w * size + 4352 * i

/-- The state units of the steps of a BACKWARD tick, each wagon's together. -/
def State.stepUnits (s : State) (tt : Timetable) (k : StepPlan) : List (Nat × List Nat) :=
  match s.resolve k.handle tt.tick with
  | some (d, c) => match s.partAt c tt.hdr.layer k.stop with
    | some p => (List.range (p.aW + p.bW + p.sW + p.vW)).map fun w =>
        (wagonAt d.slot c (p.first + w), stateUnits d.slot c.parts.length c.fmt k.opt (p.first + w))
    | none => []
  | none => []

/-- The wagons of the entries of a pass with the cars that work on them. Of a split segment, each wagon with the cars of its pieces; in a
BACKWARD tick, with the cars of its train (R62, R440). -/
def State.passWagons (s : State) (tt : Timetable) (ps : List ProgLine) (p : StopPlan) (pass : Nat) : List (Nat × List Nat × Bool) :=
  let uses := s.carUses tt ps p pass
  let split := (splitsOf tt p pass)
  (p.passes.getD pass []).zipIdx.flatMap fun g =>
    let cars := ((uses.filter fun u => u.seg = g.2).map fun u => 16 * u.train + u.car).eraseDups
    let sliced := (split.filter fun x => x.parent = g.2).all fun x => x.spans = 1
    (wagonList g.1.range).map fun a => (a, cars, tt.hdr.kind != 3 && sliced)

/-- Each wagon of an entry is in the platform of a car that works on it, and of each where every one needs it: row slices do (R62, R148,
R279, R280). Nothing of a poisoned object is fetched (R305). -/
def State.passFetched (s : State) (tt : Timetable) (ps : List ProgLine) (fs : List (Nat × DWord)) (p : StopPlan) (pass : Nat) : Bool :=
  (s.passWagons tt ps p pass).all fun x =>
    x.2.1.isEmpty || s.poisonedAt x.1
    || (if x.2.2 then x.2.1.all fun c => s.brought fs c x.1 else x.2.1.any fun c => s.brought fs c x.1)

/-- The cars at which a program works on the wagons of its entries (R280). -/
def State.onCars (s : State) (tt : Timetable) (ps : List ProgLine) : List (Nat × Nat) :=
  if tt.hdr.kind != 1 && tt.hdr.kind != 3 then [] else
  tt.plan.flatMap fun p => (List.range p.passes.length).flatMap fun k =>
    (s.passWagons tt ps p k).flatMap fun x => x.2.1.map fun c => (c, x.1)

/-- The wagons of a shared part are fetched once for each row group, and every working train works on the shared segment (R95). -/
def State.sharedFetched (s : State) (tt : Timetable) (ps : List ProgLine) (fs : List (Nat × DWord)) (p : StopPlan) : Bool :=
  let ws := (wagonList (s.sharedRange tt.hdr tt.tick p)).filter fun a => !s.poisonedAt a
  let size := ((tt.cons.find? fun y => y.stop = p.stop && y.pass = 0).map (·.size)).getD 1024
  let groups := (sortNat ((p.rows.filter fun r => !p.late.contains r).map fun r => r / max 1 size)).length
  ws.all (fun a => (fs.filter fun f => entryAddr f.2 = a).length = groups)
  && (ws.isEmpty || groups = 0 || (List.range s.build.trains).all fun t => tt.idle.contains t || ps.any fun l =>
      l.works p 0 && slotOp (trainSlot l.line t) != 0 && slotShared (trainSlot l.line t))

/-- What the look-ahead fetches leave out has no room: some working car's area is full, or the list is (R279). -/
def State.lookFilled (s : State) (tt : Timetable) (fs : List (Nat × DWord)) (ahead : List Nat) : Bool :=
  let full (c : Nat) : Bool :=
    let slots := (s.frames.filter fun f => 16 * f.train + f.car = c).map (·.slot) ++ (fs.filter fun f => fetchCar f = c).map fun f => entrySlot f.2
    decide (tt.areas.getD c 0 ≤ (sortNat slots).length)
  let missing := ahead.any fun a => !(fs.any fun f => entryAddr f.2 = a) && !(s.frames.any fun f => f.addr = a) && !s.poisonedAt a
  !missing || tt.fetch.length = 131072 || (s.workCars tt.idle).any full

/-- No fetch takes the frame of a wagon that the tick uses on that car, two fetches of the tick take no frame in common, and a look-ahead
fetch takes none of a wagon predicted no later than its own (R280; assumption log 22). -/
def State.framesSpared (s : State) (tt : Timetable) (fs own : List (Nat × DWord)) (ahead : List Nat) : Bool :=
  let key (f : Nat × DWord) : List Nat := [fetchCar f, entrySlot f.2]
  let spares (f : Nat × DWord) (p : Frame → Bool) : Bool :=
    s.frames.all fun y => !(16 * y.train + y.car = fetchCar f && y.slot = entrySlot f.2) || y.addr = entryAddr f.2 || p y
  (fs.map key).Nodup
  && fs.all (fun f => spares f fun y => !(tt.onCar.contains (fetchCar f, y.addr)))
  && (fs.drop own.length).all fun f => spares f fun y =>
      !ahead.contains y.addr || decide (aheadPlace ahead (entryAddr f.2) < aheadPlace ahead y.addr)

/-- A fetch-list entry names a row of a table in force: the rows lie one after another in the table's body (R331). -/
def State.rowEntry (s : State) (a : Nat) : Bool :=
  match s.dirAt (slotOf a) with
  | some d => match d.copyAt s.tick.count with
    | some c =>
      let base := regionBase d.slot c.regionB + 256
      c.kind = 3 && decide (base ≤ a) && (a - base) % 16 = 0 && decide ((a - base) / 16 < c.rows.length)
    | none => false
  | none => false

/-- The fetch list of a program (R56, R62, R95, R279, R280, R331, R440, R481): into frames of enabled cars of working trains; the tick's own
wagons and state blocks, each once for a car and none that is resident, first; then look-ahead fetches, those of the next tick first,
each in the order of R41, as far as there is room. Row gathers name rows of tables in an EMBED tick. -/
def State.programFetches (s : State) (tt : Timetable) (ps : List ProgLine) : Bool :=
  let fs := fetchesOf tt 1
  let shared := tt.bcast.map (·.1)
  let units := tt.steps.flatMap (s.stepUnits tt)
  let mine (a : Nat) : Bool := inRanges tt.needs a || units.any fun u => u.2.contains a
  let own := fs.takeWhile fun f => mine (entryAddr f.2)
  let rest := fs.drop own.length
  let ahead := tt.look.flatMap id
  let key (f : Nat × DWord) : List Nat := [fetchCar f, entryAddr f.2]
  let single := fs.filter fun f => !shared.contains (entryAddr f.2)
  let places := rest.map fun f => aheadPlace ahead (entryAddr f.2)
  fetchesIn tt
  && fs.all (fun f => s.clusterOn (fetchCar f) && !tt.idle.contains f.1 && decide (entrySlot f.2 < tt.areas.getD (fetchCar f) 0))
  && (single.map key).Nodup
  && single.all (fun f => !s.resident (fetchCar f) (entryAddr f.2))
  && rest.all (fun f => !mine (entryAddr f.2) && ahead.contains (entryAddr f.2))
  && places = sortBy (fun a b => decide (a < b)) places
  && s.framesSpared tt single (own.filter fun f => !shared.contains (entryAddr f.2)) ahead
  && s.lookFilled tt fs ahead
  && (tt.plan.all fun p => s.sharedFetched tt ps fs p && (List.range p.passes.length).all (s.passFetched tt ps fs p))
  && (wagonList (tt.plan.flatMap fun p => p.score.flatMap Seg.range ++ if tt.hdr.kind = 2 then (s.headRange p) else [])).all
      (fun a => s.poisonedAt a || fs.any (fun f => entryAddr f.2 = a) || s.frames.any fun f => f.addr = a)
  && tt.steps.all (fun k => (s.stepUnits tt k).all fun u => match k.cars.find? fun y => y.1 = u.1 with
      | some y => u.2.all (s.brought fs y.2)
      | none => false)
  && (fetchesOf tt 3).all fun f => tt.hdr.kind = 0 && s.rowEntry (entryAddr f.2)

/-- The wagons that the steps of the tick under way will dirty. -/
def State.stepWagons (s : State) : List Nat :=
  match s.tick.cur with
  | some t => if s.tick.active && !t.standing then t.steps.flatMap fun k =>
      match s.dirOf k.handle with
      | some d => match d.copyAt s.tick.count with
        | some c => match s.partAt c t.hdr.layer k.stop with
          | some p => ((List.range (p.aW + p.bW + p.sW + p.vW)).filter fun w => k.pmask / 2 ^ (wagonRole p w).1 % 2 = 1).map fun w =>
              wagonAt d.slot c (p.first + w)
          | none => []
        | none => []
      | none => [] else []
  | none => []

/-- The write-backs of a program (R61, R62, R296, R297): one for each wagon that the steps of the tick before dirty, and for each that is dirty
already unless its write-back is under way or in the program that runs; for none else; in the order of R297; each entry names a frame
that holds the wagon. `s` is the block as the build sees it. -/
def State.programWriteBacks (s : State) (i : Inputs) (tt : Timetable) : Bool :=
  let fs := fetchesOf tt 2
  let backs := fs.map fun f => entryAddr f.2
  let now : List Nat := match s.tick.cur with | some t => if s.tick.active then (fetchesOf t 2).map fun f => entryAddr f.2 else [] | none => []
  let steps := s.stepWagons
  let due := steps ++ i.dirty.filter fun a => !i.flying.contains a && !now.contains a
  let key (a : Nat) : List Nat := [if steps.contains a then s.tick.count else s.stepTick a, a]
  due.all backs.contains && backs.all (fun a => due.contains a || i.dirty.contains a)
  && (backs.map key) = sortBy (fun a b => keyLt a b) (backs.map key)
  && fs.all fun f => s.frames.any fun y => 16 * y.train + y.car = fetchCar f && y.slot = entrySlot f.2 && y.addr = entryAddr f.2

/-- A fetch into a frame whose wagon is, or will be, dirty comes behind a wait for the fetch group of the write-back that frees the frame
(R280, R299, R300). -/
def State.programHeld (s : State) (i : Inputs) (tt : Timetable) : Bool :=
  let owed := i.dirty ++ i.flying ++ s.stepWagons
  let ls := tt.lines.zipIdx
  let slots (kind : Nat) : List (Nat × Nat × DWord) := ls.flatMap fun l => (List.range 4).flatMap fun k =>
    let w := fetchSlot l.1 k
    if fetchKind w = kind then (slotEntries tt l.1 w).map fun e => (l.2, w, e) else []
  let backs := slots 2
  (slots 1).all fun x =>
    s.frames.all fun f =>
      !(f.train = fetchTrain x.2.1 && f.car = entryCar x.2.2 && f.slot = entrySlot x.2.2 && owed.contains f.addr) || f.addr = entryAddr x.2.2
      || backs.any fun b => entryAddr b.2.2 = f.addr && ls.any fun l => decide (b.1 < l.2 ∧ l.2 ≤ x.1)
          && ctlOp l.1 = 3 && ctlWait l.1 = 1 && ctlArg l.1 % 8 = fetchGroup b.2.1

/-! Programs: woven fragments (R71). -/

/-- The train slot of a fragment's line in the train that serves the segment, its SEG_BASE made absolute. -/
def wovenSlot (base w : Nat) : Nat := if slotShared w then w else w - 32 * slotBase w + 32 * base

/-- A request of a fragment, a slot of one of its lines: whether a slot of the program is free, and whether it is this request's. -/
structure Request where
  slots : Nat              -- slots of a line that can take it: four for a fetch, one for an exchange
  free  : TLine → Nat → Bool
  mine  : TLine → Nat → Bool

/-- The place of a request, from its fragment's line on: the first slot that is its own and that no earlier request of the fragment has; none
where a slot on the way is free (R71). `n` lines are left. -/
def placeRequest (ls : Array TLine) (r : Request) (used : List (Nat × Nat)) : Nat → Nat → Option (Nat × Nat)
  | 0, _ => none
  | n + 1, i =>
    match ls[i]? with
    | none => none
    | some l =>
      match (List.range r.slots).find? fun k => r.mine l k && !used.contains (i, k + 10 * r.slots) with
      | some k => some (i, k + 10 * r.slots)
      | none => if (List.range r.slots).any (r.free l) then none else placeRequest ls r used n (i + 1)

/-- The requests of a fragment's line: its fetches from the segment's wagons, with their group and their wagons over its beats, and its
consignment (R71). -/
def lineRequests (tt : Timetable) (x : Woven) (first : Nat) (num : Nat → Nat) (l : TLine) : List Request :=
  let w := xchSlot l
  ((List.range 4).filterMap fun k =>
    let f := fetchSlot l k
    if fetchKind f = 0 then none else some {
      slots := 4
      free := fun z j => fetchKind (fetchSlot z j) = 0
      mine := fun z j =>
        let g := fetchSlot z j
        let n := fetchCount f * (ctlRepeat l + 1)
        fetchKind g = fetchKind f && fetchTrain g = x.train && fetchCount g = fetchCount f && fetchGroup g = fetchGroup f
        && ctlRepeat z = ctlRepeat l
        && ((tt.fetch.drop (fetchIdx g)).take n).map entryAddr = (List.range n).map fun i => first + 4352 * (fetchIdx f + i) : Request })
  ++ (if xchOp w = 0 then [] else [{
      slots := 1
      free := fun z _ => xchOp (xchSlot z) = 0
      mine := fun z _ => let g := xchSlot z; xchOp g = xchOp w && xchNum g = num (xchNum w) && xchFlits g = xchFlits w : Request }])

/-- One line of a fragment at the line that it is woven into: its train program and repeats, its waits with their numbers made absolute. -/
def wovenLine (ps : List ProgLine) (x : Woven) (num : Nat → Nat) (l : TLine) (at_ : Nat) : Bool :=
  match ps[at_]? with
  | none => false
  | some y =>
    trainSlot y.line x.train = wovenSlot x.base (trainSlot l 0) && ctlRepeat y.line = ctlRepeat l && !y.looped
    && (ctlOp l != 3 || (ctlOp y.line = 3 && ctlWait y.line = ctlWait l
        && (ctlWait l != 1 || ctlArg y.line % 8 = ctlArg l % 8)
        && (ctlWait l != 2 || ctlArg y.line % 128 = num (ctlArg l % 128))))

/-- Every request of a fragment's lines has its place, one after another (R71). -/
def wovenRequests (tt : Timetable) (x : Woven) (first : Nat) (num : Nat → Nat) : List (Nat × Nat) → List (TLine × Nat) → Bool
  | _, [] => true
  | used, (l, at_) :: rest =>
    let step (a : Option (List (Nat × Nat))) (r : Request) : Option (List (Nat × Nat)) :=
      a.bind fun u => (placeRequest tt.lines.toArray r u (tt.lines.length - at_) at_).map fun p => u ++ [p]
    match (lineRequests tt x first num l).foldl step (some used) with
    | some u => wovenRequests tt x first num u rest
    | none => false

/-- The first wagon of a special working's part at a stop. -/
def State.wovenFirst (s : State) (tt : Timetable) (p : StopPlan) (pass place : Nat) : Nat :=
  if 2048 ≤ place then ((p.shared[place - 2048]?).bind fun h => ((s.sharedAt tt.hdr.layer p.stop tt.tick).find? fun y => y.1.handle = h).map
    fun y => wagonAt y.1.slot y.2.1 y.2.2.first).getD 0
  else (((p.passes.getD pass [])[place]?).map (·.wagon)).getD 0

/-- The special workings of a plan: each is woven once, line for line in order, its loops expanded (R71). -/
def State.programWoven (s : State) (tt : Timetable) (ps : List ProgLine) (woven : List Woven) : Bool :=
  let a := s.ahead tt
  let want := (stopPasses tt.plan tt.tick).flatMap fun y => (a.passSpecials y.1 y.2).map fun f => (y.1.plan, y.2, f.1, f.2)
  woven.length = want.length
  && want.all fun y =>
    match woven.find? fun x => x.stop = y.1.stop && x.pass = y.2.1 && x.place = y.2.2.1 with
    | none => false
    | some x =>
      let ls := swProgram y.2.2.2
      let num (k : Nat) : Nat := ((tt.cons.find? fun c => c.kind = 4 && c.stop = x.stop && c.pass = x.pass && c.group = x.place
        && c.part = k).map (·.num)).getD 0
      let entry := (tt.placesOf x.stop x.pass (y.1.passes.getD x.pass []).length).getD x.place x.place
      x.lines.length = ls.length && x.lines = sortNat x.lines
      && (x.place ≥ 2048 || decide (x.base ≤ entry ∧ entry < x.base + 16))
      && (ls.zip x.lines).all (fun z => wovenLine ps x num z.1 z.2)
      && wovenRequests tt x (s.wovenFirst tt y.1 y.2.1 x.place) num [] (ls.zip x.lines)

/-! The build. -/

/-- What the builder may write for the tick of a timetable: `s` is the block as the build sees it, with its inputs `i` (R51). -/
def State.programOk (s : State) (i : Inputs) (tt : Timetable) (woven : List Woven) : Bool :=
  let ps := progLines tt.lines
  programCodes tt && programMarks tt ps && programSends tt ps && programWaits tt ps && programActs tt ps
  && s.programCars tt ps && s.programAreas tt && (s.ahead tt).programFetches tt ps
  && s.programWriteBacks i tt && s.programHeld i tt && s.programWoven tt ps woven

/-- The car that holds and updates each wagon of a stepping part: of the cars of its train that work on its entry, the first that the
wagon is brought to (R440). -/
def State.stepCars (s : State) (tt : Timetable) (ps : List ProgLine) (k : StepPlan) : List (Nat × Nat) :=
  let fs := fetchesOf tt 1
  let at_ : List (Nat × List Nat × Bool) := tt.plan.flatMap fun p =>
    if p.stop != k.stop then [] else (List.range p.passes.length).flatMap (s.passWagons tt ps p)
  (s.stepUnits tt k).filterMap fun u =>
    (at_.find? fun x => x.1 = u.1).bind fun x => (x.2.1.find? fun c => s.brought fs c u.1).map fun c => (u.1, c)

/-- The timetable of tick n from its header and the builder's product, as the build sees the block (R50). -/
def State.timetable (s : State) (h : Header) (n : Nat) (b : Built) : Timetable :=
  let samp := s.takeSamp h n
  let order := s.removalOrder h n
  let tt := s.fitPlan h n samp order (order.length + 1) 0
  let pre := if h.kind = 3 then 0 else s.prefillTrains h.line tt.allow (yardHas true tt.plan) (yardHas false tt.plan)
  let tt := { tt with
    lines := b.lines, fetch := b.fetch, splits := b.splits
    idle := s.idleTrains tt.allow pre, prefillN := pre, steps := s.stepPlans h n tt.plan }
  let ps := progLines b.lines
  let tt := { tt with
    places := tt.plan.flatMap fun p => (List.range p.passes.length).map fun k =>
      (p.stop, k, entryPlaces (s.emptyPlaces ps p k) (p.passes.getD k []).length)
    areas := b.kept.map (s.areaOf tt), merge := b.kept.map (·.2) }
  let a := s.ahead tt
  let tt := { tt with
    homes := a.homesOf tt ps, bcast := a.broadcasts tt, onCar := a.onCars tt ps, visits := a.planVisits tt, needs := a.wagonNeeds tt
    look := a.lookAhead tt }
  { tt with steps := tt.steps.map fun k => { k with cars := a.stepCars tt ps k } }

end Sys2Proof.Machine
end

