-- ==== Sys2Proof/Machine/Specials.lean ====
section
/-! DEFINITION. Special workings: their images (R70), the checks of R72 and LOAD_SPECIAL's two forms (R73 to R76). -/
namespace Sys2Proof.Machine
open Sys2Proof

/-- Operations allowed in a special working (R60). -/
def swOp (op : Nat) : Bool := decide (op ≤ 9) || (decide (0x12 ≤ op) && decide (op ≤ 0x15))

/-- The first of the checks 2 to 10 of R72 that an image of `length` bytes fails. A wait is a line whose CTL_OP is WAIT: WAIT_KIND of
another line is not checked (assumption log 73). -/
def swCheck (g : List Byte) (length : Nat) : Option Nat :=
  let n := swLines g
  if !(decide (1 ≤ n ∧ n ≤ 4096) && length = 128 * (n + 1)) then some 2 else
  let ls := swBody g
  let inner := ls.dropLast
  if !((ls.getLast?.map ctlOp) = some 6 && inner.all fun l => !([4, 5, 6].contains (ctlOp l))) then some 3
  else if !loopsPair 2 [] ls then some 4
  else if !(decide (expanded (fun _ => 1) ls ≤ swMaxBeats g) && decide (swMaxBeats g ≤ 1048576)) then some 5
  else if !(ls.all fun l => swOp (slotOp (trainSlot l 0)) && lF l 24 744 = 0) then some 6
  else if !(ls.all (fun l => (List.range 4).all fun k => decide (fetchKind (fetchSlot l k) < 2))
      && decide (expanded lineWagons ls ≤ swWagons g)) then some 7
  else if !(ls.all (fun l => decide (xchOp (xchSlot l) < 3)) && decide (expanded lineFlits ls ≤ swFlits g)) then some 8
  else if !(ls.all fun l => actSlot l = 0) then some 9
  else if !(ls.all fun l => (ctlOp l ≠ 3 || decide (ctlWait l < 3))
      && (slotOp (trainSlot l 0) = 0 || (swBufs g).testBit (slotBuf (trainSlot l 0)))) then some 10
  else none

/-- ID of LOAD_SPECIAL (R474). -/
def swIdOf (b : DescBytes) : Nat := dF b 8 0 6
/-- LENGTH of LOAD_SPECIAL. -/
def swLengthOf (b : DescBytes) : Nat := dF b 12 0 32
/-- IMAGE_ADDR of LOAD_SPECIAL. -/
def swAddrOf (b : DescBytes) : Nat := dF b 16 0 64

/-- Directory records that name a special working by the copy in force or by a second copy (R75, R611, assumption log 86). -/
def State.swUsers (s : State) (id : Nat) : Nat :=
  let names (c : Option Copy) : Bool := match c with | some c => c.form = 3 && c.swId = id | none => false
  (s.dirs.filter fun d => names d.cur || names d.next).length

/-- The ID is installed (R74). -/
def State.swStands (s : State) (b : DescBytes) : Bool := s.specials.any fun x => x.id = swIdOf b

/-- An image that has been read is checked and installed; its answer (R72, R74). -/
def State.swInstall (s : State) (b : DescBytes) (bytes : List Byte) : State × Answer :=
  let g := bytes.take (swLengthOf b)
  if s.swStands b then (s, ans 0x19 0)
  else if swFormat g ≠ s.negot.getD 3 0 then (s, ans 0x40 0)
  else match swCheck g (swLengthOf b) with
    | some k => (s, ans 0x19 k)
    | none => ({ s with specials := putKey Special.id ⟨swIdOf b, g⟩ s.specials }, ansOk 0 0 0)

/-- LOAD_SPECIAL with an image (R74, R474, R531). The read of the image is background traffic: where its share lets it make no progress now,
the descriptor waits for it (R301). -/
def State.loadSpecialReq (s : State) (image : Option (List Byte)) (tk : Taken) : State :=
  if s.swStands tk.bytes then s.answer tk (ans 0x19 0)
  else if !s.landMay true false then
    (s.addRead (.special tk.ring tk.num.toNat) (swAddrOf tk.bytes) (ceilDiv (swLengthOf tk.bytes) 64)).park tk .special
  else match image with
    | none => ((s.setErr .fmErr).count .fmErr 1).answer tk (ans 0x18 18)
    | some bytes => let r := s.swInstall tk.bytes bytes; r.1.answer tk r.2

/-- The descriptor that waits for the read of a special working. -/
def State.specialOf (s : State) (k n : Nat) : Option Taken := s.taken.find? fun t => t.ring = k && t.num.toNat = n && t.pend == .special

/-- The image that a LOAD_SPECIAL waited for has come (R72, R301). -/
def State.specialRead (s : State) (k n : Nat) (bytes : List Byte) : State :=
  match s.specialOf k n with
  | some tk => let r := s.swInstall tk.bytes bytes; r.1.finish tk r.2
  | none => s

/-- LOAD_SPECIAL with a length of zero (R75). -/
def State.unloadSpecialReq (s : State) (tk : Taken) : State :=
  let id := swIdOf tk.bytes
  if !(s.specials.any fun x => x.id = id) then s.answer tk (ans 0x13 0)
  else if s.swUsers id ≠ 0 then s.answer tk (ans 0x19 0)
  else ({ s with specials := s.specials.filter fun x => x.id != id } : State).answer tk (ansOk 0 0 0)

/-- LOAD_SPECIAL, with the image read from IMAGE_ADDR, or none when the read failed. -/
def execLoadSpecial (image : Option (List Byte)) (s : State) : Host.Outcome State Fault Refusal :=
  .next (s.begin.withDesc (fun b => opcodeOf b = 0x27 && swLengthOf b != 0) fun s tk => s.loadSpecialReq image tk)

/-- LOAD_SPECIAL with a length of zero. -/
def execUnloadSpecial (s : State) : Host.Outcome State Fault Refusal :=
  .next (s.begin.withDesc (fun b => opcodeOf b = 0x27 && swLengthOf b = 0) State.unloadSpecialReq)

end Sys2Proof.Machine
end

