-- ==== Sys2Proof/Machine/Tick.lean ====
section
/-! DEFINITION. The tick protocol (R13, R21, R25 to R45): edges, the doorbell read (R454 to R461), the tick header, TICK_ACK, the
end of a tick's work and its lenient end, idle, and the building of timetables (R50). Times are in CLK_CORE cycles. -/
namespace Sys2Proof.Machine
open Sys2Proof

/-- 100 ms. -/
def ms100 : Nat := 130000000

/-! The doorbell read. -/

/-- Host address of a page of a KV pool (R402, R422). -/
def State.pageAddr (s : State) (parked : Bool) (page : Nat) : Nat :=
  s.addr64 (if parked then 0x40D0 else 0x40C4) + page * (s.rf 0x40C0 0 16 * 4096)

/-- Page moves whose read has failed start again at a tick start (R531). -/
def State.retryReads (s : State) : State := if s.tick.idle then s else (s.reads.filter (·.failed)).foldl State.sendRead s

/-- A QUIESCE of ring k has been taken and will be accepted: nothing further is taken from the ring (R481, assumption log 9). -/
def State.ringStops (s : State) (k : Nat) : Bool :=
  k != 0 && s.taken.any fun t =>
    t.pend == .unchecked && opcodeOf t.bytes = 3 && scopeIdOf t.bytes == .ring k && (s.generalCheck t.bytes).isNone

/-- Take descriptors of a ring in order: at most `left`, while the completion ring has room and no write to a slot is outstanding (R451, R455,
R461, R529). -/
def State.takeDescs (s : State) (k n : Nat) (quiet : Bool) : Nat → List DescBytes → State
  | 0, _ => s
  | _, [] => s
  | left + 1, b :: bs =>
    if s.ringStops k || s.writeOut (s.descAddr k (s.ring k).head) 64 then s
    else if s.cqRoom k = 0 then (s.setErr .cqStall).count .cqStall 1 else
    let r := s.ring k
    let tk : Taken := ⟨k, r.head, b, n, quiet, s.rf 0x40A0 24 8, s.lastSeq, .unchecked⟩
    let s := ({ s with taken := s.taken ++ [tk], lastSeq := s.lastSeq + 1 } : State).setRing k
      { r with head := r.head + 1, cqResv := r.cqResv + 1, tick := n }
    s.takeDescs k n quiet left bs

/-- The read of one ring for tick n, of its driver line and then of its descriptors (R451, R452, R529): a descriptor that the read could not bring has failed, and HEAD stays before it (R455, R465, R531). -/
def State.readRing (s : State) (k n : Nat) (quiet : Bool) (v : RingView) : State :=
  if !s.ringValid k || (s.ring k).st != .enabled || s.writeOut (s.driverLine k) 64 then s
  else if !v.ok then (s.setErr .fmErr).count .fmErr 1
  else
    let s := s.setRing k { s.ring k with cqHead := v.cqHead }
    let s := if k = 0 then s.unsolDrain s.unsol else s
    let ahead := (v.tail - (s.ring k).head).toNat
    if 2 ^ s.sqLog2 k < ahead then s.setErr .ringPtr
    else if n < v.atTick then s
    else
      let head := (s.ring k).head
      let want := min ahead (s.rf 0x100C 0 9)
      let s := s.takeDescs k n quiet want v.descs
      let s := if v.descs.length < want && (s.ring k).head = head + BitVec.ofNat 32 v.descs.length then (s.setErr .fmErr).count .fmErr 1 else s
      if (s.ring k).head = head then s else s.statusLine k

/-- A doorbell read (R454): expiries (R407), what R531 issues again, then rings 0 to 7. -/
def State.doorbellRead (s : State) (quiet : Bool) (v : List RingView) : State :=
  let n := s.tick.count + 1
  let s := ((s.expireAll n).reissue).retryReads
  let s := (List.range 8).foldl (fun s k => match v[k]? with | some x => s.readRing k n quiet x | none => s) s
  s.rejectUnknown s.taken.length

/-! TICK_LATE (R29, R30). -/

/-- The effective budget in cycles; none when there is none. -/
def State.budgetCycles (s : State) : Option Nat :=
  if s.budget ≠ 0 then some (s.budget * 2600) else
  match s.tick.starts with
  | a :: b :: _ => some (a - b)
  | _ => none

/-- The time since TICK_ACK exceeds the budget. -/
def State.overBudget (s : State) : Bool :=
  match s.budgetCycles with | some b => decide (s.tick.ackAt + b < s.now) | none => false

/-- An overrun edge is pending. -/
def State.overrunPending (s : State) : Bool :=
  match s.tick.edge with | .strict _ _ => true | .waiting _ _ _ o => o | _ => false

/-- The level of TICK_LATE follows its causes while the tick's work is unfinished. -/
def State.lateLevel (s : State) : State :=
  if s.tick.active then s.updTick fun t => { t with late := s.overBudget || s.power.throttle || s.overrunPending } else s

/-! The end of a tick's work. -/

/-- Every part of the current tick's work is finished (R30). -/
def State.workDone (s : State) : Bool :=
  s.tick.run.ended
  && (s.curHdr.stopList.all fun st => s.skippedStop st || (match s.stopAt st with | some x => x.done | none => false))
  && (s.tick.stops.all fun x => x.done)
  && s.tick.shut.isEmpty
  && (s.tick.cons.all fun c => c.done || c.ended || !c.sent)
  && s.digest.sent.isNone && s.tick.build != 1
  && (s.curHdr.kind ≠ 2 || (!(s.line s.curHdr.line).boundary && (s.manifestMoves s.curHdr.line).isEmpty))

/-- The bin of a power-of-two histogram of a duration (H1). -/
def durBin (us : Nat) : Nat := min 17 (Nat.log2 us)

/-- The bin of H2. -/
def lateBin (n : Nat) : Nat := if n = 0 then 0 else min 14 (Nat.log2 n + 1)

/-- The wagon areas of the executing timetable (R277); the standing timetable has none. -/
def State.wagonAreas (s : State) : List Nat := match s.tick.cur with | some tt => tt.areas | none => []

/-- The busy train-beats of the executing timetable on work of the prefill yard, or of the decode yard (R159). The trains of a BACKWARD
tick form one yard, and its beats belong to no step (R14, R435; assumption log 78). -/
def State.yardBeats (s : State) (prefill : Bool) : Nat :=
  match s.tick.cur with
  | some tt =>
    if tt.hdr.kind = 3 then 0 else
    s.tick.run.yard.zipIdx.foldl (fun a b => if inPrefill s.build.trains tt.idle tt.prefillN b.2 = prefill then a + b.1 else a) 0
  | none => 0

/-- The frames that stand when a tick has ended: those that a tick of the window still uses, and those of dirty wagons and blocks; of a
wagon that a step of the tick has written, the one that holds it (R280, R446). -/
def State.keepFrames (s : State) : List Frame :=
  s.frames.filterMap fun f =>
    if (decide (s.tick.count < f.last) || s.isDirty f.addr || s.writingBack f.addr) && !s.outdated f then some { f with fails := 0 } else none

/-- Ticks beyond the next one whose look-ahead fetches have been issued in full: every wagon that they use has a frame (R279, R311). -/
def State.lookDepth (s : State) (tt : Timetable) : Nat :=
  (tt.look.takeWhile fun ws => ws.all fun a => s.poisonedAt a || s.frames.any fun f => f.addr = a).length

/-- The status registers of a completed tick (R164, R352, R386, R449; RED_LAT_NS is not fixed by the manual). -/
def State.publish (s : State) : State :=
  let t := s.tick
  let plan := match t.cur with | some tt => if tt.standing then [] else tt.plan | none => []
  let passes := plan.foldl (fun a p => a + 2 ^ (2 * p.stop) * (p.passes.length - 1)) 0
  let removed := plan.foldl (fun a p => a + (if 0 < p.removed then 2 ^ p.stop else 0)) 0
  let areas := s.wagonAreas
  let on := (List.range s.clusters).filter s.clusterOn
  let head := s.curHdr.kind = 2
  let back := s.curHdr.kind = 3
  let l := s.last
  { s with
    free := s.free + 1
    last := { l with
      passes := passes, removed := removed, sided := t.sided, dropped := t.dropped
      tokens := if head then t.tokens else l.tokens, heldReq := if head then t.heldReq else l.heldReq
      accepted := if head then t.accepted else l.accepted, verified := if head then t.verified else l.verified
      steps := if back then t.steps else l.steps, abandoned := if back then t.abandoned else l.abandoned
      minFrames := if areas.isEmpty then l.minFrames else (on.map fun c => areas.getD c 0).foldl min 361
      depth := match t.cur with | some tt => s.lookDepth tt | none => 0
      redLat := (Config.freeWord s.free).toNat % 65536
      trainBusy := t.run.busy
      trainFrames := if areas.isEmpty then l.trainFrames else (List.range 32).map fun k =>
        match on.filter fun c => c / 16 = k with
        | [] => 0
        | c :: cs => (cs.map fun c => areas.getD c 0).foldl min (areas.getD c 0) }
    power := { s.power with meanTick := if s.power.nEst = 0 then s.power.meanTick else s.power.sumEst / s.power.nEst } }

/-! Idle (R44). -/

/-- IX7 enters idle: the next edge is a cold start, announcements and built timetables lapse, due flips happen (R343), and the
write-backs that no timetable will issue go out, as the moves go on (R309). -/
def State.enterIdle (s : State) : State :=
  let s := (s.updTick fun t => { t with idle := true, cold := true, ann := none, next := none, build := 0, buildFor := none }).flipsIdle
  let n := s.tick.count
  (({ s with inputs := none } : State).dropPriors fun m => decide (n < m)).startMoves.writeBacks

/-- A HEAD tick that emitted no result record leaves the digest none of an older tick's (R417). -/
def State.noResults (s : State) : State :=
  if s.curHdr.kind = 2 && (s.standing || (s.stopAt 0).isNone) then { s with digest := { s.digest with results := some [] } } else s

/-- The tick's work is done or ended (R29, R21, R576): its late rows without a mask count, its status is published, and the frames that
no tick of the window uses are free. The beats of a HEAD tick after its boundary belong to no step (R159). -/
def State.closeTick (s : State) : State :=
  let s := (if s.tick.skipped.isEmpty then s else s.countLate s.tick.skipped.length).fillPlans
  let h := s.curHdr
  let counts := h.kind != 2 || (s.line h.line).boundary
  let s := (s.histAdd 1 (durBin ((s.now - s.tick.ackAt) / 1300)) 1).histAdd 2 (lateBin s.tick.lateRows) 1
  let s := s.publishGather.publish.noResults
  let s := s.updLine h.line fun l => { l with
    busyP := l.busyP + (if counts then s.yardBeats true else 0), busyD := l.busyD + (if counts then s.yardBeats false else 0) }
  let s := s.updTick fun t => { t with active := false, late := false }
  let s := { s with flips := [], frames := s.keepFrames, digest := { s.digest with fresh := false } }
  s.dropStale.finishBuilds.startRows.resumeTraffic

/-- The tick is over; an engine that is not ENABLED then enters idle at once (R481). -/
def State.finishWork (s : State) : State := if s.engine == .enabled then s.closeTick else s.closeTick.enterIdle

/-- Finish the tick when its work is done. -/
def State.settle (s : State) : State := if s.tick.active && s.workDone then s.finishWork else s

/-- Stops named and not opened are skipped (R21); of a HEAD tick every request with head rows is held. -/
def State.skipStops (s : State) : State :=
  if !s.tick.active then s else
  let gone := s.curHdr.stopList.filter fun st => s.mayOpen st && s.tick.pinStop != some st && !s.tick.shut.contains st
  if gone.isEmpty then s else
  let s := (s.setErr .stopFraming).updTick fun t => { t with skips := t.skips ++ gone }
  let s := if s.curHdr.kind = 2 then
      match s.planOf 0 with
      | some p => (if s.standing then s else s.holdAll p.rows).updTick fun t => { t with skipped := p.rows }
      | none => s
    else s
  s.proceed false false

/-- What the lenient end of a tick cuts short: requests not decided are held, consignments are abandoned, optimiser steps too, open stops
end, the run and a build for it as well (R39, R377, R448). -/
def State.cutTick (s : State) : State :=
  let h := s.curHdr
  let s := if h.kind = 2 && !s.standing then s.endHeads else s
  let s := if h.kind = 2 && !s.standing && h.has 0 && (s.stopAt 0).isNone && !s.skippedStop 0 then
      match s.planOf 0 with
      | some p => (s.holdAll p.rows).updTick fun t => { t with skipped := p.rows }
      | none => s
    else s
  let s := s.leaveCons
  let s := if h.kind = 3 && !s.standing then
      match s.tick.cur with
      | some t => (t.plan.filter fun p => match s.stopAt p.stop with | some x => !x.ended | none => true).foldl
          State.abandonSteps s
      | none => s
    else s
  let s := s.tick.shut.foldl State.openClosed s
  let s := (s.tick.stops.filter fun x => x.tick = s.tick.count).foldl State.cutStop s
  let s := { s.updTick fun t => { t with build := if t.build = 1 then 0 else t.build, buildFor := none } with inputs := none }
  (s.updRun fun r => { r with ended := true }).pumpDone

/-- The lenient end of a tick (R39). -/
def State.endTick (s : State) : State := s.cutTick.finishWork

/-! Edges (R25). -/

/-- An edge leaves idle behind. -/
def State.leaveIdle (s : State) : State := s.updTick fun k => { k with idle := false }

/-- The arrival of the edge that awaits its TICK_ACK. -/
def Edge.arrival : Edge → Option Nat
  | .none => Option.none
  | .held t | .waiting t _ _ _ | .building t _ | .strict t _ => some t

/-- The edge is a cold start (R43). -/
def State.coldEdge (s : State) : Bool := s.tick.cold || s.tick.ann.isNone

/-- Steps 3 and 4 of R25 for an edge that arrived at `t`; with the engine not ENABLED the edge acts on the tick under way and
starts nothing (R482). -/
def State.classify (s : State) (t : Nat) (v : List RingView) : State :=
  let s := (s.updTick fun k => { k with edge := .none }).settle
  if s.engine != .enabled then
    let s := s.count .tickCoalesced 1
    if s.tick.active && s.engine != .quiesced && s.lenient then s.endTick else s
  else if s.tick.active then
    let s := (s.count .overrun 1).updTick fun k => { k with lastEdge := some t }
    if s.lenient then
      let s := s.endTick.leaveIdle.doorbellRead false v
      s.updTick fun k => { k with late := true, edge := .waiting t true s.coldEdge true }
    else s.updTick fun k => { k with late := true, edge := .strict t none }
  else
    let s := ((s.updTick fun k => { k with lastEdge := some t }).leaveIdle).doorbellRead false v
    s.updTick fun k => { k with edge := .waiting t s.lenient s.coldEdge false }

/-- A rising edge of TICK at time `t` (R21, R25, R482, R543). Any stop that STOP_VALID frames holds the edge, also one that the current
tick does not name (assumption log 79). -/
def State.edgeAt (s : State) (t : Nat) (v : List RingView) : State :=
  let s := (s.advance t).updTick fun k => { k with lastRise := t }
  let soon := match s.tick.lastEdge with | some e => decide (t < e + s.rf 0x2004 0 20 * 1300) | none => false
  let pending := match s.tick.edge with | .none => false | _ => true
  if s.fw.1 ≠ 3 || soon || pending then s.count .tickCoalesced 1
  else
    let s := s.settle.skipStops
    if s.pinned.isSome && s.engine != .quiesced then s.updTick fun k => { k with edge := .held t } else s.classify t v

/-! Timetables (R50). -/

/-- A point of the tick's layer that is enabled cannot be active (R191). -/
def State.exitPast (s : State) (tt : Timetable) : Bool :=
  tt.hdr.kind = 1 && (List.range 8).any fun p => s.exitNames tt.hdr p && s.exitDead tt.hdr.line tt.tick p

/-- What a build counts and flags: composition misses (R167, R358), steps (R441), exit points that cannot be active (R191). -/
def State.buildCounts (s : State) (tt : Timetable) : State :=
  let miss := tt.plan.foldl (fun a p => a + p.miss) 0
  ((s.useFree.count .composeMiss miss).countSteps tt.hdr tt.plan).errIf (s.exitPast tt) .exitCfg

/-- The fixed program of the standing timetable: the digest consignment, then the end. Stops are closed as they come (R40, R55). -/
def standingLines : List TLine :=
  [BitVec.ofNat 1024 (put 925 3 4 + put 904 14 1), BitVec.ofNat 1024 (put 1020 4 6)]

/-- The standing timetable for a header. -/
def State.standingTable (s : State) (h : Header) (n : Nat) : Timetable :=
  { s.draft h n (s.planTick h n []) [] with lines := standingLines, allow := s.usableOn, standing := true }

/-- A consignment of a timetable, not yet sent. -/
def ConsPlan.start (p : ConsPlan) : Consign := ⟨p, if p.kind = 2 then 0x22 else 0x21, false, false, false, false, []⟩

/-- The run of a program with `trains` trains at its start. -/
def Run.start (trains : Nat) (ended : Bool) : Run :=
  ⟨0, [], ended, List.replicate trains 0, List.replicate trains 0, [], [0, 0, 0, 0], [], [], [], List.replicate trains (0, 0),
    List.replicate trains 0⟩

/-- The tick machinery when tick n begins. -/
def TickSt.begin (t : TickSt) (n now : Nat) (tt : Timetable) (next : Option Header) (build throttle : Bool) (trains : Nat) : TickSt :=
  { t with
    count := n, cur := some tt, next := none, build := if build then 1 else 0, buildFor := if build then next else none
    run := Run.start trains tt.lines.isEmpty
    starts := t.edge.arrival.toList ++ t.starts.take 1
    active := true, ackAt := now, late := throttle, idle := false, execBuf := !t.execBuf, edge := .none, cold := false, ann := next
    stops := t.stops.filter fun x => !x.done
    shut := [], cons := tt.cons.map ConsPlan.start
    lateRows := 0, skipped := [], recs := [], prevRecs := t.recs, exitMasks := [], prevMasks := t.exitMasks
    sided := 0, dropped := 0, gather := none, decided := [], tokens := 0, heldReq := 0
    accepted := 0, verified := 0, skips := [], steps := 0, abandoned := 0, failed := [] }

/-- What a line records when a tick of it begins (R13, R317, R433, R434). -/
def LineSt.tickBegins (l : LineSt) (h : Header) (n : Nat) : LineSt :=
  let l := { l with last := some (h.kind, h.layer) }
  if h.kind = 0 then { l with embTok := [], back := [], layerAt := [] }
  else if h.kind = 1 then { l with layerAt := l.layerAt ++ [(h.layer, n)] }
  else if h.kind = 2 then { l with headTick := n, boundary := true }
  else l

/-- TICK_ACK (R28, R30, R47, R68): the counter advances, what waited for this tick takes effect, the next build begins, and the program
starts. -/
def State.beginTick (s : State) (tt : Timetable) (next : Option Header) : State :=
  let n := s.tick.count + 1
  let h := tt.hdr
  let s := s.count .ticks 1
  let s := s.updTick fun t => t.begin n s.now tt next (next.isSome && s.engine == .enabled) s.power.throttle s.build.trains
  let s := { s with
    tickAck := true
    inputs := none
    budget := s.rf 0x2000 6 16
    shuntBw := s.reg 0x4084
    xch := { s.xch with timeout := s.rf 0x200C 0 16 }
    digest := { s.digest with sent := none }
    power := { s.power with
      cEff := max s.power.cEff (min (s.rf 0x3000 0 10) s.power.pTherm), sumEst := 0, nEst := 0
      usable := s.usableOn } }
  let s := ((((s.commitsDue n).releaseDue n).expireAll n).flipsDue n).dropStale.startMoves.resumeTraffic
  let s := s.updLine h.line fun l => l.tickBegins h n
  let s := tt.visits.foldl (fun s v => s.addVisit h.line v.1 v.2) s
  let s := if s.exchangeLost then s.endCons else s
  let s := if h.kind = 2 then
      match s.planOf 0 with
      | some p =>
        if tt.standing then s.holdAll p.rows
        else if s.pos = 0 then
          (sortNat (p.rows.filterMap fun i => (s.rowOwner i).map fun (q : Req) => q.slot)).foldl
            (fun s sl => s.updReq sl fun r => { r with noRoom := true }) s
        else s
      | none => s
    else s
  s.beginBuild.proceed false false

/-! The tick header (R31 to R34). -/

/-- The next layer tick of a line is in the order of R13. -/
def State.inOrder (s : State) (h : Header) : Bool :=
  let m1 := s.layersM1
  let end_ := match (s.line h.line).last with
    | none => h.kind = 0
    | some (0, _) => h.kind = 1 && h.layer = 0
    | some (1, l) => if l < m1 then h.kind = 1 && h.layer = l + 1 else h.kind = 2
    | some (2, _) => h.kind = 0 || (h.kind = 3 && decide (h.layer ≤ m1))
    | some (_, l) => h.kind = 0 || (h.kind = 3 && decide (h.layer < l))
  end_

/-- The announcement that a header makes, as IX7 uses it: cleared stops; none for an EMBED or BACKWARD tick that directly
follows its own line's HEAD tick (R34, R413, R433). -/
def announce (h : Header) (p : Payload) : Option Header × Bool :=
  match rawNext p with
  | none => (none, false)
  | some x =>
    if h.kind = 2 && x.line = h.line && (x.kind = 0 || x.kind = 3) then (none, true) else (some x.clean, x.clean.stops != x.stops)

/-- A good header for an edge that arrived at `t` (R32, R33, R37, R40, R43). -/
def State.useHeader (s : State) (t : Nat) (lenient cold : Bool) (p : Payload) : State :=
  let raw := rawHeader p
  let h := raw.clean
  let nx := announce h p
  let n := s.tick.count + 1
  let order := s.inOrder h
  let match_ := cold || s.tick.ann = some h
  let s := s.errIf (h.stops != raw.stops || nx.2 || !order || !match_) .tickHeader
  let s := s.errIf (hostTick p ≠ n % 2 ^ 64) .tickSeq
  let build (code : Nat) : State :=
    ({ s.updTick fun k => { k with edge := .building t p, build := code, buildFor := some h } with inputs := none } : State).beginBuild
  if cold then build 3
  else
    match s.tick.next with
    | some tt =>
      if match_ && order && tt.hdr = h then s.beginTick tt nx.1
      else if lenient then s.beginTick (s.standingTable h n) nx.1
      else build 1
    | none => if lenient then s.beginTick (s.standingTable h n) nx.1 else build 1

/-- A tick-header flit on AIN0 (R26, R34). -/
def State.headerIn (s : State) (p : Payload) : State :=
  if s.negot.getD 2 0 = 0 then s else
  match s.tick.edge with
  | .waiting t lenient cold _ => if hdrVer p ≠ 1 then s.setErr .tickHeader else s.useHeader t lenient cold p
  | .strict t none => if hdrVer p ≠ 1 then s.setErr .tickHeader else s.updTick fun k => { k with edge := .strict t (some p) }
  | _ => s.setErr .tickHeader

/-- The work of a timetable uses a frame: the wagons of its entries on the cars that work on them, others on any car (R280). -/
def Timetable.uses (tt : Timetable) (f : Frame) : Bool :=
  tt.onCar.contains (f.cluster, f.addr) || (inRanges tt.needs f.addr && !(tt.onCar.any fun x => x.2 = f.addr)) || inStates tt.steps f.addr

/-- A frame stands until the last tick of the window that uses its wagon on its car: the current one, the one built, or those predicted
after it, of which the cars are not known (R278, R280). -/
def State.holdFrames (s : State) (tt : Timetable) : State :=
  let now (f : Frame) : Bool := match s.tick.cur with | some t => s.tick.active && !t.standing && t.uses f | none => false
  let last (f : Frame) : Nat :=
    if (tt.look.getD 1 []).contains f.addr then tt.tick + 2 else if (tt.look.getD 0 []).contains f.addr then tt.tick + 1
    else if tt.uses f then tt.tick else if now f then s.tick.count else 0
  { s with frames := s.frames.map fun f => { f with last := last f } }

/-- The timetable that a build makes of the builder's product, from the inputs it began with; none while it has not begun, or where the
builder may not write that program, which is no event then (R50, R51, assumption log 80). -/
def State.buildTable (s : State) (h : Header) (b : Built) : Option Timetable :=
  match s.beginBuild.inputs with
  | none => none
  | some i =>
    let view := s.withInputs i
    let tt := view.timetable h (s.tick.count + 1) b
    if view.programOk i tt b.woven then some tt else none

/-- The builder's product arrives: for the tick whose header waits, which then begins, or for the tick announced (R37, R43, R50,
R414). -/
def State.built (s : State) (b : Built) : State :=
  match s.tick.edge, s.tick.build, s.tick.buildFor with
  | .building _ p, _, _ =>
    let h := (rawHeader p).clean
    match s.buildTable h b with
    | some tt => ((s.buildCounts tt).holdFrames tt).beginTick tt (announce h p).1
    | none => s
  | _, 1, some h =>
    if s.engine != .enabled then s else
    match s.buildTable h b with
    | some tt =>
      { ((s.buildCounts tt).holdFrames tt).updTick fun k => { k with next := some tt, build := 2, buildFor := none } with inputs := none }
    | none => s
  | _, _, _ => s

/-! Commands. -/

/-- TICK_EDGE. -/
def execTickEdge (t : Nat) (v : List RingView) (s : State) : Host.Outcome State Fault Refusal :=
  let s := s.begin
  .next (if s.live then s.edgeAt t v else s)

/-- HELD_EDGE_RELEASE: STOP_VALID has deasserted (R25). -/
def execHeldEdgeRelease (v : List RingView) (s : State) : Host.Outcome State Fault Refusal :=
  let s := s.begin
  .next (if !s.live || s.pinned.isSome then s else
    match s.tick.edge with
    | .held t => s.classify t v
    | _ => s)

/-- STRICT_OVERRUN_START: the old tick's work is done and the waiting edge starts its tick (R37, R38, R454); while issue is paused it waits
for its TICK_ACK (R558). -/
def execStrictOverrunStart (v : List RingView) (s : State) : Host.Outcome State Fault Refusal :=
  let s := s.begin
  .next (if !s.live || s.paused then s else
    let s := s.settle
    match s.tick.edge with
    | .strict t hdr =>
      if s.tick.active then s else
      let s := (s.leaveIdle.doorbellRead false v).updTick fun k => { k with edge := .waiting t false s.coldEdge false }
      match hdr with
      | some p => s.headerIn p
      | none => s
    | _ => s)

/-- The header flit of R509. -/
def isHeaderFlit (p : Payload) (f : Flit) : Bool := tagKind f.tag = 2 && f.payload = p

/-- TICK_HEADER: a flit of KIND 0x02 arrived on AIN0 at time `t`, framed by STOP_VALID with STOP_ID 7; without that frame AIN0 does not
take it, nor while issue is paused (R26, R558). -/
def execTickHeader (t : Nat) (hdr : Payload) (s : State) : Host.Outcome State Fault Refusal :=
  let s := s.begin
  .next (if s.live && !s.paused && s.tick.pinStop = some 7 then ((s.advance t).takeRx 0 (isHeaderFlit hdr)).headerIn hdr else s)

/-- TICK_HEADER_TIMEOUT: 100 ms after an edge that no header followed (R27). An overrun edge that has started its tick is abandoned so as
well (assumption log 81). -/
def execTickHeaderTimeout (s : State) : Host.Outcome State Fault Refusal :=
  let s := s.begin
  .next (if !s.live then s else
    match s.tick.edge with
    | .waiting t _ _ _ =>
      (((s.advance (t + ms100)).updTick fun k => { k with edge := .none, late := false }).setErr .tickHeader).enterIdle
    | _ => s)

/-- IDLE_TIMEOUT (R44). -/
def execIdleTimeout (s : State) : Host.Outcome State Fault Refusal :=
  let s := s.begin
  .next (if !s.live then s else
    let s := s.settle
    match s.tick.edge with
    | .none => if s.tick.active || s.tick.idle then s else (s.advance (s.tick.lastRise + ms100)).enterIdle
    | _ => s)

/-- QUIESCE_EDGE_TIMEOUT: 100 ms after an engine QUIESCE's read with no edge (R482). -/
def execQuiesceEdgeTimeout (s : State) : Host.Outcome State Fault Refusal :=
  let s := s.begin
  .next (if s.live && (s.engine == .quiescing || s.engine == .held) then (s.advance (s.quiesceAt + ms100)).skipStops else s)

/-- TIMETABLE_BUILD: the builder finishes at time `t`. Its beats pause with all issue, and an edge waits for its TICK_ACK (R50, R558). -/
def execTimetableBuild (t : Nat) (b : Built) (s : State) : Host.Outcome State Fault Refusal :=
  let s := s.begin
  .next (if s.live && !s.paused then (s.advance t).built b else s)

/-- STOP_OPEN: the host asserts STOP_VALID with STOP_ID; STOP_ID 7 frames the tick header and opens nothing (R15, R23, R26). -/
def execStopOpen (stop : Nat) (s : State) : Host.Outcome State Fault Refusal :=
  let s := s.begin
  .next (if !s.live || s.tick.pinStop.isSome || 8 ≤ stop then s else
    (s.updTick fun t => { t with pinStop := some stop }).ensureOpen)

/-- STOP_CLOSE: the host deasserts STOP_VALID (R15, R17). A stop that waits while two are open opens in its turn, without a flit (R18). -/
def execStopClose (s : State) : Host.Outcome State Fault Refusal :=
  let s := s.begin
  .next (if !s.live then s else
    let s := s.ensureOpen
    let x := s.framed
    let waits := match x, s.pinned with | none, some p => if s.awaitsAck then [] else [p] | _, _ => []
    let s := s.updTick fun t => { t with pinStop := none, shut := t.shut ++ waits }
    match x with
    | some x => s.closeStop x
    | none => s)

/-- A stop flit that the framed stop takes (R507, R508, R17). -/
def State.takeFlit (s : State) (x : Stop) (port : Nat) (tag : FlitTag) (payload : Payload) : State :=
  let f := tF tag 8 0 24
  let kind := s.curHdr.kind
  let next := if port = 0 then x.next0 else x.next1
  let open_ := kind = 0 && !x.has 0 && f ≠ 0
  if x.framing then s
  else if tF tag 11 0 3 ≠ x.stop || f ≠ next then s.setErr .stopFraming
  else if !open_ && x.flits ≤ f then s.setErr .stopFraming
  else s.updStop x.stop fun y =>
    { y with
      next0 := if port = 0 then nextFidx f else y.next0
      next1 := if port = 0 then y.next1 else nextFidx f
      data := y.data ++ [(f, payload)]
      flits := if kind = 0 && f = 0 then y.flits + ceilDiv (min (fld payload 0 23) 4194304) 64 else y.flits }

/-- STOP_DATA_FLIT: stop flits are not ready between an edge and its TICK_ACK, or while a third stop waits (R18, R26). -/
def execStopDataFlit (port : Nat) (tag : FlitTag) (payload : Payload) (s : State) : Host.Outcome State Fault Refusal :=
  let s := s.begin
  .next (if !s.live || s.awaitsAck || s.paused then s else
    let s := s.ensureOpen
    if s.tick.pinStop.isSome && s.framed.isNone then s else
    let s := s.takeRx port fun f => f.tag = tag && f.payload = payload
    match s.framed with
    | some x => s.takeFlit x port tag payload
    | none => s.setErr .stopFraming)

/-- TICK_WORK_DONE: the last of the tick's work is done at time `t` (R29). -/
def execTickWorkDone (t : Nat) (s : State) : Host.Outcome State Fault Refusal :=
  let s := s.begin
  .next (if s.live then (s.advance t).settle else s)

/-- TICK_BUDGET_EXPIRY: TICK_LATE rises while the tick's work is unfinished past its budget (R29). -/
def execTickBudgetExpiry (t : Nat) (s : State) : Host.Outcome State Fault Refusal :=
  let s := s.begin
  .next (if s.live then (s.advance t).lateLevel else s)

end Sys2Proof.Machine
end

