-- ==== Sys2Proof/Machine/Links.lean ====
section
/-! DEFINITION. The links (R496 to R504, R549) as receivers and in their states, the answers to FM transactions and their failures
(R526 to R531), and the stop of the engine when a port is lost (R533). -/
namespace Sys2Proof.Machine
open Sys2Proof

/-! The engine's stop (R533). -/

/-- The engine stops: the tick ends as the lenient policy ends it, the engine is QUIESCED, what its scope owed completes. -/
def State.engineStop (s : State) : State :=
  if s.engine == .quiesced then s else
  let s := if s.tick.active then s.endTick else s
  let s := { s with engine := .quiesced, tick := { s.tick with edge := .none, pinStop := none, late := false } }
  let s := s.enterIdle
  (s.finishWhere (fun p => p == .quiesce .engine || p == .quiesceSave) (ansOk 0 0 0)).finishWhere (fun p => p == .enable .engine) (ans 0x30 0)

/-! FM answers. -/

/-- Saturating 16-bit addition to a train's error counts. -/
def State.trainErrAdd (s : State) (train parity reread : Nat) : State :=
  match s.trainErr[train]? with
  | some e => { s with trainErr := setAt s.trainErr train (min 65535 (e.1 + parity), min 65535 (e.2 + reread)) }
  | none => s

/-- A read is over. -/
def State.dropRead (s : State) (id : Nat) : State := { s with reads := s.reads.filter fun (x : FmRead) => x.id != id }

/-- The fetch of a wagon goes out again, up to three times; then its object is poisoned (R303, R531). -/
def State.readAgain (s : State) (r : FmRead) (a : Nat) : State :=
  if r.tries < 3 then
    let mark (x : FmRead) : FmRead := if x.id = r.id then { x with tries := x.tries + 1 } else x
    ({ s with reads := s.reads.map mark } : State).sendRead r
  else (s.dropRead r.id).poisonObject (slotOf a)

/-- A read fails (R531). -/
def State.failRead (s : State) (r : FmRead) : State :=
  let s := (s.setErr .fmErr).count .fmErr 1
  let drop (s : State) : State := s.dropRead r.id
  match r.kind with
  | .image slot => (drop s).failBuild slot (ans 0x18 18)
  | .firmware => { drop s with fw := (4, 0, 0) }
  | .rowRecords k n =>
    match s.rowDescs.find? fun t => t.ring = k && t.num.toNat = n with
    | some tk => match tk.pend with
      | .rows slot _ _ _ => ((drop s).dropUps tk slot).finishRows tk (ans 0x18 18)
      | _ => drop s
    | none => drop s
  | .special k n =>
    match s.specialOf k n with
    | some tk => (drop s).finish tk (ans 0x18 18)
    | none => drop s
  | .wagon a => s.readAgain r a
  | .writeBack _ | .pageMove _ _ =>
    let mark (x : FmRead) : FmRead := if x.id = r.id then { x with failed := true } else x
    { s with reads := s.reads.map mark }
  | .capture => { drop s with rb := ⟨4, 4, false, false, [], s.rb.tick⟩ }

/-- A write fails: it waits for the next tick start or wake read (R531). -/
def State.failWrite (s : State) (id : Nat) : State :=
  let mark (w : HostWrite) : HostWrite := if w.id = id then { w with issued := false, failed := true } else w
  let s := (s.setErr .fmErr).count .fmErr 1
  { s with writes := s.writes.map mark }

/-- A transaction fails. -/
def State.failTransaction (s : State) (id : Nat) : State :=
  match s.reads.find? fun r => r.owns id with
  | some r => s.failRead r
  | none => if s.writes.any fun w => w.id = id && w.issued then s.failWrite id else s

/-- A write is acknowledged; a save of the logbook no longer waits for it (R579). -/
def State.writeDone (s : State) (id : Nat) : State :=
  let strike (x : Snap) : Snap := { x with writes := x.writes.filter fun i => i != id }
  ({ s with
    log := { s.log with busy := s.log.busy.filter fun i => i != id }
    snaps := s.snaps.map strike } : State).ackWrite id

/-- The copy that a fetch of an address reads: in force, leaving service or being built, or the layout before a conversion (R251, R268). -/
def Dir.copyHolding (d : Dir) (a : Nat) : Option Copy :=
  if oldSpace ≤ a then d.prior.map (·.2)
  else (d.cur.toList ++ d.former.toList ++ (d.old.bind (·.2)).toList ++ d.next.toList).find? fun c => inRegion d.slot c.regionB a

/-- A fetched wagon is good: its CRC is right, and its header agrees with the directory record (R206). -/
def State.wagonGood (s : State) (a : Nat) (w : List Byte) : Bool :=
  wagonCrcOk w && match (s.dirAt (slotOf a)).bind fun d => (d.copyHolding a).map fun c => (d, c) with
    | none => true
    | some (d, c) =>
      let i := (a % oldSpace - (regionBase d.slot c.regionB + c.bodyOff)) / 4352
      match c.parts.find? fun p => decide (p.first ≤ i ∧ i < p.first + p.wagons) with
      | none => true
      | some p => headerAgrees w p (i - p.first) ((partRoles c.kind p).getD (i - p.first) 0) c.fmt c.mx6v c.version.toNat

/-- A fetched wagon that fails its check is read again, and counts (R206, R303). -/
def State.badWagon (s : State) (r : FmRead) (a : Nat) : State :=
  let again := r.tries < 3
  let s := if again then s.count .wagonReread 1 else s
  let s := match s.frames.find? fun f => f.addr = a with
    | some f => if again then s.trainErrAdd f.train 0 1 else s
    | none => s
  s.readAgain r a

/-- A page that has been read goes to its new place (R404). -/
def State.pageCopied (s : State) (slot idx : Nat) (bytes : List Byte) : State :=
  match s.reqAt slot with
  | some q => match q.moves.find? (fun m => m.1 = idx), q.pages[idx]? with
    | some m, some e => s.addWrite (.pageMove slot idx) (s.pageAddr (!e.1) m.2) bytes []
    | _, _ => s
  | none => s

/-- What a read was for, once it has come in whole. -/
def State.readWhole (s : State) (r : FmRead) : State :=
  match r.kind with
  | .special k n => (s.dropRead r.id).specialRead k n r.bytes
  | .firmware => { s with fw := (2, 0, 0) }
  | .wagon a => if s.wagonGood a r.bytes then s.dropRead r.id else s.badWagon r a
  | .pageMove slot idx => s.pageCopied slot idx r.bytes
  | _ => s

/-- The answers of R527 that stand on a link are taken from it. -/
def State.takeAnswer (s : State) (port kind id : Nat) : State :=
  s.takeRx port fun f => tagKind f.tag = kind && fmTxid f.tag = id % 4096

/-- A read-data flit, the identifier that of the request which it answers: each flit of a read is taken once. A request answered in full frees
its identifier, so that further requests may go out (R527). -/
def State.readData (s : State) (id flit : Nat) (payload : Payload) : State :=
  match s.reads.find? fun r => r.owns id with
  | none => s
  | some r =>
    let k := id - r.id
    let f := 64 * k + flit
    let s := s.takeAnswer r.port 0x34 id
    if r.failed || r.sent ≤ k || ceilDiv (r.unitsOf k) 4 ≤ flit || r.flits.any fun x => x.1 = f then s else
    let r' := { r with flits := r.flits ++ [(f, payload)] }
    let s := { s with reads := updWhere (fun (x : FmRead) => x.id = r.id) (fun _ => r') s.reads }
    let s := match r.kind with
      | .image slot =>
        if f = 0 && imgCheck1 (bvBytes payload) then
          { s with dirs := updWhere (fun (d : Dir) => d.slot = slot) (fun d => { d with headRead := some (imgBody (bvBytes payload)) }) s.dirs }
        else s
      | _ => s
    let s := if r'.whole then s.readWhole r' else s
    if r'.answered k then s.resumeTraffic else s

/-! States of a link (R504). -/

/-- Queued unsolicited records and every transaction that waits for a port go out when one is UP (R465, R530). -/
def State.portUp (s : State) : State := (s.unsolDrain s.unsol).resumeTraffic

/-- A link becomes UP: both directions number from 0. -/
def State.linkUp (s : State) (c : Nat) : State :=
  let l := s.link c
  let up : Link := { Link.fresh .up with waiting := l.waiting, resends := l.resends, failMax := l.failMax }
  let s := (s.setLink c up).pumpLink c
  let s := if c = 4 && s.xch.st = 0 then s.updXch fun x => { x with st := 1 } else s
  if 16 ≤ c then s.portUp else s

/-- Transactions of a failed port go out again on another (R530). -/
def State.movePort (s : State) (c : Nat) : State :=
  let back (w : HostWrite) : HostWrite := if w.issued && w.port = c then { w with issued := false } else w
  let s := ({ s with writes := s.writes.map back } : State).sendReady
  (s.reads.filter fun r => r.port = c && !r.failed && decide (!r.whole)).foldl State.sendRead s

/-- A link becomes FATAL (R504), with what the port's loss brings (R522, R530, R533). -/
def State.linkFatal (s : State) (c : Nat) : State :=
  let l := s.link c
  let hadPort := s.fmUp
  let s := s.setLink c { l with st := .fatal }
  let s := ((s.setErr .portFatal).count .portFatal 1).unsolEvent 0x50 c 0
  if c < 4 then s.engineStop
  else if c = 4 then s.loseThePartner false
  else
    let s := s.movePort c
    if hadPort && !s.fmUp then s.engineStop else s

/-- A re-send or a NAK adds to the link's figures. -/
def State.resent (s : State) (c : Nat) : State :=
  let l := s.link c
  (s.setLink c { l with resends := min 65535 (l.resends + 1) }).count .crcResend 1

/-- A failure of an unacknowledged SEQ; the eighth in a row is fatal (R504). -/
def State.seqFails (s : State) (c : Nat) (q : BitVec 8) : State :=
  let l := s.link c
  let n := ((l.fails.find? fun f => f.1 = q).map (·.2)).getD 0 + 1
  let fails := (q, n) :: l.fails.filter fun f => f.1 != q
  let s := (s.setLink c { l with fails := fails, failMax := max l.failMax (min n 255) }).resent c
  if 8 ≤ n then s.linkFatal c else s

/-- The flit with a SEQ is in the replay buffer. -/
def Link.holds (l : Link) (q : BitVec 8) : Bool := l.replay.any fun f => tagSeq f.tag = q

/-- An acknowledgement frees the replay buffer up to its SEQ (R499). -/
def Link.acked (l : Link) (q : BitVec 8) : Link :=
  let rest := (l.replay.dropWhile fun f => tagSeq f.tag != q).drop 1
  { l with replay := rest, fails := l.fails.filter fun x => rest.any fun f => tagSeq f.tag = x.1 }

/-- Parity of an acknowledgement (X_ACK_PAR, R489). -/
def ackParity (q : BitVec 8) (nak : Bool) : Bool :=
  ((List.range 8).foldl (fun a i => a ^^ q.getLsbD i) nak)

/-- A link of the configuration. -/
def State.hasPort (s : State) (c : Nat) : Bool := decide (c < 5) || decide (16 ≤ c ∧ c < 16 + s.build.fmPorts)

/-! Commands. -/

/-- LINK_INIT (R502, R503, R504). -/
def execLinkInit (port : Nat) (tag : FlitTag) (payload : Payload) (s : State) : Host.Outcome State Fault Refusal :=
  let s := s.begin
  .next (if !s.live || !s.hasPort port || !crcOk payload tag then s else
    if tF tag 8 0 8 ≠ 1 then s.setErr (linkErr port) else
    let l := s.link port
    let seen := tF tag 9 0 1 = 1
    match l.st with
    | .init =>
      let l := { l with gotInit := true, gotSeen := l.gotSeen || seen }
      let s := s.setLink port l
      if l.gotSeen && l.sentSeen then s.linkUp port else s
    | .up => if seen then s else s.linkFatal port
    | _ => s)

/-- LINK_INIT_RESEND: a link in INIT sends LINK_INIT (R502, R504). -/
def execLinkInitResend (port : Nat) (s : State) : Host.Outcome State Fault Refusal :=
  let s := s.begin
  .next (if !s.live || !s.hasPort port then s else
    let l := s.link port
    match l.st with
    | .init =>
      let l := { l with
        sentSeen := l.sentSeen || l.gotInit, initOut := some ⟨0, sealTag 0 (initTag l.gotInit) 0⟩ }
      let s := s.setLink port l
      if l.gotSeen && l.sentSeen then s.linkUp port else s
    | _ => s)

/-- FLIT_RECEIVE (R498 to R500, R505); AIN0 and AIN1 hold READY at 0 while issue is paused (R558). A re-send of the expected flit that fails
its CRC again is NAKed again (assumption log 109). -/
def execFlitReceive (port : Nat) (tag : FlitTag) (payload : Payload) (s : State) : Host.Outcome State Fault Refusal :=
  let s := s.begin
  .next (if !s.live || !s.hasPort port || (decide (port < 2) && s.paused) then s else
    let l := s.link port
    match l.st with
    | .up =>
      if !crcOk payload tag || tagSeq tag != l.rxSeq then
        if l.nakSent && (crcOk payload tag || tagSeq tag != l.rxSeq) then s
        else (s.setLink port { l with nakSent := true, ackOut := some (l.rxSeq, true) }).resent port
      else
        let l := { l with rxSeq := l.rxSeq + 1, nakSent := false, ackOut := some (l.rxSeq, false) }
        if !kindOf port (tagKind tag) then (s.setLink port l).setErr (linkErr port)
        else if port < 2 && s.negot.getD 2 0 = 0 then s.setLink port l
        else s.setLink port { l with rxQ := l.rxQ ++ [⟨payload, tag⟩] }
    | _ => s)

/-- ACK_RECEIVE (R499, R500). -/
def execAckReceive (port : Nat) (seq : BitVec 8) (nak par : Bool) (s : State) : Host.Outcome State Fault Refusal :=
  let s := s.begin
  .next (if !s.live || !s.hasPort port || par != ackParity seq nak then s else
    let l := s.link port
    match l.st with
    | .up =>
      if !l.holds seq then s
      else if nak then s.seqFails port seq
      else
        let l := l.acked seq
        ((s.setLink port l).pumpLink port).pumpDone
    | _ => s)

/-- REPLAY_TIMEOUT (R500). -/
def execReplayTimeout (port : Nat) (s : State) : Host.Outcome State Fault Refusal :=
  let s := s.begin
  .next (if !s.live || !s.hasPort port then s else
    match (s.link port).st, (s.link port).replay with
    | .up, f :: _ => s.seqFails port (tagSeq f.tag)
    | _, _ => s)

/-- FM_READ_DATA. -/
def execFmReadData (id flit : Nat) (payload : Payload) (s : State) : Host.Outcome State Fault Refusal :=
  let s := s.begin
  .next (if s.live then s.readData id flit payload else s)

/-- FM_READ_ERROR (R531). -/
def execFmReadError (id : Nat) (s : State) : Host.Outcome State Fault Refusal :=
  let s := s.begin
  .next (if !s.live then s else
    match s.reads.find? fun r => r.owns id with
    | some r => (s.takeAnswer r.port 0x35 id).failRead r
    | none => s)

/-- FM_TIMEOUT (R531). -/
def execFmTimeout (id : Nat) (s : State) : Host.Outcome State Fault Refusal :=
  let s := s.begin
  .next (if s.live then s.failTransaction id else s)

/-- Ports that a PORT_RESET word names (R549). -/
def State.resetPorts (s : State) (v : Word) : List Nat :=
  (List.range 5).filter (fun c => v.getLsbD c) ++ ((List.range s.build.fmPorts).filter fun j => v.getLsbD (16 + j)).map (16 + ·)

/-- A link goes to DOWN and then to INIT; its figures stand. -/
def State.resetLink (s : State) (c : Nat) : State :=
  let l := s.link c
  let s := s.setLink c { Link.fresh .init with resends := l.resends, failMax := l.failMax }
  if c = 4 then s.updXch fun x => { x with st := if x.st = 3 then 3 else 0, joining := false } else s

/-- A write to PORT_RESET (R549). -/
def State.portReset (s : State) (v : Word) : State :=
  if s.live && s.engine == .quiesced then ((s.resetPorts v).foldl State.resetLink s).pumpDone else s

/-- PORT_RESET. -/
def execPortReset (v : Word) (s : State) : Host.Outcome State Fault Refusal := .next (s.begin.portReset v)

end Sys2Proof.Machine
end

