-- ==== Sys2Proof/Machine/Shunt.lean ====
section
/-! DEFINITION. Shunting (R277 to R312): heat, the decision list with its accounting, the remap of moved runs and converted
copies, write-backs that land, page moves of requests (R404), and what a bad read or a parity error does (R303 to R305). -/
namespace Sys2Proof.Machine
open Sys2Proof

/-! Heat (R283). -/

/-- A copy that is in force in tick n and stays so: its slot is INSTALLED, STAGING or STAGED and no swap is under way. -/
def Dir.settledAt (d : Dir) (n : Nat) : Option Copy :=
  match d.old with
  | some (m, _) => if n < m then none else if d.st.inForce then d.cur else none
  | none => if d.st.inForce then d.cur else none

/-- H − (H >> HEAT_SHIFT) + V, saturating. -/
def heatNext (h shift v : Nat) : Nat := min (2 ^ 32 - 1) (h - h / 2 ^ shift + v)

/-- The heat of every copy in force at a boundary of line l whose HEAD tick is n; tables have none. -/
def State.updateHeat (s : State) (l n : Nat) : State :=
  let shift := fld (s.shuntCfg.getD 0 0) 24 4
  let vs := (s.line l).visits
  let go (d : Dir) : Dir :=
    match d.settledAt n with
    | some c => if c.kind = 3 then d else { d with heat := heatNext d.heat shift (vs.filter fun v => v.1 = d.handle).length }
    | none => d
  ({ s with dirs := s.dirs.map go } : State).updLine l fun x => { x with visits := [] }

/-! The decision list (R284 to R290). -/

/-- An entry of the decision list (R290). -/
structure ShuntEntry where
  op     : Nat
  handle : Word
  src    : Nat
  dst    : Nat
  fmt    : Nat
  deriving DecidableEq, Repr

/-- The 8 bytes of an entry. -/
def ShuntEntry.bytes (e : ShuntEntry) : List Byte :=
  leBytes 1 e.op ++ leBytes 4 e.handle.toNat ++ leBytes 1 e.src ++ leBytes 1 e.dst ++ leBytes 1 e.fmt

/-- The wagon charge of a copy that no decision has left behind. -/
def State.bodyCharge (s : State) (d : Dir) (c : Copy) : Option Charge :=
  s.charges.find? fun x => x.slot = d.slot && x.copy = c.head && x.kind == ChargeKind.wagons && x.relAt.isNone

/-- The copies that a decision may name in tick n (R284), with the charge of their runs. -/
def State.movable (s : State) (n : Nat) : List (Dir × Copy × Charge) :=
  s.dirs.filterMap fun d =>
    match d.settledAt n with
    | none => none
    | some c =>
      let busy := s.charges.any fun x => x.slot = d.slot && x.copy = c.head && x.kind == ChargeKind.wagons && x.relAt.isSome
      if d.poisoned || c.kind = 3 || busy then none else (s.bodyCharge d c).map fun x => (d, c, x)

/-- Checks 12 and 13 of R255 for wagons placed in tier k; `old` tier-map entries stand already. -/
def State.moveFits (s : State) (t k wagons old : Nat) : Bool :=
  let runs := ceilDiv wagons 16
  (s.overQuota t [(k, wagons)]).isNone && s.roomFor k runs 0 (runs - old)

/-- The state region holds no optimiser state in the accounting, where a state is gone at the read that releases it (R293). -/
def Dir.stateless (d : Dir) : Bool := d.optNext.isNone && (match d.opt with | some o => o.closing | none => true)

/-- A format in the accounting after a decision, with its wagons: a narrowing (R289), a widening (R288) or neither. -/
def State.narrowsTo (s : State) (x : Dir × Copy × Charge) : Option (Nat × Nat) :=
  if x.2.2.tier = 1 && x.1.accFmt != 4 && !x.2.1.sealed && x.1.stateless && fld (s.shuntCfg.getD 0 0) 29 1 = 1 then
    some (4, x.2.1.convWagons 4)
  else none

/-- The copy is eligible for widening (R288). -/
def State.widensTo (s : State) (x : Dir × Copy × Charge) : Option (Nat × Nat) :=
  let w := x.2.1.convWagons 1
  if x.1.accFmt = 4 && !x.2.1.sealed && x.1.stateless && decide ((s.shuntCfg.getD 3 0).toNat ≤ x.1.heat)
      && fld (s.shuntCfg.getD 0 0) 30 1 = 1 && decide (x.2.1.bodyOff + w * 4352 ≤ 268435456) then some (1, w)
  else none

/-- The format and wagons that an entry charges. -/
def asDecided (x : Dir × Copy × Charge) (conv : Option (Nat × Nat)) : Nat × Nat := conv.getD (x.1.accFmt, x.2.2.wagons)

/-- A decision for every run of a copy: TIER names the destination at once, and the run is due to be moved or built there (R247, R292).
A move of the run that was still under way ends. -/
def assignRuns (dst : Nat) (p : TRun → Bool) (rs : List TRun) : List TRun :=
  rs.map fun r => if p r then { r with tier := dst, due := true, moving := false, dest := none, built := false } else r

/-- One decision takes effect in the accounting and in the tier map (R289, R292, R293). -/
def State.applyDecision (s : State) (n : Nat) (x : Dir × Copy × Charge) (dst : Nat) (conv : Option (Nat × Nat)) : State :=
  let (d, c, ch) := x
  let fw := asDecided x conv
  let runs := ceilDiv fw.2 16
  let leave (y : Charge) : Charge := if y = ch then { y with relAt := some (n + 8), entries := 0 } else y
  let new : Charge := ⟨d.slot, c.head, .wagons, d.tenant, dst, fw.2, runs, runs, none⟩
  let want : Option Nat := match conv with
    | some (f, _) => if f = c.fmt then none else some f
    | none => d.conv
  let s := { s with
    charges := s.charges.map leave ++ [new]
    tmap := assignRuns dst (ofCopy d c) s.tmap }
  s.setDir { d with accFmt := fw.1, accWag := fw.2, conv := want, convRuns := (0, []) }

/-- What an entry says (R290). -/
def entryOf (op dst : Nat) (x : Dir × Copy × Charge) (conv : Option (Nat × Nat)) : ShuntEntry :=
  ⟨op, x.1.handle, x.2.2.tier, dst, (asDecided x conv).1⟩

/-- Order by heat, then handle; `up` puts the hottest first. -/
def byHeat (up : Bool) (xs : List (Dir × Copy × Charge)) : List (Dir × Copy × Charge) :=
  let key (x : Dir × Copy × Charge) : List Nat := [if up then 2 ^ 32 - x.1.heat else x.1.heat, x.1.handle.toNat]
  (sortBy (fun a b => keyLt a.1 b.1) (xs.map fun x => (key x, x))).map (·.2)

/-- The state with the list so far, and its room. -/
abbrev ShuntAcc := State × List ShuntEntry

/-- The first tier of a list into which a demotion of the copy passes; with the conversion it makes. -/
def State.demoteTo (s : State) (x : Dir × Copy × Charge) (tiers : List Nat) : Option (Nat × Option (Nat × Nat)) :=
  let conv := s.narrowsTo x
  (tiers.find? fun j => s.moveFits x.1.tenant j (asDecided x conv).2 x.2.2.runs).map fun j => (j, conv)

/-- Add a demotion. -/
def addDemote (n : Nat) (a : ShuntAcc) (x : Dir × Copy × Charge) (j : Nat) (conv : Option (Nat × Nat)) : ShuntAcc :=
  (a.1.applyDecision n x j conv, a.2 ++ [entryOf 1 j x conv])

/-- Step 1 for a tenant and a tier: while its usage exceeds its quota, at most `room` entries. -/
def quotaDemote (n t k : Nat) : Nat → ShuntAcc → ShuntAcc
  | 0, a => a
  | room + 1, a =>
    if a.1.usage t k ≤ a.1.quota t k then a else
    match byHeat false ((a.1.movable n).filter fun x => x.1.tenant = t && x.2.2.tier = k) with
    | [] => a
    | x :: _ =>
      match a.1.demoteTo x ((List.range 4).map (· + 1) |>.filter fun j => decide (k < j)) with
      | none => a
      | some (j, conv) => quotaDemote n t k room (addDemote n a x j conv)

/-- The copy as it stands after earlier entries. -/
def State.current (s : State) (n : Nat) (h : Word) : Option (Dir × Copy × Charge) := (s.movable n).find? fun x => x.1.handle = h

/-- Step 2: one cold copy of T1. -/
def coldDemote (n cap : Nat) (a : ShuntAcc) (h : Word) : ShuntAcc :=
  if cap ≤ a.2.length then a else
  match a.1.current n h with
  | none => a
  | some x => match a.1.demoteTo x [2, 3, 4] with
    | some (j, conv) => addDemote n a x j conv
    | none => a

/-- A candidate of `need` runs passes check 13 for T1 with `freed` runs that displaced copies leave there: runs and tier-map entries
(R246, R287). -/
def State.wouldFit (s : State) (need freed : Nat) (x : Dir × Copy × Charge) : Bool :=
  decide (need ≤ s.freeRuns 1 + freed) && decide (s.tmapUsed + (need - x.2.2.runs) ≤ 4194304)

/-- Demote T1 copies in order until the candidate passes check 13 for T1 with what they leave, `freed` runs so far; none when they do
not suffice or the list has no room (R287, assumption log 40). -/
def displace (n cap need : Nat) (x : Dir × Copy × Charge) : List Word → Nat → ShuntAcc → Option ShuntAcc
  | [], freed, a => if a.1.wouldFit need freed x then some a else none
  | h :: hs, freed, a =>
    if a.1.wouldFit need freed x then some a
    else if cap ≤ a.2.length + 1 then none
    else match a.1.current n h with
      | none => displace n cap need x hs freed a
      | some y => match a.1.demoteTo y [2, 3, 4] with
        | some (j, conv) => displace n cap need x hs (freed + y.2.2.runs) (addDemote n a y j conv)
        | none => displace n cap need x hs freed a

/-- Step 3: one hot copy outside T1 (R287, R288). -/
def promote (n cap : Nat) (a : ShuntAcc) (h : Word) : ShuntAcc :=
  if cap ≤ a.2.length then a else
  match a.1.current n h with
  | none => a
  | some x =>
    let wide := a.1.widensTo x
    let into (j : Nat) : Option (Nat × Nat) := if j = 1 then wide else none
    let fits (j : Nat) : Bool := a.1.moveFits x.1.tenant j (asDecided x (into j)).2 x.2.2.runs
    let d := ([1, 2, 3].filter fun j => decide (j < x.2.2.tier)).find? fits
    let place (a : ShuntAcc) (j : Nat) : ShuntAcc := (a.1.applyDecision n x j (into j), a.2 ++ [entryOf 2 j x (into j)])
    let w := (asDecided x wide).2
    let ceded := if d != some 1 && fld (a.1.shuntCfg.getD 0 0) 28 1 = 1 && (a.1.overQuota x.1.tenant [(1, w)]).isNone then
        displace n cap (ceilDiv w 16) x
          ((byHeat false ((a.1.movable n).filter fun y => y.2.2.tier = 1 && decide (2 * y.1.heat < x.1.heat))).map (·.1.handle)) 0 a
      else none
    match ceded, d with
    | some b, _ => place b 1
    | none, some j => place a j
    | none, none => a

/-- Step 4: one copy of T1 widened in place. -/
def widen (n cap : Nat) (a : ShuntAcc) (h : Word) : ShuntAcc :=
  if cap ≤ a.2.length then a else
  match a.1.current n h with
  | none => a
  | some x => match a.1.widensTo x with
    | some (f, w) =>
      if x.2.2.tier = 1 && a.1.moveFits x.1.tenant 1 w x.2.2.runs then
        (a.1.applyDecision n x 1 (some (f, w)), a.2 ++ [entryOf 3 1 x (some (f, w))])
      else a
    | none => a

/-- Handles of movable copies that satisfy `p`, by heat. -/
def State.heatList (s : State) (n : Nat) (up : Bool) (p : Dir × Copy × Charge → Bool) : List Word :=
  (byHeat up ((s.movable n).filter p)).map (·.1.handle)

/-- The decision point at a boundary whose HEAD tick is n (R285, R286, R290, R312). -/
def State.decisionPoint (s : State) (l n : Nat) : State :=
  let s := ({ s with shuntCfg := [s.reg 0x4080, s.reg 0x4088, s.reg 0x408C, s.reg 0x4090] } : State).updateHeat l n
  let ctl := s.shuntCfg.getD 0 0
  let cap := fld ctl 16 8
  let hot := (s.shuntCfg.getD 1 0).toNat
  let cold := min (s.shuntCfg.getD 2 0).toNat hot
  let tenants := sortNat (s.charges.map (·.tenant))
  let a := (tenants.flatMap fun t => [1, 2, 3].map fun k => (t, k)).foldl
    (fun (a : ShuntAcc) x => quotaDemote n x.1 x.2 (cap - a.2.length) a) (s, [])
  let a := if fld ctl 31 1 = 0 then a else
    let a := (a.1.heatList n false fun x => x.2.2.tier = 1 && decide (x.1.heat < cold)).foldl (coldDemote n cap) a
    let a := (a.1.heatList n true fun x => x.2.2.tier != 1 && decide (hot ≤ x.1.heat)).foldl (promote n cap) a
    if fld ctl 30 1 = 0 then a
    else (a.1.heatList n true fun x => x.2.2.tier = 1).foldl (widen n cap) a
  let s := if a.1.tick.idle then a.1.startMoves else a.1
  { s with digest := { s.digest with sec4 := s.digest.sec4 ++ [(n + 1, crc32c (a.2.flatMap ShuntEntry.bytes))] } }

/-! Remaps (R249, R251, R292). -/

/-- Dirty wagons that waited for a remap are written back, once no tick's work is under way (R298). -/
def State.resumeWriteBacks (s : State) : State := if s.tick.active then s else s.writeBacks

/-- A run lies where its decision put it, and its source serves only the fetches issued before (R249, R292). -/
def State.landRun (s : State) (r : TRun) : State :=
  let land (q : TRun) : TRun :=
    if q.addr = r.addr then { q with loc := q.dest.getD q.loc, src := q.tier, dest := none, moving := false, due := false } else q
  ({ s with tmap := s.tmap.map land, stale := s.stale ++ [⟨r.addr, r.src, r.loc, 0⟩] } : State).dropStale

/-- A run's transfer has ended: a move remaps it in one step, a run of a conversion is built and waits for the copy's remap. The copy's
next run then begins (R292). A transfer makes no progress where its share is 0 while a tick executes, or while issue is paused
(R301, R558). -/
def State.remapRun (s : State) (a : Nat) : State :=
  match s.tmap.find? (fun r => r.addr = a), s.ownerOf a with
  | some r, some (d, _) =>
    let may := s.landMay (decide (2 ≤ r.src ∨ 2 ≤ r.tier)) (decide (r.src = 1 ∨ r.tier = 1))
    if !r.moving || r.built || d.poisoned || !may then s
    else if d.conv.isSome then
      ({ s with tmap := updWhere (fun (q : TRun) => q.addr = a) (fun q => { q with built := true }) s.tmap } : State).startMoves
    else (s.landRun r).finishBuilds.startMoves.resumeWriteBacks
  | _, _ => s

/-- A converted copy's remap once every run has been built; a copy that holds a non-finite value keeps its format, and moves in it where
its tier has changed (R251, R289, R292). -/
def State.remapConversion (s : State) (slot : Nat) : State :=
  match s.dirAt slot with
  | none => s
  | some d =>
    match d.cur, d.conv with
    | some c, some f =>
      let mine := s.tmap.filter (ofCopy d c)
      if d.poisoned || mine.any fun r => !r.built then s
      else if s.copyNonfinite slot c then
        let back (q : TRun) : TRun :=
          if ofCopy d c q then { q with moving := false, built := false, due := q.src != q.tier } else q
        let s := ({ s with tmap := s.tmap.map back } : State).setDir { d with conv := none, convRuns := (0, []) }
        ((s.count .convertSkipped 1).finishBuilds.startMoves).resumeWriteBacks
      else
        let tier := match mine with | r :: _ => r.tier | [] => 1
        ((s.convertCopy d c f tier).dropStale.finishBuilds.startMoves).resumeWriteBacks
    | _, _ => s

/-! Write-backs that land (R296, R297). -/

/-- Where a write-back stands in the order of landing: the tick whose step it carries, then its address (R297). -/
def State.landKey (s : State) (a : Nat) : List Nat :=
  match (s.tierOld.find? fun e => e.addr = a).bind (·.sent) with
  | some x => [x.1, a]
  | none => [0, a]

/-- No write-back under way comes before this one, nor a wagon or state block that a step dirtied and whose write-back has not been
issued yet (R297). Those of a poisoned object never land. -/
def State.firstToLand (s : State) (a : Nat) : Bool :=
  (s.reads.all fun (x : FmRead) => match x.kind with | .writeBack b => b = a || !keyLt (s.landKey b) (s.landKey a) | _ => true)
  && s.tierOld.all fun e => e.addr = a || e.sent.isSome || s.poisonedAt e.addr || !keyLt [e.tick, e.addr] (s.landKey a)

/-- What the tier holds follows a write-back that has landed: the wagon's bytes, or those that the write-back carried while its frame
has been written again (R262, R296). -/
def State.tierTakes (s : State) (a : Nat) (again : Bool) : State :=
  let take (e : TierCopy) : TierCopy := match e.sent with | some x => { e with bytes := x.2, sent := none } | none => e
  { s with tierOld := if again then updWhere (fun (e : TierCopy) => e.addr = a) take s.tierOld else s.tierOld.filter fun e => e.addr != a }

/-- The frames of a wagon, or of a state block, that no tick of the window uses are freed at its landing (R280, R296, R445). -/
def State.freeFrames (s : State) (a : Nat) : State :=
  let within (b : Nat) : Bool := match s.runOf a with | some _ => b = a | none => decide (a ≤ b) && !s.isDirty b && slotOf b = slotOf a && (s.runOf b).isNone
  let spent (f : Frame) : Bool := within f.addr && f.group.isNone
    && (decide (f.last < s.tick.count) || (decide (f.last = s.tick.count) && !s.tick.active))
  { s with frames := s.frames.filter fun f => !spent f }

/-- A write-back may land now (R297, R299 to R301): it is the first in the order, its tier is reached, every write of it to a pool is
acknowledged, and its transfer makes progress. -/
def State.mayLand (s : State) (x : FmRead) (a : Nat) : Bool :=
  let t := s.tierOf a
  !x.failed && !(s.writes.any fun w => w.kind == .writeBack a) && s.firstToLand a && (s.landMay (decide (2 ≤ t)) (decide (t = 1)) || (s.urgent a && !s.paused))

/-- A write-back lands: the wagon is clean, unless a step dirtied it again meanwhile (R296, R297). -/
def State.writeBackLands (s : State) (a : Nat) : State :=
  match s.reads.find? fun (x : FmRead) => x.kind == RKind.writeBack a with
  | none => s
  | some x =>
    if !s.mayLand x a then s else
    let clear (r : TRun) : TRun :=
      if r.addr ≤ a ∧ a < r.addr + 69632 ∧ !x.again then
        { r with dirty := r.dirty &&& ~~~ BitVec.ofNat 16 (2 ^ ((a - r.addr) / 4352)) } else r
    let s := { s with reads := s.reads.filter fun (y : FmRead) => y.id != x.id, tmap := s.tmap.map clear }
    let s := ((s.tierTakes a x.again).freeFrames a).startMoves
    if !x.again then s
    else if (s.runOf a).isSome then s.resumeWriteBacks
    else s.startWriteBack a

/-! Page moves (R404). -/

/-- Write one list entry of a request to host memory, after the writes of earlier entries (R402). -/
def State.writePageEntry (s : State) (slot idx : Nat) (e : Bool × Nat) : State :=
  s.addWrite .pageList (s.addr64 0x40DC + slot * 4 * s.plistMax + 4 * idx) (leBytes 4 (e.2 + (if e.1 then 2 ^ 31 else 0)))
    (s.writeIds fun w => w == .pageList)

/-- Start a page move over FM (R404): list entry `idx` of the slot moves to page `dst` of the other pool. -/
def State.startPageMove (s : State) (slot idx : Nat) (src : Bool × Nat) : State :=
  s.addRead (.pageMove slot idx) (s.pageAddr src.1 src.2) (s.rf 0x40C0 0 16 * 64)

/-- A PAUSE completes when the request is PAUSED and its moves have finished (R395). -/
def State.pauseDone (s : State) (slot : Nat) : State :=
  match s.reqAt slot with
  | some q => if q.st == .paused && q.moves.isEmpty then s.finishWhere (fun p => p == .pause slot) (ansOk 0 0 0) else s
  | none => s

/-- A page move lands once its page has been read and written: its list entry is rewritten, and a second move of the same entry may start. -/
def State.pageMoveLands (s : State) (slot idx : Nat) : State :=
  match s.reqAt slot, s.reads.find? fun (x : FmRead) => x.kind == RKind.pageMove slot idx && !x.failed && x.whole with
  | some q, some x =>
    if s.writes.any fun w => w.kind == .pageMove slot idx then s else
    match q.moves.find? (fun m => m.1 = idx), q.pages[idx]? with
    | some m, some e =>
      let e' := (!e.1, m.2)
      let rest := q.moves.erase m
      let s := { s with reads := s.reads.filter fun (y : FmRead) => y.id != x.id }
      let s := (s.setReq { q with pages := setAt q.pages idx e', moves := rest }).writePageEntry slot idx e'
      let s := if rest.any fun y => y.1 = idx then s.startPageMove slot idx e' else s
      (s.ackWrite x.id).pauseDone slot
    | _, _ => s
  | _, _ => s

/-! Bad reads and parity (R303 to R305). -/

/-- The object that owns an adapter-space address is poisoned. -/
def State.poisonOwner (s : State) (a : Nat) : State := s.poisonObject (slotOf a)

/-- R303: up to three re-reads; an object whose wagon stays unreadable is poisoned. -/
def State.crcMismatch (s : State) (a : Nat) (wagonCheck : Bool) (train rereads : Nat) (readable : Bool) : State :=
  let n := if readable then clampN 1 3 rereads else 3
  let s := (s.count (if wagonCheck then .wagonReread else .depotReread) n).trainErrAdd train 0 n
  if readable then s else s.poisonOwner a

/-- A wagon whose frames failed three times in the tick: the rows that depend on it are late at their stops, opened or yet to open
(R304). -/
def State.dependentsLate (s : State) (a : Nat) : State :=
  if !s.tick.active || s.standing || s.tick.failed.contains a then s
  else (s.updTick fun t => { t with failed := t.failed ++ [a] }).failLate

/-- Parity failures of a wagon's frames in the current tick. -/
def State.frameFails (s : State) (a : Nat) : Nat := (s.frames.filter fun f => f.addr % oldSpace = a).foldl (fun n f => n + f.fails) 0

/-- A wagon or state block whose platform frame is its authoritative copy (R295, R298). -/
def State.dirtyAt (s : State) (a : Nat) : Bool := s.isDirty a || s.writingBack a

/-- R304, and R305 for a dirty frame. -/
def State.parityError (s : State) (a train : Nat) (third : Bool) : State :=
  if s.dirtyAt a then s.poisonOwner a
  else
    let s := ((s.count .parityRefetch 1).setErr .platformParity).trainErrAdd train 1 0
    let s := s.refetch train a
    if third || decide (3 ≤ s.frameFails a) then (s.dependentsLate a).proceed false false else s

/-! Commands. -/

/-- RUN_MOVE_REMAP. -/
def execRunMoveRemap (addr : Nat) (s : State) : Host.Outcome State Fault Refusal :=
  let s := s.begin
  .next (if s.live then s.remapRun addr else s)

/-- CONVERSION_REMAP: between two ticks (R251). -/
def execConversionRemap (slot : Nat) (s : State) : Host.Outcome State Fault Refusal :=
  let s := s.begin
  .next (if s.live && !s.tick.active then s.remapConversion slot else s)

/-- WRITE_BACK_LANDED. -/
def execWriteBackLanded (addr : Nat) (s : State) : Host.Outcome State Fault Refusal :=
  let s := s.begin
  .next (if s.live then s.writeBackLands addr else s)

/-- PAGE_MOVE_LANDED: a move that the manifest waits for is exempt from the share (R301, R404). -/
def execPageMoveLanded (slot idx : Nat) (s : State) : Host.Outcome State Fault Refusal :=
  let s := s.begin
  .next (if s.live && !s.paused && (s.manifestHeld || s.shareMay true false) then s.pageMoveLands slot idx else s)

/-- DEPOT_CRC_MISMATCH. -/
def execDepotCrcMismatch (addr : Nat) (wagonCheck : Bool) (train rereads : Nat) (readable : Bool) (s : State) :
    Host.Outcome State Fault Refusal :=
  let s := s.begin
  .next (if s.live then s.crcMismatch addr wagonCheck train rereads readable else s)

/-- PLATFORM_PARITY_ERROR. -/
def execPlatformParityError (addr train : Nat) (thirdInTick : Bool) (s : State) : Host.Outcome State Fault Refusal :=
  let s := s.begin
  .next (if s.live then s.parityError addr train thirdInTick else s)

end Sys2Proof.Machine
end

