-- ==== Sys2Proof/Machine/Boundary.lean ====
section
/-! DEFINITION. The step boundary of a line (R397 to R412, R613): the backward set and its list (R431, R432), the eight steps over
the request table, the manifest, the yard split (R159), and what is latched there. -/
namespace Sys2Proof.Machine
open Sys2Proof

/-! The backward set (R431, R432). -/

/-- The trained slots of a request in tick n: slot, handle, version and weight. -/
def State.trainedSlots (s : State) (q : Req) (n : Nat) : List (Nat × Word × Word × Word) :=
  q.slots.filterMap fun x =>
    if q.trainMask / 2 ^ x.1 % 2 = 0 then none else
    match s.resolveKind x.2.1 n 0 with
    | some (d, c) =>
      let holds := match d.opt with | some o => !o.closing | none => false
      if trainableCopy d c && holds && d.tenant = q.tenant then some (x.1, x.2.1, c.version, x.2.2) else none
    | none => none

/-- The earlier of two ticks from which rows had left the layers. -/
def leftAt (q : Req) : Option Nat := minDead q.exitAt q.cancelAt

/-- The backward set of a line from the manifest of the step just ended. -/
def State.backRows (s : State) (l n : Nat) : List BRow :=
  (s.manifest l).filterMap fun x =>
    match s.rowReq x.2 with
    | none => none
    | some q =>
      if !q.adapt then none else
      let ts := s.trainedSlots q n
      if ts.isEmpty then none
      else some ⟨x.1, q.prio, ts.foldl (fun a t => a ||| 2 ^ t.1) 0, ts, leftAt q⟩

/-- An entry of the backward list. -/
def BRow.word (b : BRow) : Nat := put 0 13 b.row + put 16 4 b.train

/-- Write a list with its header: the entries and the header beyond STEP first, STEP last (R410, R432). -/
def State.writeList (s : State) (k : WKind) (base step : Nat) (rest entries : List Byte) (after : List Nat) : State :=
  let id0 := s.nextId
  let s := (s.addWrite k (base + 64) entries after).addWrite k (base + 4) rest after
  let body := s.writes.filterMap fun w => if decide (id0 ≤ w.id) then some w.id else none
  s.addWrite k base (leBytes 4 step) (body ++ after)

/-- Form the backward set of a line and write its list. -/
def State.formBackward (s : State) (l n : Nat) : State :=
  let rows := s.backRows l n
  let slots := sortNat (rows.filterMap fun b => ((s.line l).rows.toArray[b.row]?).map fun (r : MRow) => r.slot)
  let s := slots.foldl (fun s sl => s.updReq sl fun q => { q with bwdSteps := (q.bwdSteps + 1) % 2 ^ 32 }) s
  let step := (s.line l).step
  let entries := rows.flatMap fun b => leBytes 4 b.word
  let rest := leBytes 2 rows.length ++ leBytes 1 l ++ leBytes 1 0 ++ leBytes 8 n ++ leBytes 4 (crc32c entries).toNat
    ++ List.replicate 44 0
  let s := s.writeList .backwardList (s.addr64 (0x2108 + 8 * l) + step % 2 * 0x10000) step rest entries
    (s.writeIds fun w => w == .backwardList)
  s.updLine l fun x => { x with back := rows }

/-! Candidates (R398). -/

/-- Order of candidates. -/
def candKey (q : Req) : List Nat :=
  [15 - q.prio, (match q.deadline with | some _ => 0 | none => 1), q.deadline.getD 0, q.seq]

/-- Slots of a line's requests in candidate order. -/
def State.candidates_ (s : State) (l : Nat) (p : Req → Bool) : List Nat :=
  let qs := s.reqs.filter fun q => q.line = l && p q
  (sortBy (fun a b => keyLt a.1 b.1) (qs.map fun q => (candKey q, q.slot))).map (·.2)

/-- Apply a step to requests of a line in candidate order. -/
def State.eachReq (s : State) (l : Nat) (p : Req → Bool) (f : State → Req → State) : State :=
  (s.candidates_ l p).foldl (fun s sl => match s.reqAt sl with | some q => f s q | none => s) s

/-! Steps 1 to 6. -/

/-- Steps 1 and 2: ended and cancelled requests leave; a cancelled one leaves a final record (R394, R396, R408). -/
def State.leaveAll (s : State) (l n : Nat) : State :=
  let s := s.eachReq l (·.endP) State.freeReq
  s.eachReq l (·.cancelP) fun s q => (s.freeReq q).queueFinal (finalOf q 0x30 n)

/-- Step 3: PAUSING to PAUSED; the T2 pages return (R404, R405). -/
def State.enterPaused (s : State) (l n : Nat) : State :=
  s.eachReq l (fun q => q.st == .pausing) fun s q =>
    let ttl := if q.ttl = 0 || q.resumeP then none else some (n + q.ttl)
    let s := { s with used2 := s.used2.filter fun p => !q.own2.contains p }
    (s.setReq { q with st := .paused, own2 := [], ttlAt := ttl }).pauseDone q.slot

/-- Step 4: RESUMING to PRE; the T4 pages return and the RESUME completes (R404). -/
def State.leaveResuming (s : State) (l : Nat) : State :=
  s.eachReq l (fun q => q.st == .resuming) fun s q =>
    let s := { s with used4 := s.used4.filter fun p => !q.own4.contains p }
    (s.setReq { q with st := q.pre, own4 := [] }).finishWhere (fun p => p == .resume q.slot) (ansOk 0 0 0)

/-- A quiescing tenant with no request in PREFILL, DECODE, PAUSING or RESUMING drains; a held ENABLE then applies (R480, R481). -/
def State.drainTenant (s : State) (t : Nat) : State :=
  let x := s.tenant t
  let busy := s.reqs.any fun q => q.tenant = t && !(q.st == .queued || q.st == .paused)
  if busy then s else
  match x.st with
  | .quiescing => (s.setTenant { x with st := .quiesced }).finishWhere (fun p => p == .quiesce (.tenant t)) (ansOk 0 0 0)
  | .held =>
    ((s.setTenant { x with st := .enabled }).finishWhere (fun p => p == .quiesce (.tenant t)) (ansOk 0 0 0)).finishWhere
      (fun p => p == .enable (.tenant t)) (ansOk 0 0 0)
  | _ => s

/-- Every quiescing tenant is checked. -/
def State.drainTenants (s : State) : State := (s.tenants.map (·.id)).foldl State.drainTenant s

/-- Begin the moves of every list entry of a slot to pages of the other pool, after moves that are still under way. -/
def State.beginMoves (s : State) (q : Req) (dst : List Nat) : State :=
  let moves := dst.zipIdx.map fun x => (x.2, x.1)
  let s := s.setReq { q with moves := q.moves ++ moves }
  (List.range dst.length).foldl (fun s i =>
    if q.moves.any fun m => m.1 = i then s else s.startPageMove q.slot i (q.pages.getD i (false, 0))) s

/-- Step 5: a pending pause takes its parking pages, or waits (R405). -/
def State.takePauses (s : State) (l n : Nat) : State :=
  s.eachReq l (fun q => q.pauseP && q.st.active) fun s q =>
    let q' := { q with pre := q.st, pauseP := false }
    if q.pages.isEmpty then
      let ttl := if q.ttl = 0 || q.resumeP then none else some (n + q.ttl)
      (s.setReq { q' with st := .paused, ttlAt := ttl }).pauseDone q.slot
    else
      match takePages s.used4 q.pages.length s.pool4 with
      | some ps => ({ s with used4 := addPages s.used4 ps } : State).beginMoves { q' with st := .pausing, own4 := ps } ps
      | none => s.count .kvStall 1

/-- Step 6: a resume takes its T2 pages, or waits; a quiesced tenant's requests are not resumed (R406, R481). -/
def State.takeResumes (s : State) (l : Nat) : State :=
  s.eachReq l (fun q => q.st == .paused && q.resumeP) fun s q =>
    if (s.tenant q.tenant).st != .enabled then s
    else if q.pages.isEmpty then
      (s.setReq { q with st := q.pre, resumeP := false }).finishWhere (fun p => p == .resume q.slot) (ansOk 0 0 0)
    else
      match takePages s.used2 q.pages.length s.pool2 with
      | some ps => ({ s with used2 := addPages s.used2 ps } : State).beginMoves
          { q with st := .resuming, resumeP := false, own2 := ps } ps
      | none => s.count .kvStall 1

/-! Step 7: allotment (R399, R400). -/

/-- The rows that a candidate asks for: first KV position, rows, and whether they repeat a held step; `left` rows are left. -/
def wantRows (q : Req) (chunk left : Nat) : Nat × Nat × Bool :=
  match q.st with
  | .decode => if q.held then (q.lastRows.1, q.lastRows.2, true) else (q.pos - 1, 1 + q.drafts.length, false)
  | _ =>
    if (q.held || q.promptLen ≤ q.done) && q.st == .prefill then (q.lastRows.1, q.lastRows.2, true)
    else (q.done, min (q.promptLen - q.done) (min chunk left), false)

/-- A list entry as the page moves under way will leave it: the manifest is written after them (R404). -/
def Req.entryAfter (q : Req) (i : Nat) : Bool × Nat :=
  let e := q.pages.getD i (false, 0)
  (q.moves.filter fun m => m.1 = i).foldl (fun (e : Bool × Nat) m => (!e.1, m.2)) e

/-- The manifest rows of an allotment (R412). -/
def manifestRows (q : Req) (kv n pagePos : Nat) : List MRow :=
  let dec := q.st == .decode
  (List.range n).map fun j =>
    let pos := kv + j
    let e := q.entryAfter (pos / pagePos)
    { slot := q.slot, tag := q.tag
      token := if dec then (if j = 0 then q.lastTok else q.drafts.getD (j - 1) 0xFFFFFFFF) else 0xFFFFFFFF
      kv := pos, page := BitVec.ofNat 32 (e.2 + (if e.1 then 2 ^ 31 else 0))
      prefill := !dec, head := dec || decide (pos + 1 = q.promptLen), first := decide (j = 0)
      draft := if dec then j else 0, held := q.held, tenant := q.tenant }

/-- Allotment under way: the state, the rows so far, whether it has ended. -/
structure Allot where
  s     : State
  rows  : List MRow
  ended : Bool

/-- A candidate receives no rows. -/
def Allot.skip (a : Allot) (q : Req) (counted : Bool) : Allot :=
  { a with s := (if counted then a.s.count .stepSkipped 1 else a.s).setReq { q with skipped := true } }

/-- One candidate's turn (R400). A step without head rows is held no longer once it is repeated (R421). -/
def allotOne (limit chunk : Nat) (a : Allot) (slot : Nat) : Allot :=
  match a.s.reqAt slot with
  | none => a
  | some q =>
    let s := a.s
    let left := limit - a.rows.length
    if q.st == .queued && (s.err .groupMismatch || (s.tenant q.tenant).st != .enabled) then a.skip q false
    else if a.ended then a.skip q (q.st != .queued)
    else
      let w := wantRows q chunk left
      let need := (w.1 + w.2.1 + s.pagePos - 1) / s.pagePos
      if w.2.1 = 0 || left < w.2.1 then { a.skip q (q.st != .queued) with ended := true }
      else
        match takePages s.used2 (need - q.pages.length) s.pool2 with
        | none => { a.skip q (q.st != .queued) with ended := true }
        | some ps =>
          let st := if q.st == .queued then ReqSt.prefill else q.st
          let q' := { q with
            st := st
            skipped := false
            steps := (q.steps + 1) % 2 ^ 32
            done := if st == .prefill && !w.2.2 then q.done + w.2.1 else q.done
            lastRows := (w.1, w.2.1)
            lastFinal := st == .prefill && decide (q.promptLen ≤ w.1 + w.2.1)
            pages := q.pages ++ ps.map fun p => (false, p)
            own2 := q.own2 ++ ps }
          let still := q'.st == .decode || q'.lastFinal
          let s := ({ s with used2 := addPages s.used2 ps } : State).setReq { q' with held := q.held && still }
          let s := (ps.zipIdx).foldl (fun s x => s.writePageEntry slot (q.pages.length + x.2) (false, x.1)) s
          { s := s, rows := a.rows ++ manifestRows q' w.1 w.2.1 s.pagePos, ended := false }

/-! Step 8: the manifest (R410 to R412). -/

/-- The 32 bytes of a row entry. -/
def MRow.bytes (r : MRow) (pagePos : Nat) : List Byte :=
  leBytes 4 r.tag.toNat ++ leBytes 4 r.token.toNat ++ leBytes 4 r.kv ++ leBytes 4 r.page.toNat ++ leBytes 2 (r.kv % pagePos)
  ++ leBytes 1 (b2n r.prefill + 2 * b2n r.head + 4 * b2n r.first + 8 * r.draft + 64 * b2n r.held) ++ leBytes 1 0
  ++ leBytes 2 r.tenant ++ List.replicate 10 0

/-- Requests with rows. -/
def countFirst (rows : List MRow) : Nat := (rows.filter fun r => r.first).length

/-- Write the manifest of a line for a step; `n` is "now". -/
def State.writeManifest (s : State) (l step n : Nat) (rows : List MRow) : State :=
  let entries := rows.flatMap fun r => r.bytes s.pagePos
  let crc := crc32c entries
  let rest := leBytes 2 rows.length ++ leBytes 2 (countFirst rows) ++ leBytes 2 ((rows.filter (·.head)).length)
    ++ leBytes 2 ((rows.filter (·.prefill)).length) ++ leBytes 1 l ++ leBytes 3 0 ++ leBytes 8 n ++ leBytes 4 crc.toNat
    ++ List.replicate 36 0
  let s := s.updLine l fun x => { x with step := step, manTick := n, rows := rows, boundary := false, started := true }
  let before := (s.writeIds fun w => w == .backwardList || w == .pageList) ++ s.manifestMoves l
  let s := s.writeList (.manifest l) (s.addr64 (0x20D8 + 8 * l) + step % 2 * 0x41000) step rest entries before
  { s with digest := { s.digest with sec7 := s.digest.sec7 ++ leBytes 4 crc.toNat ++ leBytes 4 step ++ leBytes 2 rows.length } }

/-! The yard split (R159). -/

/-- The prefill train count of the next step. -/
def State.nextPrefill (s : State) (l : Nat) (rows : List MRow) (p d : Nat) : Nat :=
  let cfg := s.yardCfg.getD l 0
  let u := s.usable.length
  let prev := (s.line l).prefillN
  let minD := min u (fld cfg 8 8)
  let minP := min (u - minD) (min u (fld cfg 0 8))
  if fld cfg 31 1 = 1 then min u (fld cfg 24 6)
  else if !rows.any (·.prefill) then 0
  else if rows.all (·.prefill) then u
  else if p + d = 0 then prev
  else
    let t := clampN minP (u - minD) ((2 * u * p + (p + d)) / (2 * (p + d)))
    if prev = 0 || prev = u then t
    else
      let m := fld cfg 16 8
      if prev < t then min t (prev + m) else max t (prev - m)

/-! The boundary. -/

/-- The beats of the line's HEAD tick up to its boundary, which its step takes in (R14, R159). -/
def State.headBeats (s : State) (l : Nat) (prefill : Bool) : Nat :=
  if s.tick.active && s.curHdr.kind = 2 && s.curHdr.line = l then s.yardBeats prefill else 0

/-- The latencies measured over a step that has ended (R275), which the manual does not fix. -/
def State.measure (s : State) : State :=
  { s with
    free := s.free + 4
    last := { s.last with measLat := (List.range 4).map fun k => (Config.freeWord (s.free + k)).toNat % 65536 } }

/-- The boundary of line l; `n` is "now" and `first` marks the boundary of the first ENABLE (R613). -/
def State.boundary (s : State) (l n : Nat) (first : Bool) (hdrs : List (Word × DescBytes)) : State :=
  let s := if first then s else s.formBackward l n
  let s := ((s.leaveAll l n).retryFinals hdrs).raiseTokens
  let s := (((s.enterPaused l n).leaveResuming l).drainTenants.takePauses l n).takeResumes l
  let s := { s with
    manCfg := setAt s.manCfg l (s.reg (0x20D0 + 4 * l))
    yardCfg := setAt s.yardCfg l (s.reg 0x2060)
    exitCfg := setAt s.exitCfg l ((List.range 8).flatMap fun p => [s.reg (0x2080 + 8 * p), s.reg (0x2084 + 8 * p)])
    tableCfg := s.reg 0x40A0
    reqs := s.reqs.map fun (q : Req) => if q.line = l then { q with exitAt := none } else q }
  let s := s.errIf (s.exitBad l (n + 1)) .exitCfg
  let cfg := s.manCfg.getD l 0
  let a := (s.candidates_ l fun q => q.st.active).foldl (allotOne (fld cfg 0 14) (fld cfg 16 14)) ⟨s, [], false⟩
  let x := s.line l
  let busyP := x.busyP + s.headBeats l true
  let busyD := x.busyD + s.headBeats l false
  let count := a.s.nextPrefill l a.rows busyP busyD
  let s := a.s.writeManifest l (if first then 0 else (x.step + 1) % 2 ^ 32) n a.rows
  let s := s.updLine l fun y => { y with
    prefillN := count, busyP := 0, busyD := 0
    lastP := if first then y.lastP else busyP, lastD := if first then y.lastD else busyD, stepped := y.stepped || !first }
  let s := s.updTick fun t => { t with undo := t.undo.filter fun q => q.line != l }
  let s := if first then s else s.measure.decisionPoint l n
  s.selectCache

/-- Nothing of the HEAD tick stands before the boundary's work: it is over, or its head stop has ended, was skipped or is not
named (R397). -/
def State.boundaryReady (s : State) (l : Nat) : Bool :=
  let x := s.line l
  let h := s.curHdr
  x.boundary && (!s.tick.active || decide (x.headTick < s.tick.count) || h.line != l || !h.has 0 || s.skippedStop 0
    || (match s.stopAt 0 with | some y => y.ended | none => false))

/-- STEP_BOUNDARY, with the headers of the rings that queued final records name (R382, R409). -/
def execStepBoundary (line : Nat) (hdrs : List (Word × DescBytes)) (s : State) : Host.Outcome State Fault Refusal :=
  let s := s.begin
  .next (if s.live && decide (line < 2) && s.boundaryReady line then
    (s.boundary line (s.line line).headTick false hdrs).beginBuild.proceed false false
  else s)

end Sys2Proof.Machine
end

