-- ==== Sys2Proof/Machine/Logbook.lean ====
section
/-! DEFINITION. The logbook (R575 to R581): its record, saves and the restore. -/
namespace Sys2Proof.Machine
open Sys2Proof

/-- IX_ID.CONFIG (R6). -/
def Build.config : Build → Nat
  | .ix128 => 1 | .ix256 => 2 | .ix512 => 3

/-- Bytes 64 to 2,047 of a logbook record (R578). -/
def Logbook.body (g : Logbook) : List Byte :=
  padTo 1984 (g.cnt.toList.flatMap (fun c => leBytes 8 c.toNat)
    ++ g.hist.flatMap (fun h => h.toList.flatMap fun c => leBytes 8 c.toNat)
    ++ leBytes 2 (BitVec.ofInt 16 g.tjMax).toNat ++ leBytes 2 g.vixMin ++ leBytes 2 g.vixMax ++ leBytes 2 g.procMin
    ++ leBytes 2 g.procMax)

/-- Bytes 0 to 63 of a logbook record. -/
def State.logHead (s : State) (reason : Nat) : List Byte :=
  leBytes 4 0x4C375849 ++ leBytes 1 1 ++ leBytes 1 s.build.config ++ leBytes 2 0 ++ leBytes 8 s.log.saves
  ++ leBytes 8 s.tick.count ++ leBytes 4 (crc32c s.log.body).toNat ++ leBytes 1 reason ++ List.replicate 35 0

/-- A logbook record (R578). -/
def State.logRecord (s : State) (reason : Nat) : List Byte := s.logHead reason ++ s.log.body

/-- LOG_BASE. -/
def State.logBase (s : State) : Nat := s.addr64 0x7000

/-- IX7 saves: LOG_BASE is set and the first restore attempt has ended (R579). -/
def State.maySave (s : State) : Bool := s.logBase != 0 && (s.log.restore = 1 || s.log.restore = 2)

/-- A save (R579), with the host writes that it waits for; none when IX7 saves nothing. -/
def State.logSave (s : State) (reason : Nat) : State × List Nat :=
  if !s.maySave then (s, []) else
  let s := { s with log := { s.log with saves := s.log.saves + 1 } }
  let at_ := s.logBase + 2048 * (s.log.saves % 2)
  let before := s.writeIds fun w => w == .logbook
  let id0 := s.nextId
  let head := s.logHead reason
  let s := s.addWrite .logbook (at_ + 64) s.log.body before
  let body := s.writes.filterMap fun w => if decide (id0 ≤ w.id) then some w.id else none
  let s := s.addWrite .logbook at_ head (body ++ before)
  let ids := s.writes.filterMap fun w => if decide (id0 ≤ w.id) then some w.id else none
  (({ s with log := { s.log with busy := s.log.busy ++ ids } } : State).count .logSave 1, ids)

/-- A half of the logbook area holds a record of this configuration (R580). -/
def State.halfOk (s : State) (h : List Byte) : Bool :=
  bytesAt h 0 4 = 0x4C375849 && bytesAt h 4 1 = 1 && bytesAt h 5 1 % 16 = s.build.config
  && decide (h.length = 2048) && crc32c (h.drop 64) == BitVec.ofNat 32 (bytesAt h 24 4)

/-- SAVES of a record. -/
def halfSaves (h : List Byte) : Nat := bytesAt h 8 8

/-- The half that a restore takes: the greater SAVES among the valid ones. -/
def State.bestHalf (s : State) (a b : List Byte) : Option (List Byte) :=
  match s.halfOk a, s.halfOk b with
  | true, true => if halfSaves a < halfSaves b then some b else some a
  | true, false => some a
  | false, true => some b
  | false, false => none

/-- Add a record to the logbook (R580). -/
def Logbook.merge (g : Logbook) (h : List Byte) : Logbook :=
  let add (n : Nat) (v : Vector DWord n) (off : Nat) : Vector DWord n :=
    v.zipIdx.map fun x => satAdd64 x.1 (bytesAt h (off + 8 * x.2) 8)
  let tj := (BitVec.ofNat 16 (bytesAt h 1856 2)).toInt
  { g with
    cnt := add 64 g.cnt 64
    hist := g.hist.zipIdx.map fun x => add 32 x.1 (576 + 256 * x.2)
    saves := halfSaves h
    tjMax := max g.tjMax tj
    vixMin := min g.vixMin (bytesAt h 1858 2), vixMax := max g.vixMax (bytesAt h 1860 2)
    procMin := min g.procMin (bytesAt h 1862 2), procMax := max g.procMax (bytesAt h 1864 2) }

/-- LOG_SAVE: LOG_CTL.SAVE written 1. -/
def execLogSave (s : State) : Host.Outcome State Fault Refusal :=
  let s := s.begin
  .next (if s.live then (s.logSave 0).1 else s)

/-- LOG_RESTORE: LOG_CTL.RESTORE written 1, with both halves as read. -/
def execLogRestore (half0 half1 : List Byte) (s : State) : Host.Outcome State Fault Refusal :=
  let s := s.begin
  .next (if !s.live || s.engine != .quiesced || s.fw.1 ≠ 3 || s.logBase = 0 || s.log.restore ≠ 0 then s else
    match s.bestHalf half0 half1 with
    | some h => { s with log := { s.log.merge h with restore := 1 } }
    | none => { s with log := { s.log with restore := 2 } })

end Sys2Proof.Machine
end

