-- ==== Sys2Proof/Machine/Control.lean ====
section
/-! DEFINITION. NOP, negotiation (R478), the scopes with ENABLE, QUIESCE and their drains (R480 to R482, R521), the first enable
(R613), the acknowledgement of host writes (R527) and the completion hold-off (R485). -/
namespace Sys2Proof.Machine
open Sys2Proof

/-- NOP. -/
def execNop (s : State) : Host.Outcome State Fault Refusal :=
  .next (s.begin.withDesc (fun b => opcodeOf b = 0x00) fun s tk => s.answer tk (ansOk 0 0 0))

/-! Negotiation. -/

/-- The highest version set in both masks; 0 when there is none. -/
def commonVersion (a b : Nat) : Nat :=
  (List.range 16).foldl (fun m v => if a / 2 ^ v % 2 = 1 && b / 2 ^ v % 2 = 1 then v else m) 0

/-- The masks of IX7: descriptor, ring record, port, timetable (R487). -/
def ownMasks : List Nat := [0x000E, 0x0004, 0x0004, 0x0004]
/-- NEG_CAPS0. -/
def negCaps0 : Nat := 0x000E0004
/-- NEG_CAPS1. -/
def negCaps1 : Nat := 0x00040004

/-- NEG_STATUS. -/
def negWord (v : List Nat) : Nat := v.getD 0 0 + 2 ^ 8 * v.getD 1 0 + 2 ^ 16 * v.getD 2 0 + 2 ^ 24 * v.getD 3 0

/-- NEGOTIATE at its read (R478). -/
def State.negotiate (s : State) (tk : Taken) : State :=
  if tk.ring ≠ 0 || s.engine != .quiesced then s.answer tk (ans 0x40 0x80) else
  let theirs := (List.range 4).map fun i => dF tk.bytes (8 + 2 * i) 0 16
  let both := (ownMasks.zip theirs).map fun x => commonVersion x.1 x.2
  let none_ := (both.zipIdx.filter fun x => x.1 = 0).foldl (fun a x => a + 2 ^ x.2) 0
  if none_ ≠ 0 then s.answer tk ⟨0x40, none_, 0, negCaps0, negCaps1⟩
  else ({ s with negot := both } : State).answer tk (ansOk (negWord both) negCaps0 negCaps1)

/-- NEGOTIATE. -/
def execNegotiate (s : State) : Host.Outcome State Fault Refusal :=
  .next (s.begin.withDesc (fun b => opcodeOf b = 0x01) State.negotiate)

/-! Scopes. -/

/-- State of a scope; none for a target that completes BAD_HANDLE (R480). -/
def State.scopeSt (s : State) : ScopeId → Option Scope
  | .engine => some s.engine
  | .ring k => if 1 ≤ k ∧ k ≤ 7 then some (s.ring k).st else none
  | .tenant t => some (s.tenant t).st
  | .train t => if t < s.build.trains then some (s.trainSt t) else none

/-- Set the state of a scope; a ring's status line shows it (R452). -/
def State.setScope (s : State) (i : ScopeId) (st : Scope) : State :=
  match i with
  | .engine => { s with engine := st }
  | .ring k =>
    let s := s.setRing k { s.ring k with st := st }
    if s.ringValid k then s.statusLine k else s
  | .tenant t => s.setTenant { s.tenant t with st := st }
  | .train t => { s with trains := setAt s.trains t (st, (s.trains.getD t (.enabled, 0)).2) }

/-- R521 refuses an ENABLE of the engine. -/
def State.engineRefused (s : State) : Bool :=
  (decide (1 < s.groupSize) && s.xch.st != 2) || (List.range 4).any fun c => (s.link c).st != .up

/-- Every line starts anew with an EMBED tick, and no backward set survives (R482). The busy beats of its closed ticks stand, and those of a
repeated attempt add to them (assumption log 78). -/
def LineSt.resume (l : LineSt) : LineSt := { l with last := none, back := [], layerAt := [] }

/-- The engine becomes ENABLED: the digest starts afresh (R420), discarded row updates complete (R349), and after RST_N each line
has its first boundary (R613). -/
def State.startEngine (s : State) (hdrs : List (Word × DescBytes)) : State :=
  let s := { s with
    engine := .enabled
    lines := s.lines.map LineSt.resume
    digest := { s.digest with fresh := true, sec1Done := [], sec4 := [], sec7 := [], results := none } }
  let gone := s.taken.filter fun t => t.pend == .rowsDiscarded
  let s := gone.foldl (fun (s : State) t => s.finishRows t (ans 0x30 0)) s
  if (s.line 0).started then s
  else (s.boundary 0 s.tick.count true hdrs).boundary 1 s.tick.count true hdrs

/-- An ENABLE takes effect on a QUIESCED scope. -/
def State.applyEnable (s : State) (i : ScopeId) (hdrs : List (Word × DescBytes)) : State :=
  match i with
  | .engine => s.startEngine hdrs
  | _ => s.setScope i .enabled

/-- A QUIESCE takes effect on an ENABLED scope (R481). -/
def State.applyQuiesce (s : State) (i : ScopeId) (n : Nat) : State :=
  let s := s.setScope i .quiescing
  match i with
  | .engine =>
    let s := { s with quiesceAt := s.now }
    if s.awaitsAck then s
    else if s.tick.active then
      { s.updTick fun t => { t with next := none, build := if t.build = 1 then 0 else t.build, buildFor := none } with inputs := none }
    else s.enterIdle
  | .train t => { s with trains := setAt s.trains t (.quiescing, n) }
  | _ => s

/-- ENABLE at its read (R480). -/
def State.enableReq (hdrs : List (Word × DescBytes)) (s : State) (tk : Taken) : State :=
  let i := scopeIdOf tk.bytes
  match s.scopeSt i with
  | none => s.answer tk (ans 0x13 0)
  | some .enabled => s.answer tk (ansOk 0 0 0)
  | some .quiescing => (s.setScope i .held).park tk (.enable i)
  | some .held => s.answer tk (ans 0x17 0)
  | some .quiesced =>
    if i = .engine && s.engineRefused then s.answer tk (ans 0x13 0)
    else (s.applyEnable i hdrs).answer tk (ansOk 0 0 0)

/-- QUIESCE at its read (R480). -/
def State.quiesceReq (s : State) (tk : Taken) : State :=
  let i := scopeIdOf tk.bytes
  match s.scopeSt i with
  | none => s.answer tk (ans 0x13 0)
  | some .enabled => (s.park tk (.quiesce i)).applyQuiesce i tk.readTick
  | some .quiesced => s.answer tk (ansOk 0 0 0)
  | some _ => s.answer tk (ans 0x17 0)

/-! Drains (R310, R350, R448, R481). -/

/-- No write-back is owed or under way. -/
def State.allLanded (s : State) : Bool :=
  s.dirtyWagons.isEmpty && !s.reads.any fun (x : FmRead) => match x.kind with | .writeBack a => !s.poisonedAt a | _ => false

/-- A frame holds a wagon, or part of a state block. -/
def State.frameHolds (s : State) (f : Frame) (a : Nat) : Bool :=
  f.addr = a || ((s.runOf a).isNone && (s.runOf f.addr).isNone && slotOf f.addr = slotOf a)

/-- Every write-back from a train's platforms has landed; one of a wagon that no frame holds may be of any train. -/
def State.trainLanded (s : State) (t : Nat) : Bool :=
  ((s.dirtyAddrs ++ s.tierOld.map (·.addr)).filter (fun a => !s.poisonedAt a) ++ s.reads.filterMap fun (x : FmRead) => match x.kind with
    | .writeBack a => if s.poisonedAt a then none else some a
    | _ => none).all fun a =>
  (s.frames.any fun f => s.frameHolds f a) && !(s.frames.any fun f => f.train = t && s.frameHolds f a)

/-- The engine's drain condition. -/
def State.engineDrained (s : State) : Bool :=
  !s.tick.active && s.tick.edge == .none && !(s.lines.toList.any fun l => l.boundary) && s.allLanded
  && !(s.tmap.any fun r => r.due && !s.poisonedAt r.addr)
  && s.rowDescs.isEmpty
  && !(s.reads.any fun (x : FmRead) => match x.kind with | .pageMove _ _ => true | _ => false)
  && !(s.dirs.any fun d => d.st == .loading || d.st == .staging)

/-- The drain condition of a scope; a tenant's is checked at boundaries (R481). -/
def State.drainMet (s : State) : ScopeId → Bool
  | .engine => s.engineDrained
  | .ring k => s.taken.all fun t => t.ring != k || t.pend == .quiesce (.ring k) || t.pend == .enable (.ring k)
  | .tenant _ => false
  | .train t =>
    let n := (s.trains.getD t (.enabled, 0)).2
    (s.tick.idle || decide (n < s.tick.count) || (decide (n = s.tick.count) && !s.tick.active)) && s.trainLanded t

/-- A scope's drain is over: the QUIESCE completes OK, then a held ENABLE applies, or R521 refuses it; it is not the engine's first
ENABLE after RST_N, so it has no boundary of R613. -/
def State.finishDrain (s : State) (i : ScopeId) : State :=
  let held := s.scopeSt i == some Scope.held
  let s := s.setScope i .quiesced
  let s := s.finishWhere (fun p => p == .quiesce i || (i == .engine && p == .quiesceSave)) (ansOk 0 0 0)
  if !held then s
  else if i = .engine && s.engineRefused then s.finishWhere (fun p => p == .enable i) (ans 0x13 0)
  else (s.applyEnable i []).finishWhere (fun p => p == .enable i) (ansOk 0 0 0)

/-- The engine's drain waits for the logbook's save (R579). -/
def State.drainEngine (s : State) : State :=
  let r := s.logSave 2
  if r.2.isEmpty then s.finishDrain .engine
  else
    let go (t : Taken) : Taken := if t.pend == .quiesce .engine then { t with pend := .quiesceSave } else t
    { r.1 with taken := r.1.taken.map go }

/-- A quiesce whose save has been acknowledged completes. -/
def State.saveDone (s : State) : State :=
  if s.log.busy.isEmpty && s.taken.any fun t => t.pend == .quiesceSave then s.finishDrain .engine else s

/-- QUIESCE_DRAIN_DONE. -/
def execQuiesceDrainDone (scope : ScopeId) (s : State) : Host.Outcome State Fault Refusal :=
  let s := s.begin
  .next (if !s.live then s else
    let s := s.settle
    match s.scopeSt scope with
    | some .quiescing | some .held =>
      if !s.drainMet scope then s
      else if scope = .engine then
        (if s.taken.any fun t => t.pend == .quiesce .engine then s.drainEngine else s)
      else s.finishDrain scope
    | _ => s)

/-- ENABLE and QUIESCE name a scope. -/
def scopeForm (op sc : Nat) (b : DescBytes) : Bool := opcodeOf b = op && scopeOf b = sc

/-- ENABLE, engine, with the headers of the rings that final records of its boundaries name (R382, R409, R613). -/
def execEnableEngine (hdrs : List (Word × DescBytes)) (s : State) : Host.Outcome State Fault Refusal :=
  .next (s.begin.withDesc (scopeForm 2 0) (State.enableReq hdrs))
/-- ENABLE, ring. -/
def execEnableRing (s : State) : Host.Outcome State Fault Refusal := .next (s.begin.withDesc (scopeForm 2 1) (State.enableReq []))
/-- ENABLE, tenant. -/
def execEnableTenant (s : State) : Host.Outcome State Fault Refusal := .next (s.begin.withDesc (scopeForm 2 2) (State.enableReq []))
/-- ENABLE, train. -/
def execEnableTrain (s : State) : Host.Outcome State Fault Refusal := .next (s.begin.withDesc (scopeForm 2 3) (State.enableReq []))
/-- QUIESCE, engine. -/
def execQuiesceEngine (s : State) : Host.Outcome State Fault Refusal := .next (s.begin.withDesc (scopeForm 3 0) State.quiesceReq)
/-- QUIESCE, ring. -/
def execQuiesceRing (s : State) : Host.Outcome State Fault Refusal := .next (s.begin.withDesc (scopeForm 3 1) State.quiesceReq)
/-- QUIESCE, tenant. -/
def execQuiesceTenant (s : State) : Host.Outcome State Fault Refusal := .next (s.begin.withDesc (scopeForm 3 2) State.quiesceReq)
/-- QUIESCE, train. -/
def execQuiesceTrain (s : State) : Host.Outcome State Fault Refusal := .next (s.begin.withDesc (scopeForm 3 3) State.quiesceReq)

/-- FM_WRITE_ACK at time `t`: identifiers and ERR (R527, R529, R531); a save that is acknowledged ends a quiesce (R579). -/
def execFmWriteAck (t : Nat) (entries : List (Nat × Bool)) (s : State) : Host.Outcome State Fault Refusal :=
  let s := s.begin
  .next (if !s.live then s else
    let port := (entries.head?.bind fun e => (s.writes.find? fun w => w.id = e.1).map (·.port)).getD 16
    let s := (s.advance t).takeRx port fun f => tagKind f.tag = 0x36
    (entries.foldl (fun s e =>
      if s.writes.any fun w => w.id = e.1 && w.issued then (if e.2 then s.failWrite e.1 else s.writeDone e.1) else s) s).saveDone.resumeTraffic)

/-- COMPL_HOLDOFF_EXPIRY: the deferred completion interrupt is raised (R485). -/
def execComplHoldoffExpiry (s : State) : Host.Outcome State Fault Refusal :=
  let s := s.begin
  .next (if s.live && s.complDue then
    match s.complAt with
    | some t => ({ s.advance (t + s.rf 0x5018 0 16 * 1300) with complDue := false } : State).raiseCompl
    | none => ({ s with complDue := false } : State).raiseCompl
  else s)

end Sys2Proof.Machine
end

