-- ==== Sys2Proof/Machine/Status.lean ====
section
/-! DEFINITION. What a read of a CFG register returns (R494, R587 to R590 and the register table of each chapter). The two reads
that change state, of RC fields and of TICK_COUNT_LO, are in Machine/CfgPort.lean. -/
namespace Sys2Proof.Machine
open Sys2Proof

/-- A value held at a field's greatest. -/
def sat (bits v : Nat) : Nat := min (2 ^ bits - 1) v

/-- The code of a link state (R549). -/
def LinkSt.code : LinkSt → Nat
  | .down => 0 | .init => 1 | .up => 2 | .fatal => 3

/-- The code of a halt cause (R582). -/
def HaltCause.code : HaltCause → Nat
  | .thermal => 1 | .supply => 2 | .internal => 3

/-- PWR_STAT[7:0] (R569). -/
def State.pwrStat (s : State) : Nat :=
  let p := s.power
  let allow := match s.tick.cur with | some t => t.allow | none => p.usable
  b2n p.throttle + 2 * b2n (decide (p.duty < 64) || decide (allow < p.usable)) + 4 * b2n p.droop + 8 * b2n p.warn
  + 16 * b2n p.tthrot + 32 * b2n p.halted.isSome + 64 * b2n p.clamped + 128 * b2n s.tick.idle

/-- CLUSTER_DISABLEk (R573, R586). -/
def State.clusterDisable (s : State) (k : Nat) : Word :=
  BitVec.ofNat 32 ((List.range 32).foldl (fun a b => if s.clusterOn (32 * k + b) then a else a + 2 ^ b) 0)

/-- Car c of train t is enabled. -/
def State.carOn (s : State) (t c : Nat) : Bool := s.clusterOn (16 * t + c)

/-- Runs decided for a move or conversion and not yet remapped on the block. -/
def State.runsPending (s : State) (p : TRun → Bool) : Nat := (s.tmap.filter fun r => p r && r.due).length

/-- Wagons with DIRTY set. -/
def State.dirtyCount (s : State) (p : TRun → Bool) : Nat :=
  s.tmap.foldl (fun a r => if p r then a + ((List.range 16).filter fun i => r.dirty.getLsbD i).length else a) 0

/-- YARD_STATUS.ADVICE (R162). -/
def State.advice (s : State) : Nat :=
  let ls := s.lines.toList.filter (·.stepped)
  let p := ls.foldl (fun a l => a + l.lastP) 0
  let d := ls.foldl (fun a l => a + l.lastD) 0
  min 255 (256 * p / (p + d))

/-- TICK_STATUS. -/
def State.tickStatus (s : State) : Word :=
  let h := s.curHdr
  packWord [(23, 1, b2n s.standing), (22, 1, b2n s.tick.idle), (21, 1, b2n s.awaitsAck), (20, 1, b2n s.tick.late),
    (18, 2, s.openStops), (16, 2, s.tick.build), (6, 10, h.layer), (4, 2, h.kind), (3, 1, h.line), (0, 1, b2n s.tick.execBuf)]

/-- Port code c of R505 names a link of the configuration. -/
def State.portStatus (s : State) (c : Nat) : Word :=
  if !s.hasPort c then 0 else
  let l := s.link c
  packWord [(30, 2, l.st.code), (16, 8, sat 8 l.failMax), (0, 16, sat 16 l.resends)]

/-! Per-train status (R590). -/

/-- ROLE of a train in the executing timetable. -/
def State.trainRole (s : State) (t : Nat) : Nat :=
  match s.tick.cur with
  | none => 0
  | some tt =>
    if !s.trainUsable t then 3
    else if tt.idle.contains t then 2
    else b2n (inPrefill s.build.trains tt.idle tt.prefillN t)

/-- TRAIN_STATUS. -/
def State.trainStatus (s : State) (t : Nat) : Word :=
  let on := (List.range 16).filter (s.carOn t)
  packWord [(30, 2, (s.trainSt t).code), (28, 2, s.trainRole t), (16, 5, on.length),
    (0, 16, (List.range 16).foldl (fun a c => if s.carOn t c then a else a + 2 ^ c) 0)]

/-- The segment-table entry that a car works on: that of its train's slot, while the tick runs and the car is enabled (R59). -/
def State.carEntry (s : State) (t c : Nat) : Option Nat :=
  if s.carOn t c && s.tick.active then slotEntry (s.tick.run.slots.getD t 0) c else none

/-- CAR_STATUSc. -/
def State.carStatus (s : State) (t c : Nat) : Word :=
  packWord [(31, 1, b2n (s.carOn t c)), (12, 12, (s.carEntry t c).getD 0xFFF),
    (0, 9, sat 9 (s.frames.filter fun f => f.train = t && f.car = c).length)]

/-- Frames of a train whose wagons await write-back. -/
def State.trainDirty (s : State) (t : Nat) : Nat :=
  let dirty := s.dirtyAddrs
  (s.frames.filter fun f => f.train = t && dirty.contains f.addr).length

/-- A register of train t at offset `o` of its space. -/
def State.trainReg (s : State) (t o : Nat) : Word :=
  if s.build.trains ≤ t then 0
  else if o = 0x000 then s.trainStatus t
  else if o = 0x004 then BitVec.ofNat 32 (sat 32 (s.last.trainBusy.getD t 0))
  else if o = 0x008 then BitVec.ofNat 32 (s.tick.run.slots.getD t 0)
  else if o = 0x00C then packWord [(16, 16, s.last.trainFrames.getD t 0), (0, 16, sat 16 (s.trainDirty t))]
  else if o = 0x010 then
    let e := s.trainErr.getD t (0, 0)
    packWord [(16, 16, sat 16 e.1), (0, 16, sat 16 e.2)]
  else if 0x040 ≤ o ∧ o < 0x080 ∧ o % 4 = 0 then s.carStatus t ((o - 0x040) / 4)
  else 0

/-! The register map (R587). -/

/-- The readback data area (R591). -/
def Readback.word (b : Readback) (w : Nat) : Word := if b.st = 2 then BitVec.ofNat 32 (bytesAt b.bytes (4 * w) 4) else 0

/-- Ring registers that are not stored. -/
def State.ringStatus (s : State) (k : Nat) : Word :=
  let r := s.ring k
  packWord [(30, 2, r.st.code), (0, 16, sat 16 r.cqResv)]

/-- Registers below 0x2000 that are not stored; PUBKEY_DATA shows word WORD mod 8 of the key (assumption log 84). -/
def State.lowReg (s : State) (off : Nat) : Word :=
  if off = 0x0000 then s.ixId
  else if off = 0x0100 then
    packWord [(31, 1, b2n (s.build == .ix512)), (25, 6, s.build.trains), (20, 5, s.build.fmPorts), (10, 10, s.enabledClusters),
      (6, 4, s.build.trains / 4)]
  else if 0x0140 ≤ off ∧ off < 0x0180 ∧ off % 4 = 0 then s.clusterDisable ((off - 0x0140) / 4)
  else if off = 0x0184 then (s.keys.getD (s.rf 0x0180 0 4) []).getD (s.rf 0x0180 4 3) 0
  else if off = 0x01D0 then
    packWord [(28, 4, s.fw.1), (27, 1, b2n s.reserve), (8, 8, s.fw.2.1), (0, 8, s.fw.2.2)]
  else if off = 0x0400 then BitVec.ofNat 32 (negWord s.negot)
  else if off = 0x0404 then BitVec.ofNat 32 negCaps0
  else if off = 0x0408 then BitVec.ofNat 32 negCaps1
  else if off = 0x1010 then packWord [(30, 2, s.engine.code)]
  else match ringOff off with
    | some (k, 0x14) => s.ringStatus k
    | _ => s.reg off

/-- Registers from 0x2000 to 0x2FFF. -/
def State.tickReg (s : State) (off : Nat) : Word :=
  let l := s.last
  let two (hi lo : Nat) : Word := packWord [(16, 16, sat 16 hi), (0, 16, sat 16 lo)]
  if off = 0x2010 then BitVec.ofNat 32 s.tick.count
  else if off = 0x2014 then s.tick.latchHi
  else if off = 0x2018 then s.tickStatus
  else if off = 0x201C then BitVec.ofNat 32 (sat 32 (match s.budgetCycles with | some c => c * 10 / 13 | none => 0))
  else if off = 0x2024 then packWord [(30, 2, s.xch.st), (27, 3, s.xch.joinErr), (0, 16, sat 16 l.redLat)]
  else if off = 0x2064 then
    packWord [(24, 8, s.advice), (18, 6, s.usable.length), (12, 6, (s.line 1).prefillN), (6, 6, (s.line 0).prefillN)]
  else if off = 0x2068 then packWord [(12, 6, l.removed), (0, 12, l.passes)]
  else if off = 0x206C then two l.sided l.dropped
  else if off = 0x20C8 then two l.tokens l.heldReq
  else if off = 0x20CC then two l.accepted l.verified
  else if off = 0x20E8 then
    packWord [(16, 13, s.reqs.length), (0, 13, (s.reqs.filter fun r => r.st == .queued).length)]
  else if off = 0x20F0 then packWord [(0, 8, s.digest.sections)]
  else if off = 0x20F4 then s.digest.tickLo
  else if off = 0x2118 then two l.steps l.abandoned
  else s.reg off

/-- Registers from 0x3000 to 0x3FFF (R582). -/
def State.powerReg (s : State) (off : Nat) : Word :=
  let p := s.power
  if off = 0x3004 then packWord [(30, 2, match p.halted with | some c => c.code | none => 0), (0, 8, s.pwrStat)]
  else if off = 0x300C then
    packWord [(24, 6, match s.tick.cur with | some t => t.allow | none => 0), (0, 7, p.duty)]
  else if off = 0x3010 then packWord [(16, 16, sat 16 (p.meanTick / 250)), (0, 16, sat 16 (p.pEst / 250))]
  else if off = 0x3014 then packWord [(16, 10, p.pTherm), (0, 10, p.cEff)]
  else s.reg off

/-- Rows in WRITING or WRITTEN: the head of a row's queue, but for a row whose flip has not settled (R343). -/
def State.rowsWriting (s : State) : Nat :=
  ((s.rowUps.map fun (u : RowUp) => (u.slot, u.row)).eraseDups.filter fun x => !s.flips.contains x).length

/-- Hot rows of the current selection: rows of tables that are not replicated whole (R337). -/
def State.hotRows (s : State) : Nat :=
  (s.cache.filter fun e => e.row.isSome && !s.cache.any fun x => x.handle = e.handle && x.row.isNone).length

/-- Registers from 0x4000 to 0x4FFF. -/
def State.spaceReg (s : State) (off : Nat) : Word :=
  let l := s.last
  let two (hi lo : Nat) : Word := packWord [(16, 16, sat 16 hi), (0, 16, sat 16 lo)]
  if off = 0x4014 then BitVec.ofNat 32 s.tierCap1
  else if 0x4050 ≤ off ∧ off < 0x4060 ∧ off % 4 = 0 then two (l.measLat.getD ((off - 0x4050) / 4) 0) (s.rf off 0 16)
  else if 0x4060 ≤ off ∧ off < 0x4070 ∧ off % 4 = 0 then BitVec.ofNat 32 (s.usedRuns ((off - 0x4060) / 4 + 1))
  else if off = 0x4070 then BitVec.ofNat 32 s.tmapUsed
  else if off = 0x4098 then two (s.runsPending fun _ => true) (s.dirtyCount fun _ => true)
  else if off = 0x409C then packWord [(16, 16, l.minFrames), (8, 2, l.depth)]
  else if off = 0x40AC then two l.distinct l.invalid
  else if off = 0x40B0 then two l.maxBlk l.meanBlk
  else if off = 0x40B4 then
    packWord [(24, 8, sat 8 (s.cache.filter fun e => e.row.isNone).length),
      (8, 16, sat 16 s.hotRows)]
  else if off = 0x40B8 then
    two s.rowDescs.length s.rowsWriting
  else if off = 0x40E4 then packWord [(0, 24, s.pool2 - s.used2.length)]
  else if off = 0x40E8 then packWord [(0, 24, s.pool4 - s.used4.length)]
  else s.reg off

/-- Registers from 0x5000 to 0x7FFF. -/
def State.errReg (s : State) (off : Nat) : Word :=
  let p := s.power
  if off = 0x5000 then s.errs.zeroExtend 32
  else if off = 0x5008 then packWord [(31, 1, b2n s.errFirst.isSome), (0, 5, s.errFirst.getD 0)]
  else if off = 0x500C then s.errTick
  else if off = 0x5014 then s.irqPend.zeroExtend 32
  else if 0x5040 ≤ off ∧ off < 0x50C0 ∧ off % 4 = 0 then s.portStatus ((off - 0x5040) / 4)
  else if off = 0x6000 then packWord [(16, 4, p.site), (0, 16, (BitVec.ofInt 16 p.tj).toNat)]
  else if off = 0x6004 then packWord [(0, 16, (BitVec.ofInt 16 p.tjPeak).toNat)]
  else if off = 0x6008 then packWord [(16, 16, p.vddDep), (0, 16, p.vddIx)]
  else if off = 0x600C then packWord [(16, 16, p.vixLow), (0, 16, p.vddIo)]
  else if off = 0x6010 then packWord [(16, 16, p.procMin), (0, 16, p.procMean)]
  else if off = 0x700C then
    packWord [(30, 2, s.log.restore), (29, 1, b2n (!s.log.busy.isEmpty)), (0, 16, s.log.saves)]
  else s.reg off

/-- Registers from 0x8000 on (R590, R591). -/
def State.highReg (s : State) (off : Nat) : Word :=
  let b := s.rb
  if off = 0x8014 then
    packWord [(29, 3, b.st), (25, 4, b.cause), (24, 1, b2n b.unmapped), (23, 1, b2n b.parity), (0, 15, if b.st = 2 then b.bytes.length else 0)]
  else if off = 0x8018 then BitVec.ofNat 32 b.tick
  else if off = 0x801C then BitVec.ofNat 32 (b.tick / 2 ^ 32)
  else if 0x9000 ≤ off ∧ off < 0xD000 ∧ off % 4 = 0 then b.word ((off - 0x9000) / 4)
  else if 0x10000 ≤ off ∧ off < 0x20000 then s.trainReg ((off - 0x10000) / 0x800) (off % 0x800)
  else s.reg off

/-- The word at a CFG offset as a read returns it; 0 while CFG is not ready, and at an offset with no register (R494, R495). -/
def State.readReg (s : State) (off : Nat) : Word :=
  if !s.cfgReady then 0
  else if off < 0x2000 then s.lowReg off
  else if off < 0x3000 then s.tickReg off
  else if off < 0x4000 then s.powerReg off
  else if off < 0x5000 then s.spaceReg off
  else if off < 0x8000 then s.errReg off
  else s.highReg off

end Sys2Proof.Machine
end

