-- ==== Sys2Proof/Machine/Readback.lean ====
section
/-! DEFINITION. The readback window (R591 to R601): the records of each item (R595 to R597 and the chapters R594 names) and the
commands of a capture. -/
namespace Sys2Proof.Machine
open Sys2Proof

/-! Requests. -/

/-- The code of a request state (R391). -/
def ReqSt.code : ReqSt → Nat
  | .queued => 1 | .prefill => 2 | .decode => 3 | .pausing => 4 | .paused => 5 | .resuming => 6

/-- A 64-bit tick, all ones when none. -/
def tick64 : Option Nat → Nat
  | some t => t
  | none => 2 ^ 64 - 1

/-- A request entry (R391, R430). -/
def Req.bytes (r : Req) : List Byte :=
  leBytes 1 (r.st.code + 8 * r.line + 16 * r.pre.code)
  ++ leBytes 1 (r.prio + 16 * b2n r.exitEn + 32 * b2n r.adapt + 64 * r.routeMode)
  ++ leBytes 1 (b2n r.cancelP + 2 * b2n r.pauseP + 4 * b2n r.resumeP + 8 * b2n r.endP + 16 * b2n r.held + 32 * b2n r.skipped)
  ++ leBytes 1 (r.wmask + 16 * r.drafts.length)
  ++ leBytes 4 r.tag.toNat ++ leBytes 2 r.tenant ++ leBytes 2 0 ++ leBytes 4 r.pages.length
  ++ (List.range 4).flatMap (fun k => leBytes 4 (r.comp.getD k 0).toNat)
  ++ (List.range 4).flatMap (fun k => leBytes 4 (r.w.getD k 0).toNat)
  ++ leBytes 4 r.vocab.toNat ++ leBytes 4 r.bag.toNat ++ leBytes 8 (tick64 r.deadline) ++ leBytes 8 (tick64 r.ttlAt)
  ++ leBytes 4 r.ttl ++ leBytes 4 r.promptLen ++ leBytes 4 r.done ++ leBytes 4 r.pos ++ leBytes 4 r.maxGen ++ leBytes 4 0
  ++ leBytes 8 r.seq ++ padTo 48 r.samp.bytes ++ leBytes 8 r.ringBase.toNat ++ leBytes 4 r.ringLog2
  ++ (List.range 4).flatMap (fun k => leBytes 4 (r.drafts.getD k 0xFFFFFFFF).toNat)
  ++ leBytes 4 r.steps ++ leBytes 8 r.openTick ++ leBytes 4 r.trainMask ++ leBytes 4 r.bwdSteps ++ List.replicate 56 0

/-- The entry of a slot; a FREE slot's reads zeros. -/
def State.reqBytes (s : State) (slot : Nat) : List Byte :=
  match s.reqAt slot with | some r => r.bytes | none => List.replicate 256 0

/-- The token history of a slot (R364). -/
def State.histBytes (s : State) (slot : Nat) : List Byte :=
  let h := match s.reqAt slot with | some r => r.hist | none => []
  (List.range 64).flatMap fun i => leBytes 4 (h.getD i 0xFFFFFFFF).toNat

/-- The generation word of a slot. -/
def State.genWord (s : State) (slot : Nat) : Nat := s.gen slot + (if (s.reqAt slot).isNone then 2 ^ 31 else 0)

/-- A queued final record (R597). -/
def FinalRec.bytes (f : FinalRec) : List Byte :=
  let r : TokRec := ⟨0xFFFFFFFF, f.stamp.toNat, f.tag, true, false, true, false, false, f.status, 0⟩
  leBytes 12 (leNat (r.bytes 0 0)) ++ leBytes 1 (bytesAt (r.bytes 0 0) 12 1 / 2 * 2) ++ (r.bytes 0 0).drop 13
  ++ leBytes 8 f.ringBase.toNat ++ leBytes 8 f.ringLog2

/-- A pending descriptor (R597). -/
def Taken.bytes96 (t : Taken) : List Byte :=
  bvBytes t.bytes ++ leBytes 4 t.ring ++ leBytes 4 t.num.toNat ++ leBytes 8 t.readTick ++ List.replicate 16 0

/-- A queued unsolicited completion (R465). -/
def Unsol.bytes (u : Unsol) : List Byte :=
  completionBytes 0xFF 0 0 0 0 true ⟨u.status, 0, u.result0.toNat, u.result1.toNat, 0⟩ u.stamp.toNat

/-! The adapter space. -/

/-- Adapter-space address of wagon 0 of a copy, or of a table's body (R232, R331). -/
def Copy.base (c : Copy) (slot : Nat) : Nat := regionBase slot c.regionB + (if c.kind = 3 then 256 else c.bodyOff)

/-- The copy in force as the record shows it, and the second copy where it is staged: up to TICK_ACK of tick n + 1 a commit of tick n shows
neither as changed, and a slot in RELEASING shows none (R264, R266). -/
def Dir.shown (d : Dir) : Option Copy × Option Copy :=
  if d.st == .releasing then (none, none) else
  match d.old with
  | some (_, c) => (if c.isSome && d.former.isSome then d.former else c, d.cur)
  | none => (d.cur, if d.st == .staged || d.st == .stagedNew then d.next else none)

/-- NEXT_BASE (R232, R264): wagon 0 of the staged copy, or of the copy being built once its header is read. -/
def Dir.nextBase (d : Dir) : Nat :=
  match d.shown.2 with
  | some c => c.base d.slot
  | none => match d.headRead with
    | some off => if d.st == .loading || d.st == .staging then regionBase d.slot d.buildRegion + (if d.table then 256 else off) else 0
    | none => 0

/-- The directory record (R214). Fields that describe the copy in force describe the staged one when none is in force, and the retired one
while it is released. -/
def Dir.bytes (d : Dir) : List Byte :=
  let inForce := d.shown.1
  let staged := d.shown.2
  let c := match inForce, staged with | some c, _ => some c | none, some c => some c | none, none => d.cur
  let f (g : Copy → Nat) : Nat := match c with | some c => g c | none => 0
  let cur (g : Copy → Nat) : Nat := match inForce with | some c => g c | none => 0
  let nxt (g : Copy → Nat) : Nat := match staged with | some c => g c | none => 0
  leBytes 4 d.handle.toNat ++ leBytes 2 d.tenant ++ leBytes 1 (f (·.kind))
  ++ leBytes 1 (f (fun c => b2n c.sealed + 2 * b2n c.trainable + 4 * b2n c.shared + 8 * b2n c.xtenant)
      + 16 * b2n d.poisoned + 32 * b2n staged.isSome)
  ++ leBytes 4 (cur (·.version.toNat)) ++ leBytes 1 (f fun c => c.fmt + 8 * b2n c.mx6v + 16 * c.origFmt)
  ++ leBytes 1 (f fun c => c.form + 4 * c.swId) ++ leBytes 2 (f (·.parts.length)) ++ leBytes 4 (f (·.route.toNat))
  ++ leBytes 1 (f (·.cf)) ++ leBytes 1 (f (·.keySlot)) ++ leBytes 2 0 ++ leBytes 4 (f (·.salt.toNat)) ++ leBytes 4 (f (·.wagons))
  ++ leBytes 6 (cur fun c => c.base d.slot) ++ leBytes 2 0 ++ leBytes 6 d.nextBase ++ leBytes 2 0
  ++ leBytes 4 (nxt (·.version.toNat)) ++ leBytes 6 (cur fun c => regionBase d.slot c.regionB + 256) ++ List.replicate 6 0

/-- The code of a slot state (R596). -/
def SlotSt.code : SlotSt → Nat
  | .loading => 1 | .stagedNew => 2 | .installed => 3 | .staging => 4 | .staged => 5 | .releasing => 6

/-- Copy status of a slot (R596). -/
def State.copyStatus (s : State) (slot : Nat) : List Byte :=
  match s.dirAt slot with
  | none => List.replicate 32 0
  | some d =>
    let own (r : TRun) : Bool := decide (r.addr / 2 ^ 30 = slot)
    leBytes 4 d.handle.toNat ++ leBytes 4 d.st.code
    ++ leBytes 4 (if d.shown.1.isSome then sat 32 d.heat else 0)
    ++ (List.range 4).flatMap (fun k => leBytes 4 (s.tmap.filter fun r => own r && r.tier = k + 1).length)
    ++ leBytes 2 (sat 16 (s.runsPending own)) ++ leBytes 2 (sat 16 (s.dirtyCount own))

/-- A tier-map record (R245, R596). -/
def TRun.bytes (r : TRun) : List Byte :=
  leBytes 8 r.addr ++ leBytes 4 r.loc.toNat ++ leBytes 2 (r.tier + 8 * b2n r.moving) ++ leBytes 2 r.dirty.toNat

/-- The run that holds an address. -/
def State.runAt (s : State) (a : Nat) : Option TRun := s.tmap.find? fun r => decide (r.addr ≤ a ∧ a < r.addr + 69632)

/-- Handle of a tenant's expert set in force or staged (R595). -/
def State.expertHandle (s : State) (t : Nat) : Word :=
  let isSet (c : Option Copy) : Bool := match c with | some c => c.kind = 1 | none => false
  ((s.dirs.find? fun d => d.tenant = t && (isSet d.shown.1 || isSet d.shown.2)).map (·.handle)).getD 0

/-- A quota entry (R595). -/
def State.quotaEntry (s : State) (t : Nat) : List Byte :=
  let q := (s.tenant t).quota
  (List.range 4).flatMap (fun k => leBytes 4 (s.quota t (k + 1)))
  ++ (List.range 4).flatMap (fun k => leBytes 4 (s.usage t (k + 1)))
  ++ leBytes 1 ((List.range 4).foldl (fun a k => if (q.getD k none).isNone then a + 2 ^ k else a) 0)
  ++ leBytes 1 (s.tenant t).st.code ++ leBytes 2 t ++ leBytes 4 (s.expertHandle t).toNat ++ List.replicate 24 0

/-- A copy of the slot in a copy region. -/
def Dir.copyIn (d : Dir) (b : Bool) : Option Copy :=
  let here (c : Option Copy) : Option Copy := c.filter fun c => c.regionB == b
  match here d.cur, here d.next with
  | some c, _ => some c
  | none, some c => some c
  | none, none => here d.former

/-- The owner of an address that carries data (R231, R235): its record, and its copy unless it lies in the state region. -/
def State.spaceAt (s : State) (a : Nat) : Option (Dir × Option Copy) :=
  match s.dirAt (a / 2 ^ 30) with
  | none => none
  | some d =>
    let reg := a / 2 ^ 28 % 4
    if reg = 2 then (if d.opt.isSome then some (d, none) else none)
    else if reg = 3 then none
    else (d.copyIn (reg = 1)).map fun c => (d, some c)

/-- A row's header entry (R330). -/
def TRow.header (r : TRow) : List Byte :=
  leBytes 2 r.scale0.toNat ++ [r.zero0] ++ leBytes 1 (b2n r.active + 2 * b2n r.pending) ++ leBytes 2 r.gen0.toNat
  ++ leBytes 2 r.scale1.toNat ++ [r.zero1, 0] ++ leBytes 2 r.gen1.toNat ++ leBytes 4 (r.regIdx + (if r.int4 then 2 ^ 31 else 0))

/-- Codes of a slot of a row, padded to whole blocks. -/
def TRow.slotBytes (r : TRow) (cols : Nat) (slot1 : Bool) : List Byte :=
  padTo (roundUp (codeBytes cols r.int4) 64) (if slot1 then r.codes1 else r.codes0)

/-- The byte of a table copy at an offset from its region's start (R331, R332); where the split layout's slices lie in the
adapter space is not stated. -/
def State.tableByte (s : State) (d : Dir) (c : Copy) (off : Nat) : Byte :=
  let n := c.rows.length
  if off < 256 then memGet s.adMem (regionBase d.slot c.regionB + off)
  else if off < 256 + 16 * n then
    match c.rows[(off - 256) / 16]? with | some r => r.header.getD (off % 16) 0 | none => 0
  else if c.split then Config.splitByte (c.rows.flatMap fun r => r.codes0 ++ r.codes1) off
  else
    let n8 := compactSlot c.cols (c.regionRows false) false
    let n4 := compactSlot c.cols (c.regionRows true) true
    let base := 256 + roundUp (16 * n) 64
    let area (int4 slot1 : Bool) (start : Nat) : Byte :=
      let rec_ := roundUp (codeBytes c.cols int4) 64
      let i := (off - start) / max 1 rec_
      match c.rows.find? fun r => r.int4 == int4 && r.regIdx = i with
      | some r => (r.slotBytes c.cols slot1).getD ((off - start) % max 1 rec_) 0
      | none => 0
    if off < base then 0
    else if off < base + n8 then area false false base
    else if off < base + 2 * n8 then area false true (base + n8)
    else if off < base + 2 * n8 + n4 then area true false (base + 2 * n8)
    else if off < base + 2 * n8 + 2 * n4 then area true true (base + 2 * n8 + n4)
    else 0

/-- The byte at an adapter-space address (R235, R248). -/
def State.spaceByte (s : State) (a : Nat) : Byte :=
  match s.spaceAt a with
  | none => 0
  | some (d, some c) => if c.kind = 3 then s.tableByte d c (a % 2 ^ 28) else memGet s.adMem a
  | some (_, none) => memGet s.adMem a

/-- The table copy and row whose header entry stands at an address (R331). -/
def State.rowAt (s : State) (a : Nat) : Option (Copy × TRow) :=
  match s.spaceAt a with
  | some (_, some c) =>
    let off := a % 2 ^ 28
    if c.kind = 3 && decide (256 ≤ off) && off % 16 = 0 then (c.rows[(off - 256) / 16]?).map fun r => (c, r) else none
  | _ => none

/-! Timetables. -/

/-- The executing or the building timetable (R69). From a role exchange until the builder has delivered, the building buffer reads as zeros
(assumption log 104). -/
def State.tableAt (s : State) (sub : Nat) : Option Timetable := if sub = 0 then s.tick.cur else s.tick.next

/-- The plan of a stop of a timetable. -/
def State.planAt (s : State) (sub stop : Nat) : Option StopPlan :=
  match s.tableAt sub with
  | some t => if t.standing then none else t.plan.find? fun p => p.stop = stop
  | none => none

/-- Visits that the junction has placed in a routed segment, in placement order, with their choice slot and weight (R146, R152). A routing
wait is released when its group is placed (R187). -/
def State.routedVisits (s : State) (sub stop : Nat) (g : Seg) : List Visit :=
  if sub ≠ 0 then [] else
  match s.stopAt stop with
  | none => []
  | some x => if x.placed.isEmpty then [] else
    (s.tick.recs.filter fun r => r.stop = stop && r.tenant = g.tenant).flatMap fun r =>
      (List.range 4).filterMap fun j =>
        if r.final.getD j 0 = 128 + g.expert then some (⟨r.row, j, r.g.getD j 0⟩ : Visit) else none

/-- A segment's visits as its positions hold them. -/
def State.segVisits (s : State) (sub stop : Nat) (g : Seg) : List Visit := if g.routed then s.routedVisits sub stop g else g.run

/-- The entries of a list of segments, each with its first position (R145, R154 to R156). -/
def withPtr (b : Build) (gs : List Seg) : List (Seg × Nat) := offsets (segPositions b) 0 gs

/-- A segment-table entry (R144): of a segment, of its first piece where it is split (`spans` over 1), or of a split. `cap` is the ROWS of the
segment's own entry, which its splits take as CAP from it (R148, assumption log 105). -/
def segEntry (g : Seg) (split : Bool) (parent ptr rows cap span spans : Nat) : List Byte :=
  leBytes 1 ((if split then 3 else if g.routed then 2 else if g.empty then 0 else 1) + 4 * b2n g.prefill + 8 * g.fmt + 64 * b2n g.hasS + 128 * b2n g.hasV)
  ++ leBytes 1 (g.rank8 + 32 * g.form) ++ leBytes 1 g.swId ++ leBytes 1 g.prio ++ leBytes 4 g.handle.toNat ++ leBytes 6 g.wagon
  ++ leBytes 2 g.wagons ++ leBytes 2 ptr ++ leBytes 2 rows ++ leBytes 2 (if g.routed then g.cap else cap) ++ leBytes 2 parent
  ++ leBytes 1 (span + 16 * (spans - 1)) ++ leBytes 1 g.expert ++ leBytes 2 g.tenant
  ++ leBytes 4 (match g.dead with | some t => t % 2 ^ 32 | none => 0xFFFFFFFF)

/-- Positions in the first row slice of a segment that splits divide, of its `rows`. -/
def firstSlice (mine : List Split) (rows : Nat) : Nat := (mine.map (·.ptr)).foldl (fun a p => if p = 0 then a else min a p) rows

/-- The entries of a pass: its segments in the order of R41 at their places, each that is split with its first row slice, with empty entries
between for disabled cars, then the splits (R56, R145, R148, assumption log 106). -/
def State.entries (s : State) (t : Timetable) (sub stop pass : Nat) (gs : List Seg) (splits : List Split) : List (List Byte) :=
  let own := withPtr s.build gs
  let at_ := t.placesOf stop pass gs.length
  let mine (k : Nat) : List Split := splits.filter fun y => y.parent = k
  let first (k : Nat) (g : Seg) : Nat := firstSlice (mine k) (s.segVisits sub stop g).length
  (List.range (t.entriesOf stop pass gs.length)).map (fun e =>
    let k := at_.idxOf e
    match own[k]? with
    | some x => segEntry x.1 false e x.2 (first k x.1) (first k x.1) 0 (((mine k).head?.map (·.spans)).getD 1)
    | none => List.replicate 32 0)
  ++ splits.flatMap fun y => match own[y.parent]? with
    | some x => [segEntry x.1 true (at_.getD y.parent y.parent) (x.2 + y.ptr) y.rows (first y.parent x.1) y.span y.spans]
    | none => []

/-- One sorted-map entry (R151). -/
def mapEntry (row : Nat) (pad valid late : Bool) (slot : Nat) (g : Word) : List Byte :=
  leBytes 2 (row % 8192 + 8192 * b2n pad + 16384 * b2n valid + 32768 * b2n late) ++ leBytes 2 slot ++ leBytes 4 g.toNat

/-- The sorted-map positions of a segment: its visits, the positions of a routed segment's capacity that hold no placement, then padding
(R151 to R156). -/
def State.segMap (s : State) (p : StopPlan) (sub : Nat) (g : Seg) : List (List Byte) :=
  let vs := s.segVisits sub p.stop g
  let n := segPositions s.build g
  let cap := if g.routed then g.cap else vs.length
  vs.map (fun v => mapEntry v.row false true (p.late.contains v.row) v.slot v.g)
  ++ List.replicate (cap - vs.length) (List.replicate 8 0) ++ List.replicate (n - cap) (mapEntry 0 true true false 0 0)

/-- The sorted-row map of some segments. -/
def State.passMap (s : State) (p : StopPlan) (sub : Nat) (gs : List Seg) : List (List Byte) := gs.flatMap (s.segMap p sub)

/-- Sorted-map positions in use. -/
def State.positions (s : State) (gs : List Seg) : Nat := gs.foldl (fun a g => a + segPositions s.build g) 0

/-- Distinct rows with visits in a pass; a routing row that is not late counts where its tenant has a routed segment (R173). -/
def passRows (p : StopPlan) (gs : List Seg) (tenantOf : Nat → Option Nat) : Nat :=
  let ex := gs.flatMap fun g => g.visits.map (·.row)
  let ts := (gs.filter (·.routed)).map (·.tenant)
  let rt := p.routing.filterMap fun r => match tenantOf r.2 with
    | some t => if ts.contains t && !p.late.contains r.1 then some r.1 else none
    | none => none
  (sortNat (ex ++ rt)).length

/-- A segment-table header (R143). REMOVED wraps where its 12 bits cannot hold the number (assumption log 105). -/
def State.passHeader (s : State) (t : Timetable) (p : StopPlan) (pass : Nat) : List Byte :=
  let gs := p.passes.getD pass []
  let last := pass + 1 = p.passes.length
  let sh := if pass = 0 then s.sharedAt t.hdr.layer p.stop t.tick else []
  let sh := sh.filter fun x => p.shared.contains x.1.handle
  let h (i : Nat) : Nat := match sh[i]? with | some x => x.1.handle.toNat | none => 0
  let a (i : Nat) : Nat := match sh[i]? with | some x => wagonAt x.1.slot x.2.1 x.2.2.first | none => 0
  leBytes 2 gs.length ++ leBytes 2 (t.entriesOf p.stop pass gs.length + (splitsOf t p pass).length) ++ leBytes 2 (s.positions gs)
  ++ leBytes 2 (passRows p gs fun sl => (s.dirAt sl).map (·.tenant))
  ++ leBytes 1 (pass + 4 * p.stop + 32 * t.hdr.line + 64 * b2n last + 128 * b2n (s.build != .ix512))
  ++ leBytes 1 (b2n (decide (0 < sh.length)) + 2 * b2n (decide (1 < sh.length)))
  ++ leBytes 2 (if last then p.removed % 4096 else 0) ++ leBytes 4 0 ++ leBytes 4 (h 0) ++ leBytes 8 (a 0) ++ leBytes 4 (h 1)
  ++ leBytes 6 (a 1) ++ List.replicate 26 0

/-- The entries of a score list (R173). -/
def scoreBytes (score : List Seg) : List (List Byte) :=
  (offsets (fun (g : Seg) => g.run.length) 0 score).zipIdx.map fun (x : (Seg × Nat) × Nat) =>
    segEntry x.1.1 false x.2 x.1.2 x.1.1.run.length x.1.1.run.length 0 1

/-- The positions of its score map. -/
def scoreMap (score : List Seg) : List (List Byte) :=
  score.flatMap fun (g : Seg) => g.run.map fun v => mapEntry v.row false true false 0 v.g

/-- Records `n` of a chunk, each `w` bytes, zeros past the end. -/
def chunkOf (w n chunk : Nat) (rs : List (List Byte)) : List Byte := padTo (w * n) ((rs.drop (n * chunk)).take n).flatten

/-- The routing records of a stop, of the current tick or of the last completed one (R190). -/
def State.routeRecs (s : State) (cur : Bool) (stop : Nat) : List (List Byte) :=
  ((sortRecs (if cur || !s.tick.active then s.tick.recs else s.tick.prevRecs)).filter fun r => r.stop = stop).map RouteRec.bytes

/-! Items. -/

/-- What a capture gives. -/
inductive Capture where
  | badItem | badIndex | data (bytes : List Byte) (unmapped : Bool)
  deriving DecidableEq, Repr

/-- An item, when its index and SUB are in range (R593). -/
def within (ok : Bool) (bs : List Byte) : Capture := if ok then .data bs false else .badIndex

/-- The items of requests, queues and descriptors. -/
def State.itemRequests (s : State) (item i : Nat) (host : List Byte) : Capture :=
  if item = 0x01 then within (decide (i < 4096)) (s.reqBytes i)
  else if item = 0x02 then within (decide (i < 4096)) (s.histBytes i)
  else if item = 0x03 then
    let n := match s.reqAt (i % 4096) with | some r => r.pages.length | none => 0
    within (decide (i < 65536)) (padTo 1024 ((padTo 1024 host).take (min 1024 (4 * (n - 256 * (i / 4096))))))
  else if item = 0x04 then within (decide (i < 4096)) (match s.finals[i]? with | some f => f.bytes | none => List.replicate 32 0)
  else if item = 0x05 then within (decide (i < 65536)) (match s.taken[i]? with | some t => t.bytes96 | none => List.replicate 96 0)
  else if item = 0x06 then
    within (decide (i < 4)) ((List.range 1024).flatMap fun k => leBytes 4 (s.genWord (1024 * i + k)))
  else within (decide (i < 64)) (match s.unsol[i]? with | some u => u.bytes | none => List.replicate 32 0)

/-- The items of the adapter space. -/
def State.itemSpace (s : State) (item i sub : Nat) : Capture :=
  if item = 0x08 then
    within (decide (i < 262144)) (match s.dirAt i with | some d => d.bytes | none => List.replicate 64 0)
  else if item = 0x09 then within (decide (i < 262144)) (s.copyStatus i)
  else if item = 0x0A then
    (match s.runAt i with | some r => .data r.bytes false | none => .data (List.replicate 16 0) true)
  else if item = 0x0B then within (decide (i < 65536)) (s.quotaEntry i)
  else if item = 0x0C then
    let n := s.rf 0x800C 0 9
    if i % 64 ≠ 0 then .badIndex
    else .data ((List.range (64 * n)).map fun k => s.spaceByte (i + k)) ((List.range n).any fun k => (s.spaceAt (i + 64 * k)).isNone)
  else if item = 0x0D then
    (match s.rowAt i with
    | some (c, r) => .data (r.header ++ r.slotBytes c.cols (sub = 1)) false
    | none => .badIndex)
  else
    let loads : List (Nat × Nat) := match s.dirAt (i % 262144) with
      | some d => ((s.bands.find? fun x => x.1 = d.handle).map (·.2)).getD []
      | none => []
    let load (k : Nat) : Nat := ((loads.find? fun x => x.1 = k).map (·.2)).getD 0
    within (decide (i < 2 ^ 32)) ((List.range 2048).flatMap fun k => leBytes 4 (sat 32 (load (2048 * (i / 262144) + k))))

/-- The items of the timetables. -/
def State.itemTables (s : State) (item i sub : Nat) : Capture :=
  let stop := i % 8
  let pass := i / 8 % 4
  let segs : List Seg := match s.planAt sub stop with | some p => p.passes.getD pass [] | none => []
  let splits : List Split := match s.tableAt sub, s.planAt sub stop with | some t, some p => splitsOf t p pass | _, _ => []
  let score : List Seg := match s.planAt sub stop with | some p => p.score | none => []
  let stopOk := decide (stop < 6)
  if item = 0x10 then
    within (decide (i < 131072) && i % 64 = 0)
      (padTo 8192 (match s.tableAt sub with | some t => ((t.lines.drop i).take 64).flatMap bvBytes | none => []))
  else if item = 0x11 then
    within (decide (i < 131072) && i % 1024 = 0)
      (padTo 8192 (match s.tableAt sub with | some t => ((t.fetch.drop i).take 1024).flatMap bvBytes | none => []))
  else if item = 0x12 then
    within (stopOk && decide (i / 32 ≤ 8))
      (if i / 32 = 0 then
        (match s.tableAt sub, s.planAt sub stop with
          | some t, some p => if pass < p.passes.length then s.passHeader t p pass else List.replicate 64 0
          | _, _ => List.replicate 64 0)
       else chunkOf 32 256 (i / 32 - 1) (match s.tableAt sub with | some t => s.entries t sub stop pass segs splits | none => []))
  else if item = 0x13 then
    within (stopOk && decide (i / 32 ≤ 31))
      (chunkOf 8 1024 (i / 32) (match s.planAt sub stop with | some p => s.passMap p sub segs | none => []))
  else if item = 0x14 then
    within (stopOk && pass = 0 && decide (i / 32 ≤ 7))
      (chunkOf 32 256 (i / 32) (scoreBytes score))
  else
    within (stopOk && pass = 0 && decide (i / 32 ≤ 7))
      (chunkOf 8 1024 (i / 32) (scoreMap score))

/-- The remaining items. -/
def State.itemRest (s : State) (item i sub : Nat) : Capture :=
  if item = 0x16 then
    within (decide (i % 8 < 6) && decide (i / 8 ≤ 31)) (chunkOf 32 256 (i / 8) (s.routeRecs (sub = 0) (i % 8)))
  else if item = 0x18 then
    within (decide (i / 64 ≤ 64))
      (padTo 8192 (match s.specials.find? fun x => x.id = i % 64 with
        | some x => (x.image.drop (8192 * (i / 64))).take 8192
        | none => []))
  else if item = 0x1A then
    within (decide (i < 16)) (match s.digest.compared.find? fun f => f.1 = i with | some f => bvBytes f.2 | none => List.replicate 256 0)
  else if item = 0x20 then within (i = 0) (s.log.cnt.toList.flatMap fun c => leBytes 8 c.toNat)
  else if item = 0x21 then within (i = 0) (s.log.hist.flatMap fun h => h.toList.flatMap fun c => leBytes 8 c.toNat)
  else within (i = 0) (s.logRecord 3)

/-- SUB values that R594 lists for an item. -/
def subOk (item sub : Nat) : Bool :=
  if item = 0x0D || (0x10 ≤ item && item ≤ 0x16) then decide (sub < 2) else sub = 0

/-- The item that RB_SEL, RB_INDEX and RB_LEN name, as the state now holds it (R594). -/
def State.capture (s : State) (host : List Byte) : Capture :=
  let item := s.rf 0x8000 24 8
  let sub := s.rf 0x8000 16 2
  let i := (s.reg 0x8004).toNat + 2 ^ 32 * s.rf 0x8008 0 16
  if !([0x01, 0x02, 0x03, 0x04, 0x05, 0x06, 0x08, 0x09, 0x0A, 0x0B, 0x0C, 0x0D, 0x0E, 0x10, 0x11, 0x12, 0x13, 0x14, 0x15, 0x16, 0x18,
      0x1A, 0x20, 0x21, 0x22, 0x23].contains item) then .badItem
  else if !subOk item sub then .badIndex
  else if item ≤ 0x06 || item = 0x23 then s.itemRequests item i host
  else if item < 0x10 then s.itemSpace item i sub
  else if item < 0x16 then s.itemTables item i sub
  else s.itemRest item i sub

/-- A platform frame is the authoritative copy of the wagon at an address: it is dirty, or its write-back has not landed (R298, R599). -/
def State.inPlatform (s : State) (a : Nat) : Bool :=
  match s.runOf a with
  | some r => s.isDirty a || s.writingBack (r.addr + (a - r.addr) / 4352 * 4352)
  | none => false

/-- The item is read over FM: a page list, or wagons of tiers 2 to 4 that no platform frame stands for (R599, R600). -/
def State.captureFm (s : State) : Bool :=
  let item := s.rf 0x8000 24 8
  let i := (s.reg 0x8004).toNat + 2 ^ 32 * s.rf 0x8008 0 16
  item = 0x03 || (item = 0x0C && (List.range (s.rf 0x800C 0 9)).any fun k => decide (1 < s.tierOf (i + 64 * k)) && !s.inPlatform (i + 64 * k))

/-- The bytes of an item as they read: after a SUPPLY halt the depot's contents, reserve included, are undefined (R237, R565). -/
def State.asHeld (s : State) (bs : List Byte) : List Byte :=
  if s.power.halted == some .supply && [0x01, 0x02, 0x06, 0x08, 0x09, 0x0A, 0x0B, 0x0C, 0x0D].contains (s.rf 0x8000 24 8) then
    bs.zipIdx.map fun x => Config.haltByte [s.free, (s.reg 0x8000).toNat, (s.reg 0x8004).toNat, (s.reg 0x8008).toNat, x.2]
  else bs

/-- The item belongs to the timetables (R69, R598). -/
def State.captureTimed (s : State) : Bool := decide (0x10 ≤ s.rf 0x8000 24 8) && decide (s.rf 0x8000 24 8 ≤ 0x16)

/-- A capture ends without contents. -/
def Readback.ends (b : Readback) (st cause : Nat) : Readback := ⟨st, cause, false, false, [], b.tick⟩

/-- The capture ends, and its read with it. -/
def State.endCapture (s : State) (b : Readback) : State :=
  { s with rb := b, reads := s.reads.filter fun (r : FmRead) => r.kind != .capture }

/-- The read over FM that a capture starts: of the page list, or of the bytes in the pools (R600). -/
def State.captureRead (s : State) : State :=
  let i := (s.reg 0x8004).toNat + 2 ^ 32 * s.rf 0x8008 0 16
  if !s.captureFm || s.power.halted.isSome then s
  else if s.rf 0x8000 24 8 = 0x03 then
    s.addRead .capture (s.addr64 0x40DC + i % 4096 * (4 * s.plistMax) + 1024 * (i / 4096)) 16
  else s.addRead .capture (s.poolAddr i) (s.rf 0x800C 0 9)

/-- A write of 1 to START: a capture begins while STATE is not BUSY (R592, R593). -/
def State.rbStart (s : State) : State :=
  if s.rb.st = 1 then s else
  let b : Readback := ⟨1, 0, false, false, [], s.tick.count⟩
  match s.capture [] with
  | .badItem => { s with rb := b.ends 4 1 }
  | .badIndex => { s with rb := b.ends 4 2 }
  | .data bs _ => ({ s with rb := { b with bytes := bs } } : State).captureRead

/-- A write of 1 to ABORT: a BUSY capture ends. -/
def State.rbAbort (s : State) : State := if s.rb.st = 1 then s.endCapture (s.rb.ends 3 5) else s

/-- RB_START. -/
def execRbStart (s : State) : Host.Outcome State Fault Refusal :=
  let s := s.begin
  .next (if s.cfgReady then s.rbStart else s)

/-- RB_ABORT. -/
def execRbAbort (s : State) : Host.Outcome State Fault Refusal :=
  let s := s.begin
  .next (if s.cfgReady then s.rbAbort else s)

/-- RB_CAPTURE_DONE: whether a stored byte changed and changed back, whether a transaction failed, whether signal-box memory held a
parity error, and the bytes that came from host memory (R598, R600, R601). -/
def execRbCaptureDone (changed unreachable parity : Bool) (hostBytes : List Byte) (s : State) : Host.Outcome State Fault Refusal :=
  let s := s.begin
  .next (if !s.cfgReady || s.rb.st ≠ 1 || s.power.droop || (s.captureFm && s.power.halted.isNone && s.power.throttle) then s else
    if s.captureFm && s.power.halted.isSome then s.endCapture (s.rb.ends 4 4)
    else if s.captureFm && unreachable then
      match s.reads.find? fun (r : FmRead) => r.kind == .capture with
      | some r => s.failRead r
      | none => s.endCapture (s.rb.ends 4 4)
    else if s.captureTimed && s.tick.count ≠ s.rb.tick then s.endCapture (s.rb.ends 3 3)
    else match s.capture hostBytes with
      | .data bs un =>
        if changed || (s.rf 0x8000 24 8 ≠ 0x03 && bs != s.rb.bytes) then s.endCapture (s.rb.ends 3 3)
        else s.endCapture ⟨2, 0, un, parity && s.power.halted == some .internal, s.asHeld bs, s.rb.tick⟩
      | _ => s.endCapture (s.rb.ends 3 3))

end Sys2Proof.Machine
end

