-- ==== Sys2Proof/Machine/Snapshot.lean ====
section
/-! DEFINITION. Snapshots (R602 to R611): their sections, their layout and the commands from the descriptor's read to its completion. -/
namespace Sys2Proof.Machine
open Sys2Proof

/-! Sections (R610). -/

/-- The words at some CFG offsets as reads would return them. -/
def State.cfgImage (s : State) (base words : Nat) : List Byte := (List.range words).flatMap fun k => leBytes 4 (s.readReg (base + 4 * k)).toNat

/-- Lines of a timetable up to its TICK_END line (R611). -/
def programLines : List TLine → List TLine
  | [] => []
  | l :: ls => if ctlOp l = 6 then [l] else l :: programLines ls

/-- The executing timetable with its header (R611). -/
def Timetable.bytes (t : Timetable) : List Byte :=
  let ls := programLines t.lines
  leBytes 4 ls.length ++ leBytes 4 t.fetch.length ++ leBytes 8 t.tick ++ leBytes 1 (b2n t.standing) ++ List.replicate 47 0
  ++ ls.flatMap bvBytes ++ t.fetch.flatMap bvBytes

/-- The segment tables of one stop. -/
def State.stopTables (s : State) (t : Timetable) (p : StopPlan) : List Byte :=
  p.passes.zipIdx.flatMap fun (x : List Seg × Nat) =>
    s.passHeader t p x.2 ++ (s.entries t 0 p.stop x.2 x.1 (splitsOf t p x.2)).flatten ++ (s.passMap p 0 x.1).flatten
    ++ (if x.2 = 0 then
          leBytes 2 p.score.length ++ leBytes 2 (scoreMap p.score).length ++ List.replicate 12 0
          ++ (scoreBytes p.score).flatten ++ (scoreMap p.score).flatten
        else [])

/-- A special-working record (R611). -/
def State.swRecord (s : State) (x : Special) : List Byte :=
  leBytes 1 x.id ++ leBytes 1 (swFormat x.image) ++ leBytes 2 (swLines x.image) ++ leBytes 4 (swMaxBeats x.image)
  ++ leBytes 4 (crc32c x.image).toNat ++ leBytes 4 (s.swUsers x.id)

/-- Tenants with a quota set by SET_QUOTA, non-zero usage or a state other than ENABLED, ascending. -/
def State.quotaTenants (s : State) : List Nat :=
  let named := (s.tenants.filter fun t => t.quota.any (·.isSome) || t.st != .enabled).map (·.id)
  let users := s.charges.filterMap fun c => if c.wagons = 0 then none else some c.tenant
  sortNat (named ++ users)

/-- The sections of a full snapshot; `own` marks the SNAPSHOT's own descriptor (R603). -/
def State.sections (s : State) (own : Taken → Bool) : List (Nat × List Byte) :=
  [(0x01, s.cfgImage 0 8192), (0x02, s.cfgImage 0x10000 16384),
   (0x03, (List.range 4096).flatMap fun k => leBytes 4 (s.genWord k)),
   (0x04, s.reqs.flatMap fun r => r.bytes ++ s.histBytes r.slot),
   (0x05, s.finals.flatMap FinalRec.bytes),
   (0x06, (s.taken.filter fun t => !own t).flatMap Taken.bytes96),
   (0x07, s.unsol.flatMap Unsol.bytes),
   (0x08, s.dirs.flatMap Dir.bytes),
   (0x09, s.dirs.flatMap fun d => s.copyStatus d.slot),
   (0x0A, (sortBy (fun (a b : TRun) => decide (a.addr < b.addr)) s.tmap).flatMap TRun.bytes),
   (0x0B, s.quotaTenants.flatMap s.quotaEntry),
   (0x0C, s.specials.flatMap s.swRecord),
   (0x0D, match s.tick.cur with | some t => t.bytes | none => []),
   (0x0E, match s.tick.cur with | some t => if t.standing then [] else t.plan.flatMap (s.stopTables t) | none => []),
   (0x0F, (List.range 6).flatMap fun st =>
      let rs := s.routeRecs false st
      leBytes 4 st ++ leBytes 4 rs.length ++ List.replicate 24 0 ++ rs.flatten),
   (0x10, if s.groupSize = 1 then [] else
      (sortBy (fun (a b : Nat × Payload) => decide (a.1 < b.1)) s.digest.compared).flatMap fun f => bvBytes f.2),
   (0x11, s.logRecord 1)]

/-! Layout (R608, R609). -/

/-- The offsets of the sections: each at the first multiple of 4,096 at or after the end of the previous non-empty one. -/
def layout : Nat → List (Nat × List Byte) → List (Nat × List Byte × Nat)
  | _, [] => []
  | end_, (id, bs) :: r =>
    if bs.isEmpty then (id, bs, 0) :: layout end_ r
    else (id, bs, roundUp end_ 4096) :: layout (roundUp end_ 4096 + bs.length) r

/-- SIZE: the end of the last non-empty section. -/
def layoutSize (xs : List (Nat × List Byte × Nat)) : Nat := xs.foldl (fun a x => max a (x.2.2 + x.2.1.length)) 0

/-- The section directory (R609). -/
def sectionDir (xs : List (Nat × List Byte × Nat)) : List Byte :=
  xs.flatMap fun x => leBytes 1 x.1 ++ leBytes 3 1 ++ leBytes 4 x.2.2 ++ leBytes 4 x.2.1.length ++ leBytes 4 (crc32c x.2.1).toNat

/-- The snapshot header (R608). -/
def State.snapHeader (s : State) (logOnly : Bool) (xs : List (Nat × List Byte × Nat)) : List Byte :=
  leBytes 4 0x53375849 ++ leBytes 1 1 ++ leBytes 1 xs.length ++ leBytes 2 (b2n logOnly) ++ leBytes 4 s.ixId.toNat
  ++ leBytes 2 (s.rf 0x0104 0 16) ++ leBytes 1 (s.pos + 16 * (s.groupSize - 1)) ++ leBytes 1 s.engine.code
  ++ leBytes 8 s.tick.count ++ leBytes 8 (layoutSize xs) ++ leBytes 4 (negWord s.negot) ++ leBytes 4 (crc32c (sectionDir xs)).toNat
  ++ List.replicate 24 0

/-! Commands. -/

/-- DEST of a SNAPSHOT (R475). -/
def snapDest (b : DescBytes) : Nat := dF b 16 0 64
/-- LIMIT. -/
def snapLimit (b : DescBytes) : Nat := dF b 24 0 64

/-- SNAPSHOT at its read (R602, R605). -/
def State.snapshotReq (s : State) (tk : Taken) : State :=
  if snapDest tk.bytes % 4096 ≠ 0 then s.answer tk (ans 0x18 19) else
  let x : Snap := ⟨tk.ring, tk.num, dF tk.bytes 8 0 1 = 1, snapDest tk.bytes, snapLimit tk.bytes, tk.readTick, 0, 0, [], false,
    s.tick.idle || s.engine != .enabled, false⟩
  ({ s with snaps := s.snaps ++ [x] } : State).park tk .snapshot

/-- Work of tick n that runs on into the next: a boundary that is due, page moves (R377, R397, R404). -/
def State.runsOn (s : State) (n : Nat) : Bool :=
  (s.lines.toList.any fun l => l.boundary && decide (l.headTick ≤ n))
  || s.reads.any fun (r : FmRead) => match r.kind with | .pageMove _ _ => true | _ => false

/-- The capture point of a SNAPSHOT has come (R602, R607). -/
def State.capturePoint (s : State) (x : Snap) : Bool :=
  if x.held then s.engine == .enabled && s.front.isNone
  else if x.atOnce then s.front.isNone
  else s.tick.idle || (decide (x.readTick < s.tick.count) && !s.runsOn x.readTick)

/-- The descriptor of a SNAPSHOT. -/
def Snap.of (x : Snap) (t : Taken) : Bool := t.ring = x.ring && t.num = x.num && t.pend == .snapshot

/-- A SNAPSHOT that has waited for an earlier one is captured at the first capture point from now on (R604). -/
def State.snapNext (s : State) (y : Snap) : Snap :=
  { y with readTick := max y.readTick s.tick.count, atOnce := s.tick.idle || s.engine != .enabled }

/-- The descriptor completes, and the SNAPSHOT with it. -/
def State.endSnap (s : State) (x : Snap) (a : Answer) : State :=
  let s := { s with snaps := (s.snaps.filter fun (y : Snap) => !(y.ring = x.ring && y.num = x.num)).map s.snapNext }
  match s.taken.find? x.of with
  | some tk => s.finish tk a
  | none => s

/-- Write the sections of a capture, ascending; the host writes they make (R606). -/
def State.writeSections (s : State) (dest : Nat) : List (Nat × List Byte × Nat) → State
  | [] => s
  | (_, bs, off) :: r => (if bs.isEmpty then s else s.addWrite .snapshot (dest + off) bs []).writeSections dest r

/-- Identifiers of the host writes queued since `id0`. -/
def State.idsFrom (s : State) (id0 : Nat) : List Nat := s.writes.filterMap fun (w : HostWrite) => if id0 ≤ w.id then some w.id else none

/-- The capture (R603, R605, R606). -/
def State.takeSnap (s : State) (x : Snap) : State :=
  let xs := layout 4096 (if x.logOnly then [(0x11, s.logRecord 1)] else s.sections x.of)
  let size := layoutSize xs
  if x.limit < size then s.endSnap x ⟨0x12, 0x40, size, 0, 0⟩ else
  let id0 := s.nextId
  let head := s.snapHeader x.logOnly xs ++ sectionDir xs
  let n := s.tick.count
  let s := s.writeSections x.dest xs
  let s := s.addWrite .snapshot x.dest head (s.idsFrom id0)
  let s := (s.logSave 1).1
  let ids := s.idsFrom id0
  let go (y : Snap) : Snap :=
    if y.ring = x.ring && y.num = x.num then { y with size := size, tick := n, writes := ids, taken := true, held := false } else y
  { s with snaps := s.snaps.map go }

/-- SNAPSHOT. -/
def execSnapshot (s : State) : Host.Outcome State Fault Refusal :=
  .next (s.begin.withDesc (fun b => opcodeOf b = 0x04 && dF b 8 0 1 = 0) State.snapshotReq)

/-- SNAPSHOT with LOGBOOK set. -/
def execSnapshotLogbook (s : State) : Host.Outcome State Fault Refusal :=
  .next (s.begin.withDesc (fun b => opcodeOf b = 0x04 && dF b 8 0 1 = 1) State.snapshotReq)

/-- SNAPSHOT_CAPTURE_POINT: the oldest incomplete SNAPSHOT, when its capture point has come (R604). -/
def execSnapshotCapturePoint (s : State) : Host.Outcome State Fault Refusal :=
  let s := s.begin
  .next (if !s.live then s else
    match s.snaps with
    | x :: _ => if !x.taken && s.capturePoint x then s.takeSnap x else s
    | [] => s)

/-- SNAPSHOT_WRITES_DONE: every write has been acknowledged (R606). -/
def execSnapshotWritesDone (s : State) : Host.Outcome State Fault Refusal :=
  let s := s.begin
  .next (if !s.live then s else
    match s.snaps with
    | x :: _ => if x.taken && x.writes.isEmpty then s.endSnap x (ansOk x.size (x.tick % 2 ^ 32) 0) else s
    | [] => s)

end Sys2Proof.Machine
end

