-- ==== Sys2Proof/Machine/Power.lean ====
section
/-! DEFINITION. Power (R550 to R559), monitors (R561 to R566), halts (R567) and the heartbeat (R534). -/
namespace Sys2Proof.Machine
open Sys2Proof

/-- Change the power state. -/
def State.updPower (s : State) (f : Power → Power) : State := { s with power := f s.power }

/-! The estimate. -/

/-- P_est of a window in milliwatts (R551): the floor, then the units by their occupancy. A window is 1,300 cycles or 325 beats, and a
car contributes a sixteenth of its train's coefficient. -/
def State.estimate (s : State) (o : Occupancy) : Nat :=
  s.floorMw + (5 * (4500 * o.mac8 + 5000 * o.mac4 + 4000 * o.bf16 + 1500 * o.other) + 8 * 586 * o.depot
    + 20 * (900 * o.fm + 1500 * o.rows + 2000 * o.xch)) / 26000

/-- The first case of R555: the duty that brings an estimate down to the cap, all in milliwatts. -/
def dutyDown (duty est cap floor : Nat) : Nat := max 1 (duty * (cap - floor) / (est - floor))

/-- D at the end of a window (R555); `fell` tells that C_eff fell at this window's end. -/
def Power.nextDuty (p : Power) (floor : Nat) (fell : Bool) : Nat :=
  let cap := 250 * p.cEff
  if p.throttle || p.droop || decide (0 < p.ramping) then
    if fell && decide (cap < p.prePause) then dutyDown p.duty p.prePause cap floor else p.duty
  else if cap < p.pEst then dutyDown p.duty p.pEst cap floor
  else if p.pEst + 2000 ≤ cap ∧ p.duty < 64 then p.duty + 1
  else p.duty

/-- The bin of H3 for a T_j in 0.25 °C (R576). -/
def tempBin (tj : Int) : Nat := if tj < 160 then 0 else min 15 (((tj - 140) / 20).toNat)
/-- The bin of H4 for an estimate in milliwatts. -/
def powerBin (mw : Nat) : Nat := min 25 (mw / 10000)

/-- What the passing of 1 µs counts: uptime, energy, and the ms of H3 and H4 (R575, R576). -/
def State.passUs (s : State) : State :=
  let p := s.power
  let s := if p.us + 1 = 1000000 then s.count .uptimeS 1 else s
  let s := s.count .energyJ ((p.energy + p.pEst) / 1000000000)
  let s := if p.hUs + 1 = 1000 then (s.histAdd 3 (tempBin p.tj) 1).histAdd 4 (powerBin p.pEst) 1 else s
  s.updPower fun q => { q with
    us := (p.us + 1) % 1000000, energy := (p.energy + p.pEst) % 1000000000, hUs := (p.hUs + 1) % 1000 }

/-- The governor at the end of a window (R554, R555, R568). -/
def State.govern (s : State) : State :=
  let p := s.power
  let target := min (s.rf 0x3000 0 10) p.pTherm
  let q := { p with cEff := min p.cEff target }
  let s := if p.throttle then s.count .throttleUs 1
    else if !p.droop && decide (p.duty < 64) then s.count .govUs 1 else s
  s.updPower fun _ => { q with
    duty := q.nextDuty s.floorMw (decide (target < p.cEff))
    ramping := if p.throttle || p.droop then p.ramping else p.ramping - 1
    sumEst := if s.tick.active then p.sumEst + p.pEst else p.sumEst
    nEst := if s.tick.active then p.nEst + 1 else p.nEst }

/-! Health and halts. -/

/-- The HEALTH interrupt is due on a rise (R570). -/
def State.health (s : State) (was is : Bool) : State := if !was && is then s.raise 4 else s

/-- The block halts (R567); the outputs fall as R537 sets out. -/
def State.halt (s : State) (c : HaltCause) : State :=
  if s.power.halted.isSome then s else
  let s := s.updPower fun p => { p with halted := some c }
  let s := { s with hb := false, tick := { s.tick with late := false } }
  ((s.count .halt 1).setErr .halt).health false true

/-- The voltages and counts of a report, with their extremes (R566, R577, R583). -/
def State.record (s : State) (r : SensorRep) : State :=
  let s := s.updPower fun p => { p with
    tj := r.tj, site := r.site, tjPeak := max p.tjPeak r.tj
    vddIx := r.vddIx, vddDep := r.vddDep, vddIo := r.vddIo, vixLow := min p.vixLow r.vddIx
    procMin := r.procMin, procMean := r.procMean }
  let g := s.log
  { s with log := { g with
      tjMax := max g.tjMax r.tj, vixMin := min g.vixMin r.vddIx, vixMax := max g.vixMax r.vddIx
      procMin := min g.procMin r.procMin, procMax := max g.procMax r.procMax } }

/-- The levels of R561, with their counters and interrupts. -/
def State.levels (s : State) : State :=
  let p := s.power
  let warn := decide (380 ≤ p.tj) || (p.warn && decide (368 ≤ p.tj))
  let hot := decide (400 ≤ p.tj) || (p.tthrot && decide (392 ≤ p.tj))
  let s := s.updPower fun q => { q with warn := warn, tthrot := hot }
  let s := if warn && !p.warn then s.count .thermWarn 1 else s
  let s := if hot && !p.tthrot then s.count .thermThrottle 1 else s
  (s.health p.warn warn).health p.tthrot hot

/-- THERM_TRIP_N (R563): asserted at 110 °C, until T_j falls below 100 °C. -/
def State.tripPin (s : State) (tj : Int) : State :=
  s.updPower fun p => { p with trip := decide (440 ≤ tj) || (p.trip && decide (400 ≤ tj)) }

/-! Pause and resume. -/

/-- Issue resumes (R559): transmitters start again, the timetable goes on. -/
def State.resumeIssue (s : State) : State :=
  if s.paused then s else
  let s := s.updPower fun p => { p with ramping := s.rf 0x3008 0 8 }
  let s := (List.range 32).foldl State.pumpLink s
  let s := s.pumpDone
  if s.tick.active then s.proceed false false else s

/-- The estimate before a pause begins (R555). -/
def Power.pausing (p : Power) : Power := if p.throttle || p.droop then p else { p with prePause := p.pEst }

/-! Commands. -/

/-- THROTTLE_ASSERT (R558). -/
def execThrottleAssert (s : State) : Host.Outcome State Fault Refusal :=
  let s := s.begin
  .next (if !s.powered || s.power.throttle then s else
    let s := s.updPower fun p => { p.pausing with throttle := true }
    if s.live then (s.count .throttle 1).lateLevel else s)

/-- THROTTLE_RELEASE (R559). -/
def execThrottleRelease (s : State) : Host.Outcome State Fault Refusal :=
  let s := s.begin
  .next (if !s.powered || !s.power.throttle then s else
    let s := s.updPower fun p => { p with throttle := false }
    if s.live then s.lateLevel.resumeIssue else s)

/-- GOVERNOR_WINDOW: the end of a 1 µs window with its occupancy (R550, R555). -/
def execGovernorWindow (occ : Occupancy) (s : State) : Host.Outcome State Fault Refusal :=
  let s := s.begin
  .next (if !s.cfgReady then s else
    let s := (s.updPower fun p => { p with pEst := s.estimate occ }).passUs
    if s.live then s.govern else s)

/-- SENSOR_REPORT (R561, R563, R566); while RST_N is low only THERM_TRIP_N follows it (R537). A trip counts once, where it asserts
THERM_TRIP_N or halts the block. -/
def execSensorReport (r : SensorRep) (s : State) : Host.Outcome State Fault Refusal :=
  let s := s.begin
  .next (if !s.powered then s else
    let tripped := decide (440 ≤ r.tj) && (!s.power.trip || s.power.halted.isNone)
    let s := s.tripPin r.tj
    if !s.cfgReady then s else
    let s := (s.record r).levels
    let s := if tripped then s.count .trip 1 else s
    if 440 ≤ r.tj then s.halt .thermal else s)

/-- P_THERM_UPDATE: a 100 µs mark (R562). -/
def execPThermUpdate (s : State) : Host.Outcome State Fault Refusal :=
  let s := s.begin
  .next (if !s.live then s else
    s.updPower fun p =>
      if 400 ≤ p.tj then { p with pTherm := max 72 (min p.pTherm (p.pEst / 250) - 50) }
      else if p.tj < 392 then { p with pTherm := min 1000 (p.pTherm + 50) }
      else p)

/-- DROOP (R564). -/
def execDroop (s : State) : Host.Outcome State Fault Refusal :=
  let s := s.begin
  .next (if !s.live || s.power.droop then s else
    ((s.updPower fun p => { p.pausing with droop := true }).count .droop 1).health false true)

/-- DROOP_CLEAR (R564, R559). -/
def execDroopClear (s : State) : Host.Outcome State Fault Refusal :=
  let s := s.begin
  .next (if !s.powered || !s.power.droop then s else
    let s := s.updPower fun p => { p with droop := false }
    if s.live then s.resumeIssue else s)

/-- SUPPLY_HALT (R565). -/
def execSupplyHalt (s : State) : Host.Outcome State Fault Refusal :=
  let s := s.begin
  .next (if s.cfgReady then s.halt .supply else s)

/-- INTERNAL_HALT (R567). -/
def execInternalHalt (s : State) : Host.Outcome State Fault Refusal :=
  let s := s.begin
  .next (if s.cfgReady then s.halt .internal else s)

/-- HEARTBEAT (R534). -/
def execHeartbeat (s : State) : Host.Outcome State Fault Refusal :=
  let s := s.begin
  .next { s with hb := s.live && s.fw.1 = 3 && !s.hb }

end Sys2Proof.Machine
end

