-- ==== Sys2Proof/Machine/CfgPort.lean ====
section
/-! DEFINITION. The CFG port as a writer (R494) and the reads that change state: every register write, by row of its own or through
REGISTER_WRITE, firmware loading (R542), ring validity (R488) and the wake doorbell (R45). -/
namespace Sys2Proof.Machine
open Sys2Proof

/-- IRQ_PEND written: ERR stays while its condition holds (R485). -/
def State.clearPend (s : State) (v : Word) : State :=
  let m := BitVec.ofNat 5 (fld v 0 5)
  { s with irqPend := s.irqPend &&& ~~~(if s.errDue then m &&& 0x17 else m) }

/-- ERR_STATUS written: XCH_LOST stays unless XCH_STATUS.STATE is JOINED (R525, R572). -/
def State.clearErrs (s : State) (v : Word) : State :=
  let m := BitVec.ofNat 17 (fld v 0 17)
  let m := if s.xch.st = 2 then m else m &&& ~~~(BitVec.ofNat 17 (2 ^ Err.xchLost.bit))
  { s with errs := s.errs &&& ~~~m }

/-- PWR_CAP written (R553, R570). -/
def State.writeCap (s : State) (v : Word) : State :=
  let want := fld v 0 10
  let kept := clampN 72 1000 want
  let was := s.power.clamped
  let s := (s.setReg 0x3000 (BitVec.ofNat 32 kept)).updPower fun p => { p with clamped := kept != want }
  s.health was (kept != want)

/-- PUBKEY_CTL.LOCK. -/
def State.keysLocked (s : State) : Bool := s.rf 0x0188 16 1 = 1

/-- PUBKEY_CTL written (R223). -/
def State.writeKeyCtl (s : State) (v : Word) : State := if s.keysLocked then s else s.setReg 0x0188 (s.stored 0x0188 v)

/-- PUBKEY_DATA written (R222, R223). WORD 8 to 15 names no word of a key: such a write changes nothing (assumption log 84). -/
def State.writeKey (s : State) (v : Word) : State :=
  let k := s.rf 0x0180 0 4
  if s.keysLocked then s else { s with keys := setAt s.keys k (setAt (s.keys.getD k []) (s.rf 0x0180 4 4) v) }

/-- FW_CTL.LOAD written 1 (R542). -/
def State.fwStart (s : State) : State :=
  let n := s.rf 0x01C8 0 24
  if !s.live || !([0, 4, 5, 6].contains s.fw.1) then s
  else if n = 0 || n % 4096 ≠ 0 || 8388608 < n then { s with fw := (4, 0, 0) }
  else ({ s with fw := (1, 0, 0) } : State).addRead .firmware (s.addr64 0x01C0) (n / 64)

/-- RING_CFGk written: sizes stand while VALID is 1; VALID rises with the ring's indices at 0, and falls only on a drained ring
(R488). -/
def State.writeRingCfg (s : State) (k : Nat) (v : Word) : State :=
  let off := 0x1050 + 0x20 * k
  let old := s.ringValid k
  let new := fld v 31 1 = 1
  let r := s.ring k
  let cq := if old then s.cqLog2 k else clampN 4 16 (fld v 8 5)
  let sq := if old then s.sqLog2 k else clampN 4 16 (fld v 0 5)
  let word := packWord [(31, 1, fld v 31 1), (30, 1, fld v 30 1), (8, 5, cq), (0, 5, sq)]
  if old && !new then
    if r.cqResv = 0 && (if k = 0 then s.engine == .quiesced else r.st == .quiesced) then s.setReg off word else s
  else
    let s := s.setReg off word
    if !old && new then (s.setRing k { r with head := 0, cqTail := 0, cqHead := 0, cqResv := 0 }).statusLine k else s

/-- A ring register written: the bases stand while VALID is 1. -/
def State.writeRingReg (s : State) (k place off : Nat) (v : Word) : State :=
  if place = 0x10 then s.writeRingCfg k v
  else if place = 0x14 || s.ringValid k then s
  else s.setReg off (s.stored off v)

/-- RB_CTL written (R592). -/
def State.writeRbCtl (s : State) (v : Word) : State :=
  if s.rb.st = 1 then (if v.getLsbD 1 then s.rbAbort else s) else if v.getLsbD 0 then s.rbStart else s

/-- A write to a register that IX7 stores, with what takes effect at once. -/
def State.writeStored (s : State) (off : Nat) (v : Word) : State :=
  if lockedOn off && s.engOn then s else
  let s := s.setReg off (s.stored off v)
  if off = 0x5004 then s.errIrq
  else if off = 0x5034 && s.fmUp then s.portUp
  else s

/-- A CFG write (R494): to an offset with no register, or to RO fields, it does nothing. DB_WAKE and LOG_CTL.RESTORE have rows of
their own, because what they read comes from host memory. -/
def State.writeReg (s : State) (off : Nat) (v : Word) : State :=
  if off = 0x0184 then s.writeKey v
  else if off = 0x0188 then s.writeKeyCtl v
  else if off = 0x01CC then (if v.getLsbD 0 then s.fwStart else s)
  else if off = 0x2028 then (if v.getLsbD 0 && s.live then s.startJoin else s)
  else if off = 0x3000 then s.writeCap v
  else if off = 0x5000 then s.clearErrs v
  else if off = 0x5008 then (if v.getLsbD 31 then { s with errFirst := none } else s)
  else if off = 0x5014 then s.clearPend v
  else if off = 0x5030 then s.portReset v
  else if off = 0x7008 then (if v.getLsbD 0 && s.live then (s.logSave 0).1 else s)
  else if 0x8000 ≤ off ∧ off ≤ 0x800C then (if s.rb.st = 1 then s else s.writeStored off v)
  else if off = 0x8010 then s.writeRbCtl v
  else match ringOff off with
    | some (k, place) => s.writeRingReg k place off v
    | none => s.writeStored off v

/-- An RC field returns to its reset value on the read that returns it (R494). -/
def State.readClear (s : State) (off : Nat) : State :=
  if off = 0x6004 then s.updPower fun p => { p with tjPeak := 0 }
  else if off = 0x600C then s.updPower fun p => { p with vixLow := 0xFFFF }
  else if 0x5040 ≤ off ∧ off < 0x50C0 ∧ off % 4 = 0 && s.hasPort ((off - 0x5040) / 4) then
    let c := (off - 0x5040) / 4
    s.setLink c { s.link c with resends := 0, failMax := 0 }
  else if 0x10000 ≤ off ∧ off < 0x20000 ∧ off % 0x800 = 0x10 then
    { s with trainErr := setAt s.trainErr ((off - 0x10000) / 0x800) (0, 0) }
  else s

/-! Commands. -/

/-- REGISTER_WRITE. -/
def execRegisterWrite (off : Nat) (v : Word) (s : State) : Host.Outcome State Fault Refusal :=
  let s := s.begin
  .next (if s.cfgReady then s.writeReg off v else s)

/-- DB_WAKE, with the rings as the read finds them (R45, R454, R543). -/
def execDbWake (v : List RingView) (s : State) : Host.Outcome State Fault Refusal :=
  let s := s.begin
  .next (if s.live && s.tick.idle && s.tick.edge == .none && s.fw.1 = 3 then s.doorbellRead (s.engine == .quiesced) v else s)

/-- RING_CFG_VALID: a write of `v` to RING_CFGk. -/
def execRingCfgValid (k : Nat) (v : Word) (s : State) : Host.Outcome State Fault Refusal :=
  let s := s.begin
  .next (if s.cfgReady && decide (k < 8) then s.writeRingCfg k v else s)

/-- TICK_COUNT_LO_READ (R49). -/
def execTickCountLoRead (s : State) : Host.Outcome State Fault Refusal :=
  let s := s.begin
  .next (if s.cfgReady then s.updTick fun t => { t with latchHi := BitVec.ofNat 32 (t.count / 2 ^ 32) } else s)

/-- RC_FIELD_READ: a read of the register at `off`. -/
def execRcFieldRead (off : Nat) (s : State) : Host.Outcome State Fault Refusal :=
  let s := s.begin
  .next (if s.cfgReady then s.readClear off else s)

/-- ERR_STATUS_CLEAR. -/
def execErrStatusClear (v : Word) (s : State) : Host.Outcome State Fault Refusal :=
  let s := s.begin
  .next (if s.cfgReady then s.clearErrs v else s)

/-- IRQ_PEND_CLEAR. -/
def execIrqPendClear (v : Word) (s : State) : Host.Outcome State Fault Refusal :=
  let s := s.begin
  .next (if s.cfgReady then s.clearPend v else s)

/-- PWR_CAP_WRITE. -/
def execPwrCapWrite (v : Word) (s : State) : Host.Outcome State Fault Refusal :=
  let s := s.begin
  .next (if s.cfgReady then s.writeCap v else s)

/-- PUBKEY_LOCK: a write of `v` to PUBKEY_CTL. -/
def execPubkeyLock (v : Word) (s : State) : Host.Outcome State Fault Refusal :=
  let s := s.begin
  .next (if s.cfgReady then s.writeKeyCtl v else s)

/-- FW_LOAD. -/
def execFwLoad (s : State) : Host.Outcome State Fault Refusal := .next s.begin.fwStart

/-- FW_LOAD_DONE with the outcome of reading and verifying (R542); RUNNING waits for the reserve. -/
def execFwLoadDone (r : FwResult) (s : State) : Host.Outcome State Fault Refusal :=
  let s := s.begin
  .next (if !s.live || !(s.fw.1 = 1 || s.fw.1 = 2) then s else
    let t := { s with reads := s.reads.filter fun (x : FmRead) => x.kind != RKind.firmware }
    match r with
    | .running major minor => if s.reserve then { t with fw := (3, major.toNat, minor.toNat) } else s
    | .badSignature => { t with fw := (5, 0, 0) }
    | .wrongBlock => { t with fw := (6, 0, 0) }
    | .loadError => { t with fw := (4, 0, 0) })

end Sys2Proof.Machine
end

