-- ==== Sys2Proof/Machine/Reset.lean ====
section
/-! DEFINITION. Resets and power states (R536 to R541, R545), with the recovery after a warm reset (R308, R349, R421, R448, R607). -/
namespace Sys2Proof.Machine
open Sys2Proof

/-! Cold reset and power. -/

/-- Everything returns to its reset value; the queue, the clock, the fuses and the pins that come from outside stand (R541, R537). -/
def State.coldReset (s : State) (powered : Bool) : State :=
  { State.inReset with
    pending := s.pending, now := s.now, free := s.free, build := s.build, fuses := s.fuses, powered := powered, wrapper := s.wrapper
    power := { Power.reset with throttle := s.power.throttle, trip := powered && s.powered && s.power.trip } }

/-- RST_N_ASSERT: RST_N falls (R541). -/
def execRstNAssert (s : State) : Host.Outcome State Fault Refusal :=
  .next (if s.powered then s.coldReset true else s.begin)

/-- The reset values that depend on the configuration and on the fuses: T1_LIMIT and FM_CFG.MASK (R275, R549). -/
def State.configRegs (s : State) : State :=
  (s.setReg 0x4010 (BitVec.ofNat 32 s.tierCap1)).setReg 0x5034 (packWord [(16, 16, 100), (0, s.build.fmPorts, 2 ^ s.build.fmPorts - 1)])

/-- RST_N_RELEASE: RST_N rises (R540); with the wrapper out of WS_BYPASS the manual gives it no effect (R536). -/
def execRstNRelease (s : State) : Host.Outcome State Fault Refusal :=
  let s := s.begin
  if !s.powered || s.rstN then .next s
  else match s.wrapper with
    | .bypass =>
      .next ((({ s with rstN := true, links := Vector.replicate 32 (Link.fresh .init) } : State).configRegs).count .coldReset 1)
    | _ => .fault .wrapperInOperation

/-- RESERVE_INIT_DONE (R540). -/
def execReserveInitDone (s : State) : Host.Outcome State Fault Refusal :=
  let s := s.begin
  .next (if s.cfgReady then { s with reserve := true } else s)

/-- POWER_LOSS: a rail leaves its range; nothing inside survives (R537, R539). -/
def execPowerLoss (s : State) : Host.Outcome State Fault Refusal :=
  .next (if s.powered then s.coldReset false else s.begin)

/-- POWER_UP: the rails are in range with RST_N low (R538). -/
def execPowerUp (s : State) : Host.Outcome State Fault Refusal :=
  .next (if s.powered then s.begin else s.coldReset true)

/-- WRAPPER_INSTRUCTION (R536): an instruction other than WS_BYPASS requires RST_N low. -/
def execWrapperInstruction (i : WrapperInstr) (s : State) : Host.Outcome State Fault Refusal :=
  let s := s.begin
  if !s.powered then .next s else
  match i with
  | .bypass => .next { s with wrapper := .bypass }
  | _ =>
    if s.rstN then .fault .wrapperInOperation else
    let fuses := match i with
      | .fuseProg c => if c < s.clusters then (if s.fuses.contains c then s.fuses else putKey id c s.fuses) else s.fuses
      | _ => s.fuses
    .next { s with wrapper := i, fuses := fuses }

/-! Warm reset. -/

/-- Drop queued writes to host memory; what is ordered behind them no longer waits for them. -/
def State.dropWrites (s : State) (p : HostWrite → Bool) : State :=
  let gone := (s.writes.filter p).map (·.id)
  let strike (w : HostWrite) : HostWrite := { w with after := w.after.filter fun i => !gone.contains i }
  { s with writes := (s.writes.filter fun (w : HostWrite) => !p w).map strike }

/-- Every link goes to DOWN and then to INIT; what was in flight goes out again or is lost with the platforms (R504, R545). What carried a
write-back or a page move is gone: pages are read again (R421). -/
def State.loseLinks (s : State) : State :=
  let back (w : HostWrite) : HostWrite := { w with issued := false }
  let again (x : FmRead) : FmRead := { x with port := 1, flits := [], sent := 0, failed := false }
  let kept (x : FmRead) : Bool := match x.kind with | .wagon _ | .writeBack _ | .rowRecords _ _ => false | _ => true
  let down (l : Link) : Link := { Link.fresh .init with resends := l.resends, failMax := l.failMax }
  { s with
    links := s.links.map down
    writes := (s.writes.filter fun w => !w.kind.carries).map back
    reads := (s.reads.filter kept).map again
    xch := { s.xch with st := 0, joining := false, joinGot := [] } }

/-- A request whose page moves of a pause or of a resume are under way, with every page still at its source: they begin anew with its first page
(R421, assumption log 37). -/
def Req.restarted (q : Req) : Req :=
  let from_ (pk : Bool) (src dst : List Nat) : Req :=
    if q.moves.isEmpty || src.length != q.pages.length || !q.moves.all (fun m => dst.contains m.2) then q
    else { q with pages := src.map fun p => (pk, p), moves := dst.zipIdx.map fun x => (x.2, x.1) }
  match q.st with
  | .pausing => from_ false q.own2 q.own4
  | .resuming => from_ true q.own4 q.own2
  | _ => q

/-- The page moves of a request begin anew: pages already copied are read again, and a manifest that waits for the others waits for them too
(R404, R421). -/
def State.restartMoves (s : State) (q : Req) : State :=
  let r := q.restarted
  let mine (x : FmRead) : Bool := match x.kind with | .pageMove sl _ => sl = q.slot | _ => false
  let old := (s.reads.filter mine).map (·.id)
  let has (i : Nat) : Bool := s.reads.any fun (x : FmRead) => x.kind == .pageMove q.slot i
  let n := s.nextId
  let s := (sortNat (r.moves.map (·.1))).foldl
    (fun s i => if has i then s else s.startPageMove q.slot i (r.pages.getD i (false, 0))) (s.setReq r)
  let new := (s.reads.filter fun x => mine x && decide (n ≤ x.id)).map (·.id)
  let wait (w : HostWrite) : HostWrite := if w.after.any old.contains then { w with after := w.after ++ new } else w
  { s with writes := s.writes.map wait }

/-- Slots whose trainable object has a DIRTY bit set or a write-back in flight (R308, R448). -/
def State.mixedSlots (s : State) : List Nat :=
  let dirty (slot : Nat) : Bool := s.tmap.any fun (r : TRun) => slotOf r.addr = slot && r.dirty != 0
  let flying (slot : Nat) : Bool := s.reads.any fun (x : FmRead) => match x.kind with | .writeBack a => a / 2 ^ 30 = slot | _ => false
  let trained (d : Dir) : Bool := match d.cur with | some c => c.trainable | none => false
  (s.dirs.filter fun (d : Dir) => trained d && (dirty d.slot || flying d.slot)).map (·.slot)

/-- What a decision wrote into its request, as it was before (R375, R383). -/
def Req.undecided (r q : Req) : Req :=
  if r.tag != q.tag then r else
  { r with
    st := q.st, pos := q.pos, hist := q.hist, drafts := q.drafts, lastTok := q.lastTok, endP := q.endP
    prod := q.prod, sinceIrq := q.sinceIrq }

/-- A queued write that the decision taken from the request q in the tick n made: a token record, or the PROD after it (R381, R383). -/
def State.wroteFor (s : State) (q : Req) (n : Nat) (w : HostWrite) : Bool :=
  match w.kind with
  | .tokenRecord slot => slot == q.slot && (w.data.drop 4).take 4 == leBytes 4 n
  | .prod => match s.reqAt q.slot with
    | some r => r.prod != q.prod && w.addr == q.ringBase.toNat && w.data == leBytes 4 r.prod.toNat
    | none => false
  | _ => false

/-- A line's HEAD tick whose boundary is still due counts as not run: the boundary is not due, its decisions and their records are
undone, the requests of the line's manifest are held (R421). -/
def State.undoLine (s : State) (l : Nat) : State :=
  let x := s.line l
  if !x.boundary then s else
  let undo := s.tick.undo.filter fun q => q.line = l
  let s := s.dropWrites fun w => undo.any fun q => s.wroteFor q x.headTick w
  let s := s.updLine l fun y => { y with boundary := false }
  let s := undo.foldl (fun (s : State) q => s.updReq q.slot fun r => r.undecided q) s
  (x.rows.map (·.slot)).foldl (fun (s : State) slot => s.updReq slot fun q => { q with held := true }) s

/-- Each line's interrupted HEAD tick is undone, that of a tick that the lenient policy ended among them. -/
def State.undoHead (s : State) : State := (s.undoLine 0).undoLine 1

/-- Row updates that have not flipped are discarded, and PENDING is cleared (R349). -/
def State.discardRows (s : State) : State :=
  let slots := (s.rowUps.map (·.slot)).eraseDups
  let gone (t : Taken) : Taken := match t.pend with | .rows _ _ _ _ => { t with pend := .rowsDiscarded } | _ => t
  slots.foldl State.syncPending { s with rowUps := [], flips := [], taken := s.taken.map gone }

/-- The tick machinery after a warm reset: the counter, the latched high word, the edges' times and what the last completed tick
recorded stand. -/
def TickSt.warm (t : TickSt) : TickSt :=
  { TickSt.reset with
    count := t.count, latchHi := t.latchHi, lastEdge := t.lastEdge, lastRise := t.lastRise, starts := t.starts
    prevRecs := t.prevRecs, prevMasks := t.prevMasks }

/-- A line after a warm reset: it starts anew from the manifest it last published, without a backward set (R448, R545). The busy beats of its
closed ticks stand, and those of a repeated attempt add to them (assumption log 78). -/
def LineSt.warm (l : LineSt) : LineSt := { l with last := none, back := [], layerAt := [], embTok := [] }

/-- The platforms are lost: what they alone held is gone, and the tiers' copies stand (R262, R308); a move or a conversion under way begins
anew with the first of its runs that are moving (R308). -/
def State.losePlatforms (s : State) : State :=
  let s := s.dropPriors fun _ => true
  { s with
    frames := []
    tmap := s.tmap.map fun r => { r with built := false }
    adMem := s.tierOld.foldl (fun m e => memPutAll m e.addr e.bytes) s.adMem
    tierOld := [] }

/-- The warm reset with its recovery. -/
def State.warmReset (s : State) : State :=
  let mixed := s.mixedSlots
  let s := s.losePlatforms.undoHead.loseLinks.discardRows
  let s := (s.reqs.filter fun q => !q.moves.isEmpty).foldl State.restartMoves s
  let s := s.dropWrites fun w => w.kind == .snapshot
  let redo (x : Snap) : Snap := { x with taken := false, writes := [], held := true }
  let s := { s with
    engine := .quiesced
    hb := false
    tick := s.tick.warm
    inputs := none
    lines := s.lines.map LineSt.warm
    digest := { s.digest with sent := none }
    cache := []
    results := []
    snaps := s.snaps.map redo }
  let s := s.count .warmReset 1
  let s := mixed.foldl State.poisonObject s
  let s := (s.finishWhere (fun p => p == .quiesce .engine || p == .quiesceSave) (ansOk 0 0 0)).finishWhere (fun p => p == .enable .engine) (ans 0x30 0)
  s.startMoves

/-- WARM_RST_N: the pin falls and rises (R545). Only RST_N ends a halt (R567). -/
def execWarmRstN (s : State) : Host.Outcome State Fault Refusal :=
  let s := s.begin
  .next (if s.live then s.warmReset else s)

end Sys2Proof.Machine
end

