-- ==== Sys2Proof/Machine/Dispatch.lean ====
section
/-! DEFINITION. The dispatch: one arm per command, one direct call of its meaning. -/
namespace Sys2Proof.Machine
open Sys2Proof

/-- The effect of a command on everything but the queue. -/
def exec (i : Instr) (s : State) : Host.Outcome State Fault Refusal :=
  match i with
  | .tickEdge t v => Sys2Proof.Machine.execTickEdge t v s
  | .heldEdgeRelease v => Sys2Proof.Machine.execHeldEdgeRelease v s
  | .strictOverrunStart v => Sys2Proof.Machine.execStrictOverrunStart v s
  | .tickHeader t hdr => Sys2Proof.Machine.execTickHeader t hdr s
  | .tickHeaderTimeout => Sys2Proof.Machine.execTickHeaderTimeout s
  | .idleTimeout => Sys2Proof.Machine.execIdleTimeout s
  | .quiesceEdgeTimeout => Sys2Proof.Machine.execQuiesceEdgeTimeout s
  | .timetableBuild t b => Sys2Proof.Machine.execTimetableBuild t b s
  | .stopOpen stop => Sys2Proof.Machine.execStopOpen stop s
  | .stopClose => Sys2Proof.Machine.execStopClose s
  | .stopDataFlit port tag payload => Sys2Proof.Machine.execStopDataFlit port tag payload s
  | .timetableWaitRelease fetchDone credit => Sys2Proof.Machine.execTimetableWaitRelease fetchDone credit s
  | .tickWorkDone t => Sys2Proof.Machine.execTickWorkDone t s
  | .xchReturnedFlit tag payload => Sys2Proof.Machine.execXchReturnedFlit tag payload s
  | .consignmentComplete num => Sys2Proof.Machine.execConsignmentComplete num s
  | .digestCompare => Sys2Proof.Machine.execDigestCompare s
  | .routingPlacement stop group => Sys2Proof.Machine.execRoutingPlacement stop group s
  | .ringHeaderRead hdrs => Sys2Proof.Machine.execRingHeaderRead hdrs s
  | .headDecision t group => Sys2Proof.Machine.execHeadDecision t group s
  | .tokenIrqHoldoffExpiry => Sys2Proof.Machine.execTokenIrqHoldoffExpiry s
  | .stepBoundary line hdrs => Sys2Proof.Machine.execStepBoundary line hdrs s
  | .ttlExpiry slot n => Sys2Proof.Machine.execTtlExpiry slot n s
  | .pageMoveLanded slot idx => Sys2Proof.Machine.execPageMoveLanded slot idx s
  | .runMoveRemap addr => Sys2Proof.Machine.execRunMoveRemap addr s
  | .conversionRemap slot => Sys2Proof.Machine.execConversionRemap slot s
  | .writeBackLanded addr => Sys2Proof.Machine.execWriteBackLanded addr s
  | .depotCrcMismatch addr wagonCheck train rereads readable => Sys2Proof.Machine.execDepotCrcMismatch addr wagonCheck train rereads readable s
  | .platformParityError addr train thirdInTick => Sys2Proof.Machine.execPlatformParityError addr train thirdInTick s
  | .loadBuildComplete slot image => Sys2Proof.Machine.execLoadBuildComplete slot image s
  | .releaseComplete slot => Sys2Proof.Machine.execReleaseComplete slot s
  | .rowUpdateWritten ring num records => Sys2Proof.Machine.execRowUpdateWritten ring num records s
  | .adaptStateReady slot => Sys2Proof.Machine.execAdaptStateReady slot s
  | .quiesceDrainDone scope => Sys2Proof.Machine.execQuiesceDrainDone scope s
  | .nop => Sys2Proof.Machine.execNop s
  | .negotiate => Sys2Proof.Machine.execNegotiate s
  | .enableEngine hdrs => Sys2Proof.Machine.execEnableEngine hdrs s
  | .enableRing => Sys2Proof.Machine.execEnableRing s
  | .enableTenant => Sys2Proof.Machine.execEnableTenant s
  | .enableTrain => Sys2Proof.Machine.execEnableTrain s
  | .quiesceEngine => Sys2Proof.Machine.execQuiesceEngine s
  | .quiesceRing => Sys2Proof.Machine.execQuiesceRing s
  | .quiesceTenant => Sys2Proof.Machine.execQuiesceTenant s
  | .quiesceTrain => Sys2Proof.Machine.execQuiesceTrain s
  | .snapshot => Sys2Proof.Machine.execSnapshot s
  | .snapshotLogbook => Sys2Proof.Machine.execSnapshotLogbook s
  | .snapshotCapturePoint => Sys2Proof.Machine.execSnapshotCapturePoint s
  | .snapshotWritesDone => Sys2Proof.Machine.execSnapshotWritesDone s
  | .openRequest param => Sys2Proof.Machine.execOpenRequest param s
  | .cancel => Sys2Proof.Machine.execCancel s
  | .pause => Sys2Proof.Machine.execPause s
  | .resume => Sys2Proof.Machine.execResume s
  | .setSampling => Sys2Proof.Machine.execSetSampling s
  | .loadAdapter => Sys2Proof.Machine.execLoadAdapter s
  | .tableLoad => Sys2Proof.Machine.execTableLoad s
  | .swapAdapterStage => Sys2Proof.Machine.execSwapAdapterStage s
  | .swapAdapterCommit => Sys2Proof.Machine.execSwapAdapterCommit s
  | .retireAdapter => Sys2Proof.Machine.execRetireAdapter s
  | .setQuota => Sys2Proof.Machine.execSetQuota s
  | .tableRowUpdate => Sys2Proof.Machine.execTableRowUpdate s
  | .adaptEnableAdapter => Sys2Proof.Machine.execAdaptEnableAdapter s
  | .adaptEnableRequest => Sys2Proof.Machine.execAdaptEnableRequest s
  | .loadSpecial image => Sys2Proof.Machine.execLoadSpecial image s
  | .unloadSpecial => Sys2Proof.Machine.execUnloadSpecial s
  | .linkInit port tag payload => Sys2Proof.Machine.execLinkInit port tag payload s
  | .flitReceive port tag payload => Sys2Proof.Machine.execFlitReceive port tag payload s
  | .ackReceive port seq nak par => Sys2Proof.Machine.execAckReceive port seq nak par s
  | .replayTimeout port => Sys2Proof.Machine.execReplayTimeout port s
  | .fmReadData id flit payload => Sys2Proof.Machine.execFmReadData id flit payload s
  | .fmReadError id => Sys2Proof.Machine.execFmReadError id s
  | .fmWriteAck t entries => Sys2Proof.Machine.execFmWriteAck t entries s
  | .fmTimeout id => Sys2Proof.Machine.execFmTimeout id s
  | .partnerLost => Sys2Proof.Machine.execPartnerLost s
  | .join => Sys2Proof.Machine.execJoin s
  | .joinComplete => Sys2Proof.Machine.execJoinComplete s
  | .joinTimeout => Sys2Proof.Machine.execJoinTimeout s
  | .portReset v => Sys2Proof.Machine.execPortReset v s
  | .dbWake v => Sys2Proof.Machine.execDbWake v s
  | .ringCfgValid k v => Sys2Proof.Machine.execRingCfgValid k v s
  | .tickCountLoRead => Sys2Proof.Machine.execTickCountLoRead s
  | .rcFieldRead off => Sys2Proof.Machine.execRcFieldRead off s
  | .errStatusClear v => Sys2Proof.Machine.execErrStatusClear v s
  | .irqPendClear v => Sys2Proof.Machine.execIrqPendClear v s
  | .complHoldoffExpiry => Sys2Proof.Machine.execComplHoldoffExpiry s
  | .pwrCapWrite v => Sys2Proof.Machine.execPwrCapWrite v s
  | .pubkeyLock v => Sys2Proof.Machine.execPubkeyLock v s
  | .fwLoad => Sys2Proof.Machine.execFwLoad s
  | .fwLoadDone r => Sys2Proof.Machine.execFwLoadDone r s
  | .logSave => Sys2Proof.Machine.execLogSave s
  | .logRestore half0 half1 => Sys2Proof.Machine.execLogRestore half0 half1 s
  | .rbStart => Sys2Proof.Machine.execRbStart s
  | .rbAbort => Sys2Proof.Machine.execRbAbort s
  | .rbCaptureDone changed unreachable parity hostBytes => Sys2Proof.Machine.execRbCaptureDone changed unreachable parity hostBytes s
  | .registerWrite off v => Sys2Proof.Machine.execRegisterWrite off v s
  | .rstNAssert => Sys2Proof.Machine.execRstNAssert s
  | .rstNRelease => Sys2Proof.Machine.execRstNRelease s
  | .reserveInitDone => Sys2Proof.Machine.execReserveInitDone s
  | .warmRstN => Sys2Proof.Machine.execWarmRstN s
  | .throttleAssert => Sys2Proof.Machine.execThrottleAssert s
  | .throttleRelease => Sys2Proof.Machine.execThrottleRelease s
  | .governorWindow occ => Sys2Proof.Machine.execGovernorWindow occ s
  | .sensorReport r => Sys2Proof.Machine.execSensorReport r s
  | .pThermUpdate => Sys2Proof.Machine.execPThermUpdate s
  | .droop => Sys2Proof.Machine.execDroop s
  | .droopClear => Sys2Proof.Machine.execDroopClear s
  | .supplyHalt => Sys2Proof.Machine.execSupplyHalt s
  | .internalHalt => Sys2Proof.Machine.execInternalHalt s
  | .heartbeat => Sys2Proof.Machine.execHeartbeat s
  | .tickBudgetExpiry t => Sys2Proof.Machine.execTickBudgetExpiry t s
  | .linkInitResend port => Sys2Proof.Machine.execLinkInitResend port s
  | .cacheFillDone slot row => Sys2Proof.Machine.execCacheFillDone slot row s
  | .powerLoss => Sys2Proof.Machine.execPowerLoss s
  | .powerUp => Sys2Proof.Machine.execPowerUp s
  | .wrapperInstruction w => Sys2Proof.Machine.execWrapperInstruction w s

end Sys2Proof.Machine
end

