-- ==== Sys2Proof/Safety.lean ====
section
/-! DEFINITION. What a safe run of the block is, and the vocabulary of the claims: what only a few commands touch, what a
completion leaves behind, when a descriptor command meets its descriptor. -/
namespace Sys2Proof.Machine
open Sys2Proof

/-- The adapter space is in its canonical form (R235). -/
def State.memOk (s : State) : Prop := Memory.wf s.adMem

/-- A step goes on: it answers a next state. -/
def goesOn (o : Host.Outcome State Fault Refusal) : Prop := ∃ t, o = .next t

/-- The test wrapper as R536 requires it: only with RST_N low is an instruction other than WS_BYPASS selected. -/
def State.wrapperQuiet (s : State) : Prop := s.wrapper = .bypass ∨ s.rstN = false

/-! What few commands touch. -/

/-- What no command but the resets, power and the test wrapper touches, and a halt, which others begin. -/
structure Kept where
  pending : List Instr
  build : Build
  fuses : List Nat
  powered : Bool
  rstN : Bool
  wrapper : WrapperInstr
  halted : Option HaltCause

/-- What few commands touch: the registers and keys, the negotiated versions, the engine's and the trains' states, the special
workings, the number of trains with error counts, TICK_ACK, the tick budget in force, the tick counter, STOP_VALID, and the model's clock. -/
structure Fixed where
  kept : Kept
  warmN : Bool
  now : Nat
  regs : List (Nat × Word)
  keys : List (List Word)
  negot : List Nat
  reserve : Bool
  engine : Scope
  trains : List (Scope × Nat)
  specials : List Special
  errTrains : Nat
  tickAck : Bool
  budget : Nat
  count : Nat
  pin : Option Nat

/-- That part of a state. -/
def fixed (s : State) : Fixed :=
  ⟨⟨s.pending, s.build, s.fuses, s.powered, s.rstN, s.wrapper, s.power.halted⟩,
    s.warmN, s.now, s.regs, s.keys, s.negot, s.reserve, s.engine, s.trains, s.specials, s.trainErr.length, s.tickAck, s.budget, s.tick.count, s.tick.pinStop⟩

/-- A state without its traffic with the host (writes, links, interrupts, rings, taken descriptors, the digest's record of them), its
errors, its counts, and the inputs of a build that begins: all that completions, interrupts, errors, counters and the end of a read's
checks (R50) touch. -/
def calm (s : State) : State :=
  { s with
    writes := [], links := Vector.replicate 32 (Link.fresh .down), nextId := 0, irqPend := 0, complAt := none, complDue := false
    tokenAt := none, tokenDue := false, taken := [], rings := Vector.replicate 8 ⟨0, 0, 0, 0, .enabled, 0⟩
    digest := ⟨[], [], [], [], [], none, true, [], [], none, 0, 0⟩, errs := 0, errFirst := none, errTick := 0, log := Logbook.reset
    unsol := [], inputs := none, free := 0 }

/-! Writes and completions. -/

/-- Writes to host memory of kind `k` that carry `data` to `addr` stand outstanding, cut as R528 cuts them. -/
def State.outstanding (s : State) (k : WKind) (addr : Nat) (data : List Byte) : Prop :=
  ∀ p ∈ cutWrite (data.length / 256 + 2) addr data, ∃ w ∈ s.writes, w.kind = k ∧ w.addr = p.1 ∧ w.data = p.2

/-- Completion record number `c` of the ring of descriptor `tk`, with answer `a`, stands outstanding in `t` at its place in the
completion ring (R462), as a step from `s` writes it. -/
def Recorded (s t : State) (tk : Taken) (a : Answer) (c : Word) : Prop :=
  t.outstanding (.completion tk.ring) (s.addr64 (0x1048 + 0x20 * tk.ring) + 32 * (c.toNat % 2 ^ s.cqLog2 tk.ring))
    (completionBytes (opcodeOf tk.bytes) (phaseOf c (s.cqLog2 tk.ring)) tk.ring (cookieOf tk.bytes) tk.num.toNat false a s.tick32)

/-- Descriptor `tk` is complete in `t`: it is taken no longer, and its record, number `c`, stands. -/
def AnsweredAt (s t : State) (tk : Taken) (a : Answer) (c : Word) : Prop :=
  (∀ x ∈ t.taken, ¬ (x.ring = tk.ring ∧ x.num = tk.num)) ∧ Recorded s t tk a c

/-- Descriptor `tk` is complete in `t`, with the next record of its ring in `s`. -/
def Answered (s t : State) (tk : Taken) (a : Answer) : Prop := AnsweredAt s t tk a (s.ring tk.ring).cqTail

/-- Descriptor `tk` waits in `t` for `p`. -/
def Parked (t : State) (tk : Taken) (p : Pend) : Prop := ∃ x ∈ t.taken, x.ring = tk.ring ∧ x.num = tk.num ∧ x.bytes = tk.bytes ∧ x.pend = p

/-- No other descriptor taken and not completed bears the ring and the number of `tk` (R463). -/
def Lone (s : State) (tk : Taken) : Prop := ∀ x ∈ s.taken, x.ring = tk.ring → x.num = tk.num → x = tk

/-- Every descriptor of `s` that waits for a reason in `p` is complete in `t` with answer `a`. -/
def AllAnswered (s t : State) (p : Pend → Prop) (a : Answer) : Prop := ∀ x ∈ s.taken, p x.pend → ∃ c, AnsweredAt s t x a c

/-- Of the request entries, `t` differs from `s` in that of `r` alone, which it holds. -/
def ReqNow (s t : State) (r : Req) : Prop := t.reqAt r.slot = some r ∧ ∀ k, k ≠ r.slot → t.reqAt k = s.reqAt k

/-- Of the directory records, `t` differs from `s` in that of `d` alone, which it holds. -/
def DirNow (s t : State) (d : Dir) : Prop := t.dirAt d.slot = some d ∧ ∀ k, k ≠ d.slot → t.dirAt k = s.dirAt k

/-- The descriptors each descriptor command applies; none for every other command. -/
def descForm : Instr → Option (DescBytes → Bool)
  | .nop => some fun b => opcodeOf b = 0x00
  | .negotiate => some fun b => opcodeOf b = 0x01
  | .enableEngine _ => some (scopeForm 2 0)
  | .enableRing => some (scopeForm 2 1)
  | .enableTenant => some (scopeForm 2 2)
  | .enableTrain => some (scopeForm 2 3)
  | .quiesceEngine => some (scopeForm 3 0)
  | .quiesceRing => some (scopeForm 3 1)
  | .quiesceTenant => some (scopeForm 3 2)
  | .quiesceTrain => some (scopeForm 3 3)
  | .snapshot => some fun b => opcodeOf b = 0x04 && dF b 8 0 1 = 0
  | .snapshotLogbook => some fun b => opcodeOf b = 0x04 && dF b 8 0 1 = 1
  | .openRequest _ => some fun b => opcodeOf b = 0x10
  | .cancel => some fun b => opcodeOf b = 0x11
  | .pause => some fun b => opcodeOf b = 0x12
  | .resume => some fun b => opcodeOf b = 0x13
  | .setSampling => some fun b => opcodeOf b = 0x14
  | .loadAdapter => some fun b => opcodeOf b = 0x20
  | .tableLoad => some fun b => opcodeOf b = 0x24
  | .swapAdapterStage => some fun b => opcodeOf b = 0x21 && !commitOf b
  | .swapAdapterCommit => some fun b => opcodeOf b = 0x21 && commitOf b
  | .retireAdapter => some fun b => opcodeOf b = 0x22
  | .setQuota => some fun b => opcodeOf b = 0x23
  | .tableRowUpdate => some fun b => opcodeOf b = 0x25
  | .adaptEnableAdapter => some fun b => opcodeOf b = 0x26 && dF b 8 0 1 = 0
  | .adaptEnableRequest => some fun b => opcodeOf b = 0x26 && dF b 8 0 1 = 1
  | .loadSpecial _ => some fun b => opcodeOf b = 0x27 && swLengthOf b != 0
  | .unloadSpecial => some fun b => opcodeOf b = 0x27 && swLengthOf b = 0
  | _ => none

/-- Command `i` meets its descriptor `tk`: the block can act, `tk` is the oldest descriptor not checked (R456), it has the
command's form, and it passes the checks G1 to G5 (R467). -/
def Facing (s : State) (i : Instr) (tk : Taken) : Prop :=
  s.live = true ∧ s.front = some tk ∧ (∃ f, descForm i = some f ∧ f tk.bytes = true) ∧ s.generalCheck tk.bytes = none

end Sys2Proof.Machine
end

