-- ==== Sys2Proof/Certificates/Slice0/Obligations.lean ====
section
/-! DEFINITION. The statements for the provers: what each command of the block does, what it leaves unchanged, and the rules of the whole
block. `fixed` and `calm` (Safety.lean) name what a command may leave alone; a statement that rests on a choice of the model names its
assumption-log entry. -/
open Sys2Proof Sys2Proof.Machine

/-! The machine as a whole. -/

/-- A step takes the command at the front of the queue and is that command's effect, with the queue's rest. -/
def Obligations.StepRunsFrontCommand : Prop :=
  ∀ (c : Instr) (rest : List Instr) (s : State), step { s with pending := c :: rest } = exec c { s with pending := rest }

/-- With nothing commanded the block idles: the model's choice (assumption log 6). No command touches the queue of the commands
behind it. -/
def Obligations.QueueStands : Prop :=
  (∀ s : State, s.pending = [] → step s = .next s)
  ∧ (∀ (c : Instr) (s t : State), exec c s = .next t → t.pending = s.pending)

/-- A command stops in exactly two cases, both of the test wrapper (R536): an instruction other than WS_BYPASS selected with RST_N
high, and RST_N released with such an instruction selected. Every other command in every other state goes on. -/
def Obligations.OnlyTheWrapperStops : Prop :=
  ∀ (c : Instr) (s : State),
    let stops := s.powered = true ∧ ((∃ w, c = .wrapperInstruction w ∧ w ≠ .bypass ∧ s.rstN = true)
      ∨ (c = .rstNRelease ∧ s.rstN = false ∧ s.wrapper ≠ .bypass))
    (stops → exec c s = .fault .wrapperInOperation) ∧ (¬ stops → goesOn (exec c s))

/-- Every step keeps the adapter space in its canonical form. -/
def Obligations.MemoryStaysCanonical : Prop :=
  ∀ s t : State, s.memOk → step s = .next t → t.memOk

/-- The adapter space of the reset state is canonical. -/
def Obligations.ResetMemoryCanonical : Prop :=
  State.reset.memOk

/-- Only RST_N ends a halt (R567): from a halted state, whatever the command, the block is halted from the same cause afterwards,
unless RST_N fell or the rails were lost or came back. -/
def Obligations.OnlyResetEndsHalt : Prop :=
  ∀ (c : Instr) (s t : State) (h : HaltCause), s.power.halted = some h → exec c s = .next t →
    t.power.halted = some h ∨ c = .rstNAssert ∨ c = .powerLoss ∨ c = .powerUp

/-- The tick counter increments by one at each TICK_ACK and does not otherwise move (R28); the exceptions are its joining the other
members' counts (R520) and RST_N, which sets it to 0 (R541). -/
def Obligations.TickCounterMovesAtAck : Prop :=
  ∀ (c : Instr) (s t : State), exec c s = .next t →
    t.tick.count = s.tick.count + (if t.tickAck then 1 else 0)
    ∨ (c = .joinComplete ∧ s.tick.count ≤ t.tick.count ∧ t.tickAck = false)
    ∨ ((c = .rstNAssert ∨ c = .powerLoss ∨ c = .powerUp) ∧ t.tick.count = 0)

/-- The RW registers change only where CFG writes them, RST_N falls or rises, or the rails go or come (R541, R545, R587):
WARM_RST_N, ticks, descriptors, links and monitors leave every one as it stands. The versions in force change only by NEGOTIATE,
RST_N and power (R478, R479, R541). The configuration never changes, and the fuses only where the test wrapper programs one with
RST_N low, which cannot be undone (R536, R573). -/
def Obligations.SoftwareStateChanges : Prop :=
  (∀ (c : Instr) (s t : State), exec c s = .next t →
    (t.regs = s.regs ∧ t.keys = s.keys) ∨ (∃ off v, c = .registerWrite off v) ∨ (∃ k v, c = .ringCfgValid k v)
    ∨ (∃ v, c = .pwrCapWrite v) ∨ (∃ v, c = .pubkeyLock v) ∨ c = .rstNAssert ∨ c = .rstNRelease ∨ c = .powerLoss ∨ c = .powerUp)
  ∧ (∀ (c : Instr) (s t : State), exec c s = .next t →
    t.negot = s.negot ∨ c = .negotiate ∨ c = .rstNAssert ∨ c = .powerLoss ∨ c = .powerUp)
  ∧ (∀ (c : Instr) (s t : State), exec c s = .next t →
    t.build = s.build ∧ (∀ x ∈ s.fuses, x ∈ t.fuses) ∧
    (t.fuses = s.fuses ∨ ∃ f, c = .wrapperInstruction (.fuseProg f) ∧ s.rstN = false ∧ s.powered = true))

/-- The register files keep their shape: exactly the RW registers of the tables, in their order (R587), 16 keys of 8 words (R222),
and the states and error counts of 32 trains, whatever the build. Reset has that shape and every step keeps it. -/
def Obligations.RegisterFilesStand : Prop :=
  let shape (s : State) : Prop := s.regs.map (·.1) = resetRegs.map (·.1) ∧ s.keys.length = 16 ∧ (∀ k ∈ s.keys, k.length = 8)
    ∧ s.trains.length = 32 ∧ s.trainErr.length = 32
  shape State.reset ∧ ∀ s t : State, shape s → step s = .next t → shape t

/-! Resets, power and the test wrapper. -/

/-- RST_N falls: everything returns to its reset value but what stands outside RST_N's reach, the fuses and pins among it, and so it is
when a rail leaves its range and when the rails come back with RST_N low (R537 to R541). The queue, the clock and the counter of free
values are the model's own. THERM_TRIP_N stays with RST_N (R563) and is lost with the rails (the model's choice, assumption log 7). The
reserve is initialised (R540): the flag of FW_STATUS rises and nothing else changes. The wrapper (R536): WS_BYPASS at any time, any other
instruction with RST_N low; FUSE_PROG adds its cluster to the fuses, which the build must have, and nothing takes one away (R573).
Completing here: RST_N_ASSERT, RESERVE_INIT_DONE, POWER_LOSS, POWER_UP, WRAPPER_INSTRUCTION. -/
def Obligations.ResetsAndRails : Prop :=
  (∀ s : State,
    let cold (p trip : Bool) : State := { State.inReset with
      pending := s.pending, now := s.now, free := s.free, build := s.build, fuses := s.fuses, powered := p, wrapper := s.wrapper
      power := { Power.reset with throttle := s.power.throttle, trip := trip } }
    (s.powered = true → exec .rstNAssert s = .next (cold true s.power.trip))
    ∧ (s.powered = true → exec .powerLoss s = .next (cold false false))
    ∧ (s.powered = false → exec .powerUp s = .next (cold true false)))
  ∧ (∀ s : State, s.cfgReady = true → exec .reserveInitDone s = .next { s with tickAck := false, stopDone := [], reserve := true })
  ∧ (∀ (w : WrapperInstr) (s : State), s.powered = true → (w = .bypass ∨ s.rstN = false) →
    ∃ f, exec (.wrapperInstruction w) s = .next { s with tickAck := false, stopDone := [], wrapper := w, fuses := f }
      ∧ (∀ c, c ∈ f ↔ c ∈ s.fuses ∨ (w = .fuseProg c ∧ c < s.clusters)))

/-- RST_N rises with the wrapper in WS_BYPASS (R540): every link enters INIT, T1_LIMIT and FM_CFG.MASK take the values of the
configuration (R275, R549), CNT_COLD_RESET counts, and nothing else changes. Completing here: RST_N_RELEASE. -/
def Obligations.ReleaseOfReset : Prop :=
  ∀ s : State, s.powered = true → s.rstN = false → s.wrapper = .bypass → ∃ t, exec .rstNRelease s = .next t ∧
    t = { s with
      rstN := true, tickAck := false, stopDone := [], links := Vector.replicate 32 (Link.fresh .init), regs := t.regs, log := t.log }
    ∧ (∀ off, off ≠ 0x4010 → off ≠ 0x5034 → t.reg off = s.reg off)
    ∧ (s.regs.map (·.1) = resetRegs.map (·.1) →
        t.reg 0x4010 = BitVec.ofNat 32 t.tierCap1
        ∧ t.reg 0x5034 = packWord [(16, 16, 100), (0, t.build.fmPorts, 2 ^ t.build.fmPorts - 1)])
    ∧ t.cntVal .coldReset = min (s.cntVal .coldReset + 1) (2 ^ 64 - 1)
    ∧ (∀ c : Cnt, c ≠ .coldReset → t.cntVal c = s.cntVal c) ∧ t.log = { s.log with cnt := t.log.cnt }

/-- R541: after RST_N has fallen and risen, every RW register reads its reset value, and the tick counter is 0, no version is in force,
PUBKEY_CTL.LOCK is clear, no firmware is loaded, the adapter space is empty and the engine is QUIESCED. Completing here: RST_N_ASSERT,
RST_N_RELEASE. -/
def Obligations.ResetLeaves : Prop :=
  ∀ s : State, s.powered = true → s.wrapper = .bypass → ∃ t u, exec .rstNAssert s = .next t ∧ exec .rstNRelease t = .next u ∧
    u.cfgReady = true
    ∧ (∀ off, off ≠ 0x4010 → off ≠ 0x5034 → u.reg off = State.reset.reg off)
    ∧ u.reg 0x4010 = BitVec.ofNat 32 u.tierCap1
    ∧ u.reg 0x5034 = packWord [(16, 16, 100), (0, u.build.fmPorts, 2 ^ u.build.fmPorts - 1)]
    ∧ u.readReg 0x2010 = 0 ∧ u.readReg 0x2014 = 0 ∧ u.tick.count = 0
    ∧ u.readReg 0x0400 = 0 ∧ u.negot = [0, 0, 0, 0] ∧ fld (u.readReg 0x0188) 16 1 = 0
    ∧ u.fw = (0, 0, 0) ∧ u.adMem = [] ∧ u.dirs = [] ∧ u.charges = [] ∧ u.tmap = [] ∧ u.tenants = []
    ∧ u.reqs = [] ∧ u.gens = [] ∧ u.engine = .quiesced
    ∧ (∀ off, off % 4 = 0 → off < 0x20000 → u.readReg off =
        ({ State.reset with build := s.build, fuses := s.fuses, regs := u.regs, power := u.power, free := s.free } : State).readReg off)

/-- WARM_RST_N (R545): what it keeps and what it loses. The platforms are lost with the frames, so that a dirty wagon reads as its tier
holds it, and no other byte of the adapter space changes (R262, R308). A HEAD tick of a line whose boundary is still due counts as not
run, and every request of that line's manifest is held; where none is due and no page is moving, no request changes (R421). Completing
here: WARM_RST_N. -/
def Obligations.WarmResetKeeps : Prop :=
  ∀ s : State, s.live = true → ∃ t, exec .warmRstN s = .next t ∧
    t.regs = s.regs ∧ t.keys = s.keys ∧ t.negot = s.negot ∧ t.fw = s.fw ∧ t.tick.count = s.tick.count ∧ t.gens = s.gens
    ∧ t.reserve = s.reserve ∧ t.fuses = s.fuses ∧ t.trains = s.trains ∧ t.tenants = s.tenants
    ∧ ((s.line 0).boundary = false → (s.line 1).boundary = false → (∀ q ∈ s.reqs, q.moves = []) → t.reqs = s.reqs)
    ∧ (∀ l, l < 2 → (s.line l).boundary = true → ∀ m ∈ (s.line l).rows, ∀ q ∈ t.reqs, q.slot = m.slot → q.held = true) ∧ t.charges = s.charges ∧ t.specials = s.specials
    ∧ t.engine = .quiesced ∧ t.tick.active = false ∧ t.tick.stops = [] ∧ t.tick.cur = none ∧ t.tick.next = none ∧ t.tick.pinStop = none
    ∧ t.inputs = none ∧ t.frames = [] ∧ t.tierOld = []
    ∧ (s.tierOld = [] → (∀ d ∈ s.dirs, d.prior = none) → t.adMem = s.adMem)
    ∧ (s.memOk →
        (∀ a, a < 2 ^ 48 → (∀ e ∈ s.tierOld, ¬ (e.addr ≤ a ∧ a < e.addr + e.bytes.length)) → memGet t.adMem a = memGet s.adMem a)
        ∧ (s.tierOld.Pairwise (fun e f => e.addr + e.bytes.length ≤ f.addr ∨ f.addr + f.bytes.length ≤ e.addr) →
            ∀ e ∈ s.tierOld, memGetAll t.adMem e.addr e.bytes.length = e.bytes))
    ∧ t.xch.st = 0 ∧ t.rowUps = [] ∧ t.cntVal .warmReset = min (s.cntVal .warmReset + 1) (2 ^ 64 - 1)
    ∧ (∀ c, (t.link c).st ≠ .up) ∧ (∀ c, (t.link c).resends = (s.link c).resends ∧ (t.link c).failMax = (s.link c).failMax)

/-! Power, thermal limits and health. -/

/-- THROTTLE_N (R558, R559): its fall pauses issue and counts CNT_THROTTLE; a falling and rising VDD_IX does so with DROOP (R564) and
counts CNT_DROOP; the last of the two to go lets issue resume. Completing here: THROTTLE_ASSERT, THROTTLE_RELEASE, DROOP, DROOP_CLEAR. -/
def Obligations.PausesOfIssue : Prop :=
  ∀ s : State, s.live = true →
    (s.power.throttle = false → ∃ t, exec .throttleAssert s = .next t ∧ t.power.throttle = true ∧ t.paused = true
      ∧ t.cntVal .throttle = min (s.cntVal .throttle + 1) (2 ^ 64 - 1) ∧ (s.tick.active = true → t.tick.late = true)
      ∧ t = { s with tickAck := false, stopDone := [], power := t.power, log := t.log, tick := { s.tick with late := t.tick.late } })
    ∧ (s.power.throttle = true → ∃ t, exec .throttleRelease s = .next t ∧ t.power.throttle = false
      ∧ (s.power.droop = true → t.paused = true ∧ t.links = s.links)
      ∧ (s.power.droop = false → t.paused = false ∧ t.power.ramping = s.rf 0x3008 0 8) ∧ fixed t = fixed s.begin)
    ∧ (s.power.droop = false → ∃ t, exec .droop s = .next t ∧ t.power.droop = true ∧ t.paused = true
      ∧ t.cntVal .droop = min (s.cntVal .droop + 1) (2 ^ 64 - 1) ∧ t.irqPend.getLsbD 4 = true ∧ fixed t = fixed s.begin)
    ∧ (s.power.droop = true → ∃ t, exec .droopClear s = .next t ∧ t.power.droop = false
      ∧ (s.power.throttle = false → t.paused = false ∧ t.power.ramping = s.rf 0x3008 0 8) ∧ fixed t = fixed s.begin)

/-- The governor at the end of a window (R551, R554, R555). With P the estimate of the window, C the effective cap, which a lower target
has already brought down, F the floor, all in milliwatts, and D the duty: outside a pause and a ramp, D falls to max(1, D × (C − F) ÷ (P −
F)) when P > C, rises by 1 when P ≤ C − 2 W and D < 64, and otherwise stands; in a pause it never rises. P_est of R551 for one window of
1,300 cycles: F is 18 W and 0.4 W per °C of T_j above 85 °C; to it come, by their occupancy, each train's coefficient, here given over the
car-beats of 16 cars in 325 beats, each channel's and each port's. In milliwatts, times 26,000. Completing here: GOVERNOR_WINDOW. -/
def Obligations.GovernorWindows : Prop :=
  (∀ (o : Occupancy) (s : State), s.live = true → ∃ t, exec (.governorWindow o) s = .next t ∧
    let P := s.estimate o; let F := s.floorMw; let D := s.power.duty
    let C := 250 * min s.power.cEff (min (s.rf 0x3000 0 10) s.power.pTherm)
    t.power.pEst = P ∧ 250 * t.power.cEff = C ∧ fixed t = fixed s.begin ∧ calm t = calm { s.begin with power := t.power }
    ∧ ((s.paused = true ∨ 0 < s.power.ramping) → t.power.duty = D ∨ t.power.duty = max 1 (D * (C - F) / (s.power.prePause - F)))
    ∧ (s.paused = false → s.power.ramping = 0 →
        (C < P → t.power.duty = max 1 (D * (C - F) / (P - F)))
        ∧ (P ≤ C → P + 2000 ≤ C → D < 64 → t.power.duty = D + 1)
        ∧ (P ≤ C → ¬ (P + 2000 ≤ C ∧ D < 64) → t.power.duty = D)))
  ∧ (∀ (o : Occupancy) (s : State),
    let terms := 5 * (4500 * o.mac8 + 5000 * o.mac4 + 4000 * o.bf16 + 1500 * o.other) + 8 * 586 * o.depot
      + 20 * (900 * o.fm + 1500 * o.rows + 2000 * o.xch)
    s.floorMw = 18000 + 100 * (s.power.tj - 340).toNat
    ∧ 26000 * (s.estimate o - s.floorMw) ≤ terms ∧ terms < 26000 * (s.estimate o - s.floorMw + 1))

/-- P_therm (R562), in 0.25 W with T_j in 0.25 °C: it is 250 W after RST_N; a 100 µs mark at 100 °C or more sets it to max(18 W,
min(P_therm, P_est) − 12.5 W), one below 98 °C to min(250 W, P_therm + 12.5 W), and between it holds. Completing here: P_THERM_UPDATE. -/
def Obligations.ThermalLimit : Prop :=
  State.reset.power.pTherm = 1000 ∧
  ∀ s : State, s.live = true → ∃ t, exec .pThermUpdate s = .next t ∧
    t = { s with tickAck := false, stopDone := [], power := { s.power with pTherm := t.power.pTherm } }
    ∧ (400 ≤ s.power.tj → t.power.pTherm = max 72 (min s.power.pTherm (s.power.pEst / 250) - 50))
    ∧ (s.power.tj < 392 → t.power.pTherm = min 1000 (s.power.pTherm + 50))
    ∧ (392 ≤ s.power.tj → s.power.tj < 400 → t.power.pTherm = s.power.pTherm)

/-- A report of the sensors (R561, R563, R566), in 0.25 °C and mV: the warn level is set at 95 °C and cleared below 92 °C, the throttle
level at 100 °C and below 98 °C, each with its count at each setting; 110 °C trips THERM_TRIP_N, which then stays until below 100 °C, and
halts the block with cause THERMAL unless it is halted; CNT_TRIP counts a trip once. The monitors' values and the extremes follow the report. Completing here:
SENSOR_REPORT. -/
def Obligations.SensorLevels : Prop :=
  ∀ (r : SensorRep) (s : State), s.cfgReady = true → ∃ t, exec (.sensorReport r) s = .next t ∧
    t.power.tj = r.tj ∧ t.power.site = r.site ∧ t.power.vddIx = r.vddIx ∧ t.power.vddDep = r.vddDep ∧ t.power.vddIo = r.vddIo
    ∧ t.power.procMin = r.procMin ∧ t.power.procMean = r.procMean
    ∧ t.power.tjPeak = max s.power.tjPeak r.tj ∧ t.power.vixLow = min s.power.vixLow r.vddIx
    ∧ t.log.tjMax = max s.log.tjMax r.tj ∧ t.log.vixMin = min s.log.vixMin r.vddIx ∧ t.log.vixMax = max s.log.vixMax r.vddIx
    ∧ (t.power.warn = true ↔ 380 ≤ r.tj ∨ (s.power.warn = true ∧ 368 ≤ r.tj))
    ∧ (t.power.tthrot = true ↔ 400 ≤ r.tj ∨ (s.power.tthrot = true ∧ 392 ≤ r.tj))
    ∧ t.cntVal .thermWarn = min (s.cntVal .thermWarn + (if t.power.warn = true ∧ s.power.warn = false then 1 else 0)) (2 ^ 64 - 1)
    ∧ t.cntVal .thermThrottle = min (s.cntVal .thermThrottle + (if t.power.tthrot = true ∧ s.power.tthrot = false then 1 else 0)) (2 ^ 64 - 1)
    ∧ (t.power.trip = true ↔ 440 ≤ r.tj ∨ (s.power.trip = true ∧ 400 ≤ r.tj))
    ∧ (440 ≤ r.tj → s.power.halted = none → t.power.halted = some .thermal)
    ∧ (r.tj < 440 → t.power.halted = s.power.halted)
    ∧ t.cntVal .trip = min (s.cntVal .trip + (if 440 ≤ r.tj ∧ (s.power.trip = false ∨ s.power.halted = none) then 1 else 0)) (2 ^ 64 - 1)
    ∧ t.regs = s.regs ∧ t.adMem = s.adMem ∧ t.pending = s.pending

/-- SUPPLY and INTERNAL halts (R565, R567): the block, not halted before, is halted from that cause and can act no longer; HB and
TICK_LATE fall, ERR_STATUS.HALT is set, CNT_HALT counts, HEALTH is due (R570); registers, tables and the adapter space stand. HB (R534):
at each 1,300 cycles it toggles while the firmware runs and the block is not halted nor in reset, and is low otherwise. Completing here:
SUPPLY_HALT, INTERNAL_HALT, HEARTBEAT. -/
def Obligations.HaltsAndHeartbeat : Prop :=
  (∀ (c : Instr) (h : HaltCause) (s : State), (c = .supplyHalt ∧ h = .supply) ∨ (c = .internalHalt ∧ h = .internal) →
    s.cfgReady = true → s.power.halted = none → ∃ t, exec c s = .next t ∧
      t.power = { s.power with halted := some h } ∧ t.live = false ∧ t.hb = false ∧ t.tick = { s.tick with late := false }
      ∧ t.err .halt = true ∧ (∀ e, s.err e = true → t.err e = true) ∧ (∀ e, e ≠ .halt → s.err e = false → t.err e = false)
      ∧ t.cntVal .halt = min (s.cntVal .halt + 1) (2 ^ 64 - 1) ∧ t.irqPend.getLsbD 4 = true
      ∧ calm t = calm { s.begin with power := t.power, hb := false, tick := t.tick })
  ∧ (∀ s : State, ∃ t, exec .heartbeat s = .next t ∧ t = { s with tickAck := false, stopDone := [], hb := t.hb }
    ∧ (s.live = true → s.fw.1 = 3 → t.hb = !s.hb) ∧ (s.live = false ∨ s.fw.1 ≠ 3 → t.hb = false))

/-! The CFG port. -/

/-- A CFG write to an RW register that has no rule of its own, not locked by an enabled engine nor held by a BUSY capture: the register
holds the word as its table stores it, every other register stands, and but for what ERR_MASK and FM_CFG let through at once nothing else
changes. What the registers store: bits 11:0 of an address base read 0 (R275, R487, R585), a length, count or width outside its range is
stored at the range's end (R275, R487, R549, R591), and LAYERS_M1 stands while the engine is enabled (R47). IX7 ignores writes where no
register stands (R494) and, while the engine is enabled, to the registers that the engine locks (R86, R275, R387, R423, R450, R488, R549,
R585); and every write while CFG is not ready (R495). Completing here: REGISTER_WRITE. -/
def Obligations.RegisterWrites : Prop :=
  (∀ (off : Nat) (v : Word) (s : State), s.cfgReady = true → s.regs.map (·.1) = resetRegs.map (·.1) → off ∈ s.regs.map (·.1) →
    ringOff off = none → off ≠ 0x0188 → off ≠ 0x3000 → (off < 0x8000 ∨ s.rb.st ≠ 1) →
    (lockedOn off = false ∨ s.engine = .quiesced) → ∃ t, exec (.registerWrite off v) s = .next t ∧
      t.reg off = s.stored off v ∧ (∀ b, b ≠ off → t.reg b = s.reg b)
      ∧ (off ≠ 0x5004 → off ≠ 0x5034 → t = { s with tickAck := false, stopDone := [], regs := t.regs })
      ∧ (off ≠ 0x5034 → calm t = calm { s.begin with regs := t.regs })
      ∧ t.keys = s.keys ∧ t.engine = s.engine ∧ t.tick = s.tick ∧ t.negot = s.negot ∧ t.adMem = s.adMem ∧ t.pending = s.pending)
  ∧ (∀ (v : Word) (s : State),
    (∀ off ∈ [0x1000, 0x1040, 0x1048, 0x4020, 0x4030, 0x4040, 0x40C4, 0x40D0, 0x7000],
      s.stored off v = BitVec.ofNat 32 (4096 * (v.toNat / 4096)))
    ∧ (fld (s.stored 0x100C v) 0 9 = max 1 (min 256 (fld v 0 9)))
    ∧ (fld (s.stored 0x800C v) 0 9 = max 1 (min 256 (fld v 0 9)))
    ∧ (s.tierCap1 < 2 ^ 20 → (s.stored 0x4010 v).toNat = min (fld v 0 20) s.tierCap1)
    ∧ (fld (s.stored 0x5034 v) 16 16 = max 1 (fld v 16 16))
    ∧ (∀ j, s.build.fmPorts ≤ j → j < 16 → fld (s.stored 0x5034 v) j 1 = 0)
    ∧ (s.engine ≠ .quiesced → fld (s.stored 0x2000 v) 22 10 = fld (s.reg 0x2000) 22 10)
    ∧ (s.engine = .quiesced → fld (s.stored 0x2000 v) 22 10 = fld v 22 10)
    ∧ fld (s.stored 0x2000 v) 6 16 = fld v 6 16 ∧ fld (s.stored 0x2000 v) 0 6 = 0)
  ∧ (∀ (off : Nat) (v : Word) (s : State),
    (s.cfgReady = false → exec (.registerWrite off v) s = .next s.begin)
    ∧ (lockedOn off = true → s.engine ≠ .quiesced → exec (.registerWrite off v) s = .next s.begin)
    ∧ (s.regs.map (·.1) = resetRegs.map (·.1) → off ∉ resetRegs.map (·.1) →
        off ∉ [0x0184, 0x01CC, 0x2028, 0x5000, 0x5008, 0x5014, 0x5030, 0x7008, 0x8010] →
        exec (.registerWrite off v) s = .next s.begin))

/-- R223: while PUBKEY_CTL.LOCK is 1, IX7 ignores writes to PUBKEY_DATA and PUBKEY_CTL.VALID, and WARM_RST_N does not clear the lock.
Completing here: PUBKEY_LOCK, REGISTER_WRITE, WARM_RST_N. -/
def Obligations.KeyLock : Prop :=
  ∀ (v : Word) (s : State), fld (s.reg 0x0188) 16 1 = 1 →
    exec (.registerWrite 0x0184 v) s = .next s.begin ∧ exec (.registerWrite 0x0188 v) s = .next s.begin
    ∧ exec (.pubkeyLock v) s = .next s.begin ∧ ∀ t, exec .warmRstN s = .next t → fld (t.reg 0x0188) 16 1 = 1

/-- The keys while they are not locked (R222): PUBKEY_CTL takes VALID and LOCK; PUBKEY_DATA takes word PUBKEY_SEL.WORD, 0 to 7, of slot
PUBKEY_SEL.SLOT and reads it back, and no other word or slot changes. Completing here: PUBKEY_LOCK, REGISTER_WRITE. -/
def Obligations.KeysWritten : Prop :=
  ∀ (v : Word) (s : State), s.cfgReady = true → fld (s.reg 0x0188) 16 1 = 0 → s.regs.map (·.1) = resetRegs.map (·.1) →
    (∃ t, exec (.pubkeyLock v) s = .next t ∧ t = { s with tickAck := false, stopDone := [], regs := t.regs }
      ∧ fld (t.reg 0x0188) 0 16 = fld v 0 16 ∧ fld (t.reg 0x0188) 16 1 = fld v 16 1 ∧ ∀ b, b ≠ 0x0188 → t.reg b = s.reg b)
    ∧ (s.keys.length = 16 → (∀ k ∈ s.keys, k.length = 8) → fld (s.reg 0x0180) 4 4 < 8 →
      ∃ t, exec (.registerWrite 0x0184 v) s = .next t ∧ t = { s with tickAck := false, stopDone := [], keys := t.keys }
        ∧ t.readReg 0x0184 = v
        ∧ ∀ k w, k < 16 → w < 8 → ¬ (k = fld (s.reg 0x0180) 0 4 ∧ w = fld (s.reg 0x0180) 4 4) →
            (t.keys.getD k []).getD w 0 = (s.keys.getD k []).getD w 0)

/-- R49: a read of TICK_COUNT_LO latches the high word, a read of TICK_COUNT_HI returns the latched value, and so a LO-then-HI pair forms
one count. Completing here: TICK_COUNT_LO_READ. -/
def Obligations.CountLatches : Prop :=
  (∀ s : State, s.cfgReady = true → s.readReg 0x2014 = s.tick.latchHi) ∧
  ∀ s : State, s.cfgReady = true → ∃ t, exec .tickCountLoRead s = .next t
    ∧ t = { s with tickAck := false, stopDone := [], tick := { s.tick with latchHi := t.tick.latchHi } }
    ∧ 2 ^ 32 * (t.readReg 0x2014).toNat + (s.readReg 0x2010).toNat = s.tick.count % 2 ^ 64

/-- A read of an RC field returns it to its reset value, 0 but for VIX_LOW (R494, R549, R583, R590), and clears no other. Completing here:
RC_FIELD_READ. -/
def Obligations.ReadClears : Prop :=
  ∀ s : State, s.cfgReady = true →
    exec (.rcFieldRead 0x6004) s = .next { s with tickAck := false, stopDone := [], power := { s.power with tjPeak := 0 } }
    ∧ exec (.rcFieldRead 0x600C) s = .next { s with tickAck := false, stopDone := [], power := { s.power with vixLow := 0xFFFF } }
    ∧ (∀ c, c < 32 → s.hasPort c = true → ∃ t, exec (.rcFieldRead (0x5040 + 4 * c)) s = .next t
        ∧ (t.link c) = { s.link c with resends := 0, failMax := 0 } ∧ (∀ d, d ≠ c → t.link d = s.link d)
        ∧ t = { s with tickAck := false, stopDone := [], links := t.links })
    ∧ (∀ k, k < 32 → s.trainErr.length = 32 → ∃ t, exec (.rcFieldRead (0x10010 + 0x800 * k)) s = .next t
        ∧ t.trainErr.getD k (1, 1) = (0, 0) ∧ (∀ j, j ≠ k → t.trainErr.getD j (0, 0) = s.trainErr.getD j (0, 0))
        ∧ t = { s with tickAck := false, stopDone := [], trainErr := t.trainErr })

/-- An error of any cause (R572): its bit is set and no other; the first since ERR_FIRST was cleared is recorded with the tick, a later
one is not; while it is not masked, ERR is pending (R484, R485). A write of 1 clears an ERR_STATUS bit (R572), XCH_LOST only while
XCH_STATUS.STATE is JOINED (R525); no bit is set and nothing else changes. A write of 1 clears an IRQ_PEND bit; ERR has no effect while an
unmasked error stands (R484, R485). The hold-offs of COMPL and TOKEN (R385, R485): at the end of the time since the last such interrupt
the deferred one is pending and no longer deferred, and the next is measured from this moment. Completing here: TOKEN_IRQ_HOLDOFF_EXPIRY,
ERR_STATUS_CLEAR, IRQ_PEND_CLEAR, COMPL_HOLDOFF_EXPIRY. -/
def Obligations.InterruptsAndErrors : Prop :=
  (∀ (e : Err) (s : State),
    (∀ x : Err, (s.setErr e).err x = (s.err x || decide (x = e)))
    ∧ (s.errFirst = none → (s.setErr e).errFirst = some e.bit ∧ (s.setErr e).errTick = BitVec.ofNat 32 s.tick.count)
    ∧ (s.errFirst ≠ none → (s.setErr e).errFirst = s.errFirst ∧ (s.setErr e).errTick = s.errTick)
    ∧ ((s.reg 0x5004).getLsbD e.bit = false → (s.setErr e).irqPend.getLsbD 3 = true)
    ∧ fixed (s.setErr e) = fixed s ∧ calm (s.setErr e) = calm s)
  ∧ (∀ (v : Word) (s : State), s.cfgReady = true → ∃ t, exec (.errStatusClear v) s = .next t
    ∧ t = { s with tickAck := false, stopDone := [], errs := t.errs }
    ∧ ∀ e : Err, t.err e = (s.err e && !(v.getLsbD e.bit && (decide (e ≠ .xchLost) || decide (s.xch.st = 2)))))
  ∧ (∀ (v : Word) (s : State), s.cfgReady = true → ∃ t, exec (.irqPendClear v) s = .next t
    ∧ (∀ i, i < 5 → i ≠ 3 → t.irqPend.getLsbD i = (s.irqPend.getLsbD i && !v.getLsbD i))
    ∧ (s.errs &&& ~~~(BitVec.ofNat 17 (s.reg 0x5004).toNat) ≠ 0 → t.irqPend.getLsbD 3 = s.irqPend.getLsbD 3)
    ∧ (s.errs &&& ~~~(BitVec.ofNat 17 (s.reg 0x5004).toNat) = 0 → t.irqPend.getLsbD 3 = (s.irqPend.getLsbD 3 && !v.getLsbD 3))
    ∧ t = { s with tickAck := false, stopDone := [], irqPend := t.irqPend })
  ∧ (∀ s : State, s.live = true →
    (s.complDue = true → ∃ t, exec .complHoldoffExpiry s = .next t ∧ t.complDue = false ∧ t.irqPend.getLsbD 0 = true
      ∧ t.complAt = some t.now ∧ t.now = max s.now ((s.complAt.map fun x => x + fld (s.reg 0x5018) 0 16 * 1300).getD 0)
      ∧ calm t = calm { s.begin with now := t.now })
    ∧ (s.tokenDue = true → ∃ t, exec .tokenIrqHoldoffExpiry s = .next t ∧ t.tokenDue = false ∧ t.irqPend.getLsbD 1 = true
      ∧ t.tokenAt = some t.now ∧ t.now = max s.now ((s.tokenAt.map fun x => x + fld (s.reg 0x20C4) 16 16 * 1300).getD 0)
      ∧ calm t = calm { s.begin with now := t.now }))

/-- R553: PWR_CAP holds the cap in 0.25 W; a write below 72 is stored as 72 and one above 1,000 as 1,000, either clamp sets
PWR_STATUS.CAP_CLAMPED, a write stored as written clears it, and the stored value reads back. Completing here: PWR_CAP_WRITE. -/
def Obligations.CapWrite : Prop :=
  ∀ (v : Word) (s : State), s.cfgReady = true → s.regs.map (·.1) = resetRegs.map (·.1) → ∃ t, exec (.pwrCapWrite v) s = .next t
    ∧ (fld v 0 10 < 72 → t.readReg 0x3000 = 72#32) ∧ (1000 < fld v 0 10 → t.readReg 0x3000 = 1000#32)
    ∧ (72 ≤ fld v 0 10 → fld v 0 10 ≤ 1000 → t.readReg 0x3000 = BitVec.ofNat 32 (fld v 0 10))
    ∧ (fld (t.readReg 0x3004) 6 1 = 1 ↔ fld v 0 10 < 72 ∨ 1000 < fld v 0 10)
    ∧ (∀ b, b ≠ 0x3000 → t.reg b = s.reg b) ∧ t.power = { s.power with clamped := t.power.clamped }
    ∧ calm t = calm { s.begin with regs := t.regs, power := t.power }

/-- RING_CFGk (R488). VALID from 0 to 1 sets HEAD, CQ_TAIL and CQ_RESV to 0 and writes the status line; while VALID is 1 the sizes and the
bases stand; VALID falls only on a drained ring, else the write is ignored. Completing here: RING_CFG_VALID. -/
def Obligations.RingValidity : Prop :=
  ∀ (k : Nat) (v : Word) (s : State), k < 8 → s.cfgReady = true → s.regs.map (·.1) = resetRegs.map (·.1) →
    let off := 0x1050 + 0x20 * k
    (s.ringValid k = false → v.getLsbD 31 = true → ∃ t, exec (.ringCfgValid k v) s = .next t
      ∧ t.ringValid k = true ∧ t.cqLog2 k = max 4 (min 16 (fld v 8 5)) ∧ t.sqLog2 k = max 4 (min 16 (fld v 0 5))
      ∧ (t.ring k).head = 0 ∧ (t.ring k).cqTail = 0 ∧ (t.ring k).cqResv = 0 ∧ (t.ring k).st = (s.ring k).st
      ∧ (∀ j, j ≠ k → t.ring j = s.ring j) ∧ (∀ b, b ≠ off → t.reg b = s.reg b)
      ∧ t.outstanding (.statusLine k) (s.addr64 0x1000 + 0x200 + 64 * k) (statusLineBytes (t.ring k))
      ∧ calm t = calm { s.begin with regs := t.regs })
    ∧ (s.ringValid k = true → v.getLsbD 31 = true → ∃ t, exec (.ringCfgValid k v) s = .next t
      ∧ t = { s with tickAck := false, stopDone := [], regs := t.regs } ∧ t.ringValid k = true
      ∧ fld (t.reg off) 8 5 = s.cqLog2 k ∧ fld (t.reg off) 0 5 = s.sqLog2 k ∧ fld (t.reg off) 30 1 = fld v 30 1
      ∧ (∀ b, b ≠ off → t.reg b = s.reg b)
      ∧ ∀ b w, b < 0x10 → b % 4 = 0 → exec (.registerWrite (0x1040 + 0x20 * k + b) w) s = .next s.begin)
    ∧ (s.ringValid k = true → v.getLsbD 31 = false →
      ((s.ring k).cqResv = 0 ∧ (if k = 0 then s.engine = .quiesced else (s.ring k).st = .quiesced) → ∃ t,
        exec (.ringCfgValid k v) s = .next t ∧ t = { s with tickAck := false, stopDone := [], regs := t.regs }
        ∧ t.ringValid k = false ∧ ∀ b, b ≠ off → t.reg b = s.reg b)
      ∧ (¬ ((s.ring k).cqResv = 0 ∧ (if k = 0 then s.engine = .quiesced else (s.ring k).st = .quiesced)) →
        exec (.ringCfgValid k v) s = .next s.begin))

/-- A firmware load (R542). A good length in a state that takes it starts the read of FW_LEN bytes at FW_ADDR; a bad length ends it with
LOAD_ERROR; in any other state the write is ignored. What ends it sets the state, RUNNING once the reserve is initialised. Completing
here: FW_LOAD, FW_LOAD_DONE. -/
def Obligations.FirmwareLoads : Prop :=
  ∀ s : State, s.live = true →
    let n := fld (s.reg 0x01C8) 0 24
    let bad := n = 0 ∨ n % 4096 ≠ 0 ∨ 8388608 < n
    (s.fw.1 ∈ [0, 4, 5, 6] → ¬ bad → ∃ t, exec .fwLoad s = .next t ∧ t.fw = (1, 0, 0)
      ∧ (∃ r ∈ t.reads, r.kind = .firmware ∧ r.addr = s.addr64 0x01C0 ∧ 64 * r.units = n)
      ∧ t = { s with tickAck := false, stopDone := [], fw := t.fw, reads := t.reads, nextId := t.nextId, links := t.links })
    ∧ (s.fw.1 ∈ [0, 4, 5, 6] → bad → exec .fwLoad s = .next { s with tickAck := false, stopDone := [], fw := (4, 0, 0) })
    ∧ (s.fw.1 ∉ [0, 4, 5, 6] → exec .fwLoad s = .next s.begin)
    ∧ (s.fw.1 = 1 ∨ s.fw.1 = 2 → ∀ r : FwResult, (s.reserve = true ∨ ∀ a b, r ≠ .running a b) →
        ∃ t, exec (.fwLoadDone r) s = .next t
          ∧ t = { s with tickAck := false, stopDone := [], fw := t.fw, reads := t.reads }
          ∧ (∀ a b, r = .running a b → t.fw = (3, a.toNat, b.toNat)) ∧ (r = .badSignature → t.fw = (5, 0, 0))
          ∧ (r = .wrongBlock → t.fw = (6, 0, 0)) ∧ (r = .loadError → t.fw = (4, 0, 0))
          ∧ ∀ x, x ∈ t.reads ↔ x ∈ s.reads ∧ x.kind ≠ .firmware)

/-- A save of the logbook (R579), where IX7 saves: SAVES and CNT_LOG_SAVE rise by 1, the record stands outstanding in the half that the
new SAVES names, bytes 64 to 2,047 and bytes 0 to 63; where it does not save, the write has no effect. A restore of the logbook (R580):
with the engine QUIESCED, the firmware running, LOG_BASE set and no earlier attempt, the valid half with the greater SAVES is added,
saturating, to the counters and bins, its extremes merged, its SAVES taken; with no valid half nothing changes but the attempt; otherwise
the write is ignored. Completing here: LOG_SAVE, LOG_RESTORE. -/
def Obligations.LogbookKept : Prop :=
  (∀ s : State, s.live = true →
    (s.logBase ≠ 0 → (s.log.restore = 1 ∨ s.log.restore = 2) → ∃ t, exec .logSave s = .next t ∧ t.log.saves = s.log.saves + 1
      ∧ t.cntVal .logSave = min (s.cntVal .logSave + 1) (2 ^ 64 - 1)
      ∧ t.outstanding .logbook (s.logBase + 2048 * ((s.log.saves + 1) % 2) + 64) s.log.body
      ∧ t.outstanding .logbook (s.logBase + 2048 * ((s.log.saves + 1) % 2))
          (({ s with log := { s.log with saves := s.log.saves + 1 } } : State).logHead 0)
      ∧ t.log.hist = s.log.hist ∧ fixed t = fixed s.begin ∧ calm t = calm s.begin)
    ∧ (s.logBase = 0 ∨ (s.log.restore ≠ 1 ∧ s.log.restore ≠ 2) → exec .logSave s = .next s.begin))
  ∧ (∀ (a b : List Byte) (s : State), s.live = true →
    let ok := s.engine = .quiesced ∧ s.fw.1 = 3 ∧ s.logBase ≠ 0 ∧ s.log.restore = 0
    let took (h : List Byte) : Prop := ∃ t, exec (.logRestore a b) s = .next t
      ∧ t = { s with tickAck := false, stopDone := [], log := t.log } ∧ t.log.restore = 1 ∧ t.log.saves = bytesAt h 8 8
      ∧ (∀ i, i < 64 → (t.log.cnt.toList.getD i 0).toNat
          = min ((s.log.cnt.toList.getD i 0).toNat + bytesAt h (64 + 8 * i) 8) (2 ^ 64 - 1))
      ∧ t.log.hist.length = s.log.hist.length
      ∧ (∀ n v, s.log.hist[n]? = some v → ∃ w, t.log.hist[n]? = some w ∧ ∀ i, i < 32 → (w.toList.getD i 0).toNat
          = min ((v.toList.getD i 0).toNat + bytesAt h (576 + 256 * n + 8 * i) 8) (2 ^ 64 - 1))
      ∧ t.log.tjMax = max s.log.tjMax (BitVec.ofNat 16 (bytesAt h 1856 2)).toInt
      ∧ t.log.vixMin = min s.log.vixMin (bytesAt h 1858 2) ∧ t.log.vixMax = max s.log.vixMax (bytesAt h 1860 2)
      ∧ t.log.procMin = min s.log.procMin (bytesAt h 1862 2) ∧ t.log.procMax = max s.log.procMax (bytesAt h 1864 2)
    (ok → s.halfOk a = true → (s.halfOk b = false ∨ bytesAt b 8 8 ≤ bytesAt a 8 8) → took a)
    ∧ (ok → s.halfOk b = true → (s.halfOk a = false ∨ bytesAt a 8 8 < bytesAt b 8 8) → took b)
    ∧ (ok → s.halfOk a = false → s.halfOk b = false →
        exec (.logRestore a b) s = .next { s with tickAck := false, stopDone := [], log := { s.log with restore := 2 } })
    ∧ (¬ ok → exec (.logRestore a b) s = .next s.begin))

/-- The readback window (R592, R593, R598): START while STATE is not BUSY captures the item named, or ends at once with BAD_ITEM or
BAD_INDEX; ABORT ends a BUSY capture with DRIVER_ABORT; a capture of an item held on the block that nothing has changed and no tick has
overtaken ends READY with its bytes, and one that changed ends ABORTED with CHANGED; START and ABORT are ignored otherwise. Completing
here: RB_START, RB_ABORT, RB_CAPTURE_DONE. -/
def Obligations.Readbacks : Prop :=
  ∀ s : State, s.cfgReady = true →
    (s.rb.st ≠ 1 → ∃ t, exec .rbStart s = .next t ∧ t.rb.tick = s.tick.count
      ∧ (s.capture [] = .badItem → t = { s with tickAck := false, stopDone := [], rb := ⟨4, 1, false, false, [], s.tick.count⟩ })
      ∧ (s.capture [] = .badIndex → t = { s with tickAck := false, stopDone := [], rb := ⟨4, 2, false, false, [], s.tick.count⟩ })
      ∧ (∀ bs un, s.capture [] = .data bs un → t.rb.st = 1 ∧ t.rb.bytes = bs) ∧ fixed t = fixed s.begin ∧ t.adMem = s.adMem)
    ∧ (s.rb.st = 1 → exec .rbStart s = .next s.begin ∧ ∃ t, exec .rbAbort s = .next t ∧ t.rb = ⟨3, 5, false, false, [], s.rb.tick⟩
      ∧ t = { s with tickAck := false, stopDone := [], rb := t.rb, reads := t.reads })
    ∧ (s.rb.st ≠ 1 → exec .rbAbort s = .next s.begin)
    ∧ ∀ changed unreachable parity host bs un, s.rb.st = 1 → s.power.droop = false → s.captureFm = false →
        (s.captureTimed = true → s.tick.count = s.rb.tick) → s.power.halted = none → s.rf 0x8000 24 8 ≠ 3 → s.capture host = .data bs un →
        (changed = false → bs = s.rb.bytes → ∃ t, exec (.rbCaptureDone changed unreachable parity host) s = .next t
          ∧ t.rb = ⟨2, 0, un, false, bs, s.rb.tick⟩ ∧ t = { s with tickAck := false, stopDone := [], rb := t.rb, reads := t.reads })
        ∧ (changed = true ∨ bs ≠ s.rb.bytes → ∃ t, exec (.rbCaptureDone changed unreachable parity host) s = .next t
          ∧ t.rb = ⟨3, 3, false, false, [], s.rb.tick⟩ ∧ t = { s with tickAck := false, stopDone := [], rb := t.rb, reads := t.reads })

/-- A wake read (R45, R455, R461): idle, with no edge pending and the firmware running, IX7 takes from an enabled ring as many descriptors
as TAIL, RING_READ.MAX and the room of its completion ring allow, HEAD advances over them and each reserves a record; a ring not valid,
not enabled or whose AT_TICK lies beyond the present tick counter plus one gives none; here no QUIESCE is among them (R481). No driver
line or descriptor is read while a write to its bytes is outstanding (R451, R452, R529): such a write holds the ring back, and the
descriptors are taken where no queued write, no status line and no message interrupt touches them. Completing here: DB_WAKE. -/
def Obligations.WakeTakes : Prop :=
  ∀ (v : List RingView) (s : State), s.live = true → s.tick.idle = true → s.tick.edge = .none → s.fw.1 = 3 → s.unsol = [] →
    (∀ x ∈ s.taken, x.pend ≠ .unchecked) → (∀ x ∈ v, ∀ d ∈ x.descs, opcodeOf d ≠ 3) →
    (∀ r ∈ s.reqs, r.expires (s.tick.count + 1) = false) →
    let meets (a n : Nat) (b m : Nat) : Prop := a < b + m ∧ b < a + n
    let free (a : Nat) : Prop := (∀ w ∈ s.writes, ¬ meets w.addr w.data.length a 64) ∧ ¬ meets (s.addr64 0x1000 + 0x200) 0x200 a 64
      ∧ ¬ meets (s.addr64 0x5020) 4 a 64
    ∃ t, exec (.dbWake v) s = .next t ∧
      t.tick = s.tick ∧ fixed t = fixed s.begin ∧
      ∀ k, k < 8 →
        (s.ringValid k = false ∨ (s.ring k).st ≠ .enabled
            ∨ (∃ w ∈ s.writes, w.issued = true ∧ meets w.addr w.data.length (s.addr64 0x1000 + 64 * k) 64) → (t.ring k).head = (s.ring k).head)
        ∧ ∀ x, v[k]? = some x → x.ok = true → s.ringValid k = true → (s.ring k).st = .enabled →
            let ahead := (x.tail - (s.ring k).head).toNat
            let room := 2 ^ s.cqLog2 k - ((s.ring k).cqTail - x.cqHead).toNat - (s.ring k).cqResv - (if k = 0 then 16 else 0)
            let n := min (min ahead (s.rf 0x100C 0 9)) (min room x.descs.length)
            (2 ^ s.sqLog2 k < ahead ∨ s.tick.count + 1 < x.atTick → (t.ring k).head = (s.ring k).head)
            ∧ (ahead ≤ 2 ^ s.sqLog2 k → x.atTick ≤ s.tick.count + 1 → free (s.addr64 0x1000 + 64 * k) →
                (∀ d : Word, free (s.addr64 (0x1040 + 0x20 * k) + 64 * (d.toNat % 2 ^ s.sqLog2 k))) →
                (t.ring k).head = (s.ring k).head + BitVec.ofNat 32 n
                ∧ ∀ i d, i < n → x.descs[i]? = some d → (formatOf (opcodeOf d)).isSome = true →
                    ∃ y ∈ t.taken, y.ring = k ∧ y.num = (s.ring k).head + BitVec.ofNat 32 i ∧ y.bytes = d
                      ∧ y.readTick = s.tick.count + 1 ∧ y.pend = .unchecked)

/-! The links, the fabric and the exchange. -/

/-- LINK_INIT on a link in INIT or UP (R502 to R504). In INIT a received one is noted, with its SEEN; the link is UP once one with SEEN 1
has come and one with SEEN 1 has been sent, with both directions numbering from 0, and the exchange unit is LINKED. A bad CRC is ignored,
another version sets the link's error alone. In UP, SEEN 1 is ignored and SEEN 0 makes the link FATAL. No other port's link moves but that
of DOUT0 behind DOUT1, whose rows a mask may wait for (R511). LINK_INIT_RESEND in INIT: LINK_INIT is put out with SEQ 0, a zero payload
and SEEN as it stands. Completing here: LINK_INIT, LINK_INIT_RESEND. -/
def Obligations.LinksComeUp : Prop :=
  ∀ (port : Nat) (tag : FlitTag) (payload : Payload) (s : State), s.live = true → s.hasPort port = true →
    let l := s.link port
    let seen := tF tag 9 0 1 = 1
    (crcOk payload tag = false → exec (.linkInit port tag payload) s = .next s.begin)
    ∧ (crcOk payload tag = true → tF tag 8 0 8 ≠ 1 → ∃ t, exec (.linkInit port tag payload) s = .next t
        ∧ t.err (linkErr port) = true ∧ (port < 16 → t.link port = l) ∧ fixed t = fixed s.begin ∧ t.log = s.log)
    ∧ (crcOk payload tag = true → tF tag 8 0 8 = 1 → l.st = .init → ∃ t, exec (.linkInit port tag payload) s = .next t
        ∧ ((l.gotSeen = true ∨ seen) → l.sentSeen = true → (t.link port).st = .up ∧ (t.link port).rxSeq = 0
            ∧ (port < 5 → (t.link port).txSeq = BitVec.ofNat 8 (t.link port).replay.length)
            ∧ (port = 4 → s.xch.st = 0 → t.xch.st = 1))
        ∧ (¬ ((l.gotSeen = true ∨ seen) ∧ l.sentSeen = true) →
            t.link port = { l with gotInit := true, gotSeen := l.gotSeen || decide seen }
            ∧ t = { s with tickAck := false, stopDone := [], links := t.links })
        ∧ (∀ c, c ≠ port → c < 16 → (port = 3 → c ≠ 2) → t.link c = s.link c) ∧ fixed t = fixed s.begin)
    ∧ (crcOk payload tag = true → tF tag 8 0 8 = 1 → l.st = .up →
        (seen → exec (.linkInit port tag payload) s = .next s.begin)
        ∧ (¬ seen → ∃ t, exec (.linkInit port tag payload) s = .next t ∧ (t.link port).st = .fatal ∧ t.err .portFatal = true
            ∧ t.cntVal .portFatal = min (s.cntVal .portFatal + 1) (2 ^ 64 - 1) ∧ (port < 4 → t.engine = .quiesced)
            ∧ (port = 4 → t.xch.st = 3)))
    ∧ (l.st = .init → ∃ t, exec (.linkInitResend port) s = .next t ∧ fixed t = fixed s.begin
        ∧ (l.gotInit = true ∨ l.sentSeen = true → l.gotSeen = true → (t.link port).st = .up ∧ (t.link port).rxSeq = 0)
        ∧ (¬ ((l.gotInit = true ∨ l.sentSeen = true) ∧ l.gotSeen = true) →
            t.link port = { l with
              sentSeen := l.sentSeen || l.gotInit, initOut := some ⟨0, sealTag 0 (initTag l.gotInit) 0⟩ }
            ∧ t = { s with tickAck := false, stopDone := [], links := t.links }))

/-- A flit on a link that is UP and not held off by a pause (R496, R498 to R500, R505). In sequence with a good CRC it is acknowledged and
the next is expected; a kind of the link is delivered, on AIN once a port protocol is in force, and a reserved kind sets the link's error.
Any other flit is discarded; the first since the last good one brings a NAK that names the expected SEQ and is counted, and so does every
later one that carries the expected SEQ and fails its CRC (read from an example, assumption log 109). Completing here: FLIT_RECEIVE. -/
def Obligations.FlitsAreSequenced : Prop :=
  ∀ (port : Nat) (tag : FlitTag) (payload : Payload) (s : State), s.live = true → s.hasPort port = true →
    (2 ≤ port ∨ s.paused = false) → (s.link port).st = .up →
    let l := s.link port
    let good := crcOk payload tag = true ∧ tagSeq tag = l.rxSeq
    let l' : Link := { l with rxSeq := l.rxSeq + 1, nakSent := false, ackOut := some (l.rxSeq, false) }
    ∃ t, exec (.flitReceive port tag payload) s = .next t ∧ (∀ c, c ≠ port → c < 16 → t.link c = s.link c)
      ∧ (good → kindOf port (tagKind tag) = true → (2 ≤ port ∨ s.negot.getD 2 0 ≠ 0) →
          t.link port = { l' with rxQ := l.rxQ ++ [⟨payload, tag⟩] } ∧ t = { s with tickAck := false, stopDone := [], links := t.links })
      ∧ (good → kindOf port (tagKind tag) = true → port < 2 → s.negot.getD 2 0 = 0 →
          t.link port = l' ∧ t = { s with tickAck := false, stopDone := [], links := t.links })
      ∧ (good → kindOf port (tagKind tag) = false → (port < 16 → t.link port = l') ∧ t.err (linkErr port) = true ∧ calm t = calm s.begin)
      ∧ (¬ good → l.nakSent = true → (crcOk payload tag = true ∨ tagSeq tag ≠ l.rxSeq) → t = s.begin)
      ∧ (¬ good → (l.nakSent = false ∨ (crcOk payload tag = false ∧ tagSeq tag = l.rxSeq)) →
          t.link port = { l with nakSent := true, ackOut := some (l.rxSeq, true), resends := min 65535 (l.resends + 1) }
          ∧ t.cntVal .crcResend = min (s.cntVal .crcResend + 1) (2 ^ 64 - 1)
          ∧ t = { s with tickAck := false, stopDone := [], links := t.links, log := t.log })

/-- Acknowledgements, NAKs and the 4,096-cycle wait on a link that is UP (R499 to R501, R504). A good acknowledgement frees the flit it
names and every earlier one, and what waits moves up; a NAK, or the wait of the oldest, counts one failure of that SEQ and one re-send and
keeps every unacknowledged flit; the eighth in a row makes the link FATAL. Wrong parity, or a SEQ not held, is ignored. PORT_RESET (R549):
while the engine is QUIESCED each link named goes to INIT with an empty replay buffer, its figures standing, and no other link moves;
otherwise it is ignored. Completing here: ACK_RECEIVE, REPLAY_TIMEOUT, PORT_RESET. -/
def Obligations.ReplayAndReset : Prop :=
  (∀ (port : Nat) (q : BitVec 8) (s : State), s.live = true → s.hasPort port = true → (s.link port).st = .up →
    let l := s.link port
    let n := ((l.fails.find? fun f => f.1 = q).map (·.2)).getD 0 + 1
    let failed (t : State) : Prop :=
      (n < 8 → (t.link port).st = .up ∧ (t.link port).replay = l.replay ∧ (t.link port).waiting = l.waiting
        ∧ (t.link port).fails.find? (fun f => f.1 = q) = some (q, n) ∧ (t.link port).resends = min 65535 (l.resends + 1)
        ∧ (t.link port).failMax = max l.failMax n ∧ t.cntVal .crcResend = min (s.cntVal .crcResend + 1) (2 ^ 64 - 1)
        ∧ t = { s with tickAck := false, stopDone := [], links := t.links, log := t.log })
      ∧ (8 ≤ n → (t.link port).st = .fatal ∧ t.err .portFatal = true
        ∧ t.cntVal .portFatal = min (s.cntVal .portFatal + 1) (2 ^ 64 - 1))
    (l.holds q = true → ∃ t, exec (.ackReceive port q false (ackParity q false)) s = .next t
      ∧ (s.paused = true → (t.link port).replay = (l.replay.dropWhile fun f => tagSeq f.tag ≠ q).drop 1 ∧ (t.link port).waiting = l.waiting)
      ∧ (s.paused = false → ∃ m, (t.link port).waiting = l.waiting.drop m
          ∧ (t.link port).replay = (l.replay.dropWhile fun f => tagSeq f.tag ≠ q).drop 1 ++ sealFrom l.txSeq (l.waiting.take m))
      ∧ (∀ c, c ≠ port → (port = 3 → c ≠ 2) → t.link c = s.link c) ∧ t.errs = s.errs)
    ∧ (l.holds q = true → ∃ t, exec (.ackReceive port q true (ackParity q true)) s = .next t ∧ failed t)
    ∧ (∀ f fs, l.replay = f :: fs → tagSeq f.tag = q → ∃ t, exec (.replayTimeout port) s = .next t ∧ failed t)
    ∧ (∀ nak par, par ≠ ackParity q nak → exec (.ackReceive port q nak par) s = .next s.begin)
    ∧ (∀ nak, l.holds q = false → exec (.ackReceive port q nak (ackParity q nak)) s = .next s.begin))
  ∧ (∀ (v : Word) (s : State), s.live = true →
    (s.engine = .quiesced → ∃ t, exec (.portReset v) s = .next t
      ∧ (∀ c ∈ s.resetPorts v, t.link c = { Link.fresh .init with resends := (s.link c).resends, failMax := (s.link c).failMax })
      ∧ (∀ c, c ∉ s.resetPorts v → t.link c = s.link c)
      ∧ (4 ∈ s.resetPorts v → s.xch.st ≠ 3 → t.xch.st = 0) ∧ fixed t = fixed s.begin)
    ∧ (s.engine ≠ .quiesced → exec (.portReset v) s = .next s.begin))

/-- FM_READ_DATA (R527): a read is made as requests of at most 256 units under consecutive identifiers, and a flit of one that has gone
out is kept, each once; one that ends neither its request nor the read does nothing else. The last flit of the firmware starts its
verification (R542); a page that has been read is written to its new place (R404); a fetched wagon that has come in whole is read no
longer when its CRC is right and its header agrees (R206), else it is read again and CNT_WAGON_REREAD counts, up to three times, and then
its object is poisoned (R303). A transaction fails (R531), by FM_READ_ERROR or by its time limit, FM_TIMEOUT: ERR_STATUS.FM_ERR and
CNT_FM_ERR; firmware ends with LOAD_ERROR, a capture with UNREACHABLE, a write-back or page move waits to be started again, a wagon is
read again, up to three times, and then its object is poisoned, and a write waits to be issued again. FM_WRITE_ACK (R527, R529, R531), no
save or quiesce waiting for it: a write that is acknowledged stands no longer and nothing waits for it; one acknowledged with ERR stands,
failed, and its errors are counted; a snapshot waits for it no longer. Completing here: FM_READ_DATA, FM_READ_ERROR, FM_WRITE_ACK,
FM_TIMEOUT. -/
def Obligations.FabricTransactions : Prop :=
  (∀ (id flit : Nat) (payload : Payload) (r : FmRead) (s : State), s.live = true →
    s.reads.find? (fun x => decide (x.id ≤ id ∧ id < x.id + x.requests)) = some r → r.failed = false → id < r.id + r.sent →
    let f := 64 * (id - r.id) + flit
    flit < ceilDiv (r.unitsOf (id - r.id)) 4 → (∀ x ∈ r.flits, x.1 ≠ f) →
    let r' := { r with flits := r.flits ++ [(f, payload)] }
    let last := r.flits.length + 1 = ceilDiv r.units 4
    ∃ t, exec (.fmReadData id flit payload) s = .next t
      ∧ (¬ last → ∃ x ∈ t.reads, x.id = r.id ∧ x.kind = r.kind ∧ x.flits = r'.flits)
      ∧ (¬ last → r'.answered (id - r.id) = false → t = { s with
          tickAck := false, stopDone := [], links := t.links, dirs := t.dirs
          reads := updWhere (fun (x : FmRead) => x.id = r.id) (fun _ => r') s.reads })
      ∧ (∀ a, r.kind = .wagon a → last → s.wagonGood a r'.bytes = true → ∀ x ∈ t.reads, x.id ≠ r.id)
      ∧ (∀ a, r.kind = .wagon a → last → s.wagonGood a r'.bytes = false → r.tries < 3 →
          t.cntVal .wagonReread = min (s.cntVal .wagonReread + 1) (2 ^ 64 - 1)
          ∧ ∃ x ∈ t.reads, x.id = r.id ∧ x.kind = r.kind ∧ x.tries = r.tries + 1 ∧ x.flits = [])
      ∧ (∀ a d, r.kind = .wagon a → last → s.wagonGood a r'.bytes = false → 3 ≤ r.tries → s.dirAt (slotOf a) = some d →
          (∀ x ∈ t.reads, x.id ≠ r.id) ∧ ∃ d', t.dirAt (slotOf a) = some d' ∧ d'.poisoned = true)
      ∧ (∀ slot idx q m e, r.kind = .pageMove slot idx → last → s.reqAt slot = some q → q.moves.find? (fun m => m.1 = idx) = some m →
          q.pages[idx]? = some e → t.outstanding (.pageMove slot idx) (s.pageAddr (!e.1) m.2) r'.bytes)
      ∧ (r.kind = .firmware → last → t.fw = (2, 0, 0))
      ∧ ((r.kind ≠ .firmware ∨ ¬ last) → t.fw = s.fw)
      ∧ ((∀ a, r.kind ≠ .wagon a) → (∀ k n, r.kind ≠ .special k n) → t = { s with
          tickAck := false, stopDone := [], links := t.links, reads := t.reads, writes := t.writes, nextId := t.nextId, fw := t.fw
          dirs := t.dirs }
        ∧ ((∀ slot, r.kind ≠ .image slot) → t.dirs = s.dirs)))
  ∧ (∀ (id : Nat) (s : State), s.live = true →
    (∀ (c : Instr) (r : FmRead), (c = .fmReadError id ∨ c = .fmTimeout id) →
      s.reads.find? (fun x => decide (x.id ≤ id ∧ id < x.id + x.requests)) = some r →
      ∃ t, exec c s = .next t ∧ t.err .fmErr = true ∧ t.cntVal .fmErr = min (s.cntVal .fmErr + 1) (2 ^ 64 - 1)
        ∧ (r.kind = .firmware → t.fw = (4, 0, 0) ∧ ∀ x ∈ t.reads, x.id ≠ r.id)
        ∧ (r.kind = .capture → t.rb = ⟨4, 4, false, false, [], s.rb.tick⟩ ∧ ∀ x ∈ t.reads, x.id ≠ r.id)
        ∧ ((∃ a, r.kind = .writeBack a) ∨ (∃ a b, r.kind = .pageMove a b) →
            (∀ x ∈ t.reads, x.id = r.id → x.failed = true) ∧ (∀ x, x.id ≠ r.id → (x ∈ t.reads ↔ x ∈ s.reads))
            ∧ t.reads.length = s.reads.length)
        ∧ (∀ a, r.kind = .wagon a → r.tries < 3 → ∃ x ∈ t.reads, x.id = r.id ∧ x.kind = r.kind ∧ x.tries = r.tries + 1 ∧ x.flits = [])
        ∧ (∀ a d, r.kind = .wagon a → 3 ≤ r.tries → s.dirAt (slotOf a) = some d →
            (∀ x ∈ t.reads, x.id ≠ r.id) ∧ ∃ d', t.dirAt (slotOf a) = some d' ∧ d'.poisoned = true)
        ∧ fixed t = fixed s.begin)
    ∧ ((∀ x ∈ s.reads, ¬ (x.id ≤ id ∧ id < x.id + x.requests)) → (∃ w ∈ s.writes, w.id = id ∧ w.issued = true) → ∃ t, exec (.fmTimeout id) s = .next t
        ∧ t.err .fmErr = true ∧ t.cntVal .fmErr = min (s.cntVal .fmErr + 1) (2 ^ 64 - 1)
        ∧ (∀ w ∈ t.writes, w.id = id → w.failed = true ∧ w.issued = false)
        ∧ (∃ w ∈ t.writes, w.id = id) ∧ calm t = calm s.begin))
  ∧ (∀ (time id : Nat) (s : State), s.live = true → (∃ w ∈ s.writes, w.id = id ∧ w.issued = true) →
    (∀ x ∈ s.taken, x.pend ≠ .quiesceSave) →
    (∃ t, exec (.fmWriteAck time [(id, false)]) s = .next t ∧ t.now = max s.now time
      ∧ (id < s.nextId → ∀ w ∈ t.writes, w.id ≠ id) ∧ (∀ w ∈ t.writes, id ∉ w.after)
      ∧ (∀ x ∈ t.snaps, id ∉ x.writes) ∧ id ∉ t.log.busy ∧ t.errs = s.errs ∧ t.adMem = s.adMem ∧ t.regs = s.regs)
    ∧ (∃ t, exec (.fmWriteAck time [(id, true)]) s = .next t ∧ t.now = max s.now time ∧ t.err .fmErr = true
      ∧ t.cntVal .fmErr = min (s.cntVal .fmErr + 1) (2 ^ 64 - 1)
      ∧ (∀ w ∈ t.writes, w.id = id → w.failed = true ∧ w.issued = false)
      ∧ (∃ w ∈ t.writes, w.id = id) ∧ t.snaps = s.snaps ∧ t.adMem = s.adMem ∧ t.regs = s.regs))

/-- The partner is lost (R522, R523): STATE is LOST, the tick's consignments that are not complete are ended and no flit completes them,
XCH_LOST and GROUP_MISMATCH are set, the tick is recorded with sections 0 unless a mismatch was recorded before, CNT_XCH_LOST counts. A
consignment whose flits have all returned is complete (R104, R517), also one that the tick's lenient end left on its way (R39), and no
other changes. The members' digests compared (R418, R419), all returned: alike, nothing but that the comparison is over; a difference sets
GROUP_MISMATCH, records the sections that differ and the tick, and counts, unless a mismatch stands already. Completing here:
CONSIGNMENT_COMPLETE, DIGEST_COMPARE, PARTNER_LOST. -/
def Obligations.ExchangeOutcomes : Prop :=
  (∀ s : State, s.live = true → s.xch.st = 2 → s.awaited = true → s.paused = false → ∃ t, exec .partnerLost s = .next t
    ∧ t.xch.st = 3 ∧ t.xch.joining = false ∧ t.err .xchLost = true ∧ t.err .groupMismatch = true
    ∧ t.cntVal .xchLost = min (s.cntVal .xchLost + 1) (2 ^ 64 - 1)
    ∧ (∀ c ∈ t.tick.cons, c.done = true ∨ (c.ended = true ∧ c.left = false)) ∧ t.tick.cons.length = s.tick.cons.length
    ∧ (s.err .groupMismatch = false → t.digest.sections = 0 ∧ t.digest.tickLo = BitVec.ofNat 32 s.tick.count)
    ∧ (s.err .groupMismatch = true → t.digest.sections = s.digest.sections ∧ t.digest.tickLo = s.digest.tickLo)
    ∧ t.digest.sent = none ∧ fixed t = fixed s.begin ∧ t.adMem = s.adMem ∧ t.reqs = s.reqs ∧ t.dirs = s.dirs)
  ∧ (∀ (num : Nat) (c : Consign) (s : State), s.live = true →
    s.tick.cons.find? (fun c => c.plan.num = num && c.sent && (!c.ended || c.left) && !c.done) = some c → c.got.length = s.consNeed c →
    ∃ t, exec (.consignmentComplete num) s = .next t ∧ { c with done := true } ∈ t.tick.cons
      ∧ (∀ d ∈ s.tick.cons, d.plan.num ≠ num → d ∈ t.tick.cons) ∧ t.tick.cons.length = s.tick.cons.length
      ∧ t = { s with tickAck := false, stopDone := [], tick := { s.tick with cons := t.tick.cons } })
  ∧ (∀ (own : Payload) (s : State), s.live = true → s.digest.sent = some own → s.digest.flits.length = s.groupSize →
    ∃ t, exec .digestCompare s = .next t ∧ t.digest.sent = none ∧ t.tick = s.tick ∧ fixed t = fixed s.begin
      ∧ ((∀ x ∈ s.digest.flits, (∀ k, k < 8 → digestWord x.2 (2 + k) = digestWord own (2 + k)) ∧ digestWord x.2 0 = digestWord own 0) →
          t = { s with tickAck := false, stopDone := [], digest := { s.digest with sent := none, compared := s.digest.flits } })
      ∧ ((∃ x ∈ s.digest.flits, ∃ k, k < 8 ∧ digestWord x.2 (2 + k) ≠ digestWord own (2 + k)) → s.err .groupMismatch = false →
          t.err .groupMismatch = true ∧ t.digest.tickLo = BitVec.ofNat 32 s.tick.count
          ∧ t.cntVal .groupMismatch = min (s.cntVal .groupMismatch + 1) (2 ^ 64 - 1)
          ∧ ∀ k, k < 8 → (t.digest.sections.testBit k = true ↔
              ∃ x ∈ s.digest.flits, digestWord x.2 (2 + k) ≠ digestWord own (2 + k)))
      ∧ (s.err .groupMismatch = true →
          t = { s with tickAck := false, stopDone := [], digest := { s.digest with sent := none, compared := s.digest.flits } }))

/-- A join (R519, R520, R547). Where it may start, the write sends the join flit and the unit waits for the returns; with the returns of
every position alike, STATE is JOINED and the tick counter is the largest received or the block's own; else STATE is LINKED with the
cause, 2 for a wrong set of positions or sizes and 3 for a wrong IX_ID, and 1 at the time limit. Completing here: JOIN, JOIN_COMPLETE,
JOIN_TIMEOUT. -/
def Obligations.Joins : Prop :=
  ∀ s : State, s.live = true →
    (s.engine = .quiesced → (s.link 4).st = .up → s.negot.getD 2 0 ≠ 0 → (s.xch.st = 1 ∨ s.xch.st = 3) → ∃ t, exec .join s = .next t
      ∧ t.xch = { s.xch with joining := true, joinGot := [] }
      ∧ (t.link 4).replay.length + (t.link 4).waiting.length = (s.link 4).replay.length + (s.link 4).waiting.length + 1
      ∧ t = { s with tickAck := false, stopDone := [], xch := t.xch, links := t.links })
    ∧ (¬ (s.engine = .quiesced ∧ (s.link 4).st = .up ∧ s.negot.getD 2 0 ≠ 0 ∧ (s.xch.st = 1 ∨ s.xch.st = 3)) →
        exec .join s = .next s.begin)
    ∧ (s.xch.joining = true → s.groupSize ≤ s.xch.joinGot.length → ∃ t, exec .joinComplete s = .next t
      ∧ (s.joinCheck = 0 → t.xch = { s.xch with st := 2, joining := false } ∧ s.tick.count ≤ t.tick.count
          ∧ (∀ x ∈ s.xch.joinGot, fld x.2 64 64 ≤ t.tick.count)
          ∧ (t.tick.count = s.tick.count ∨ ∃ x ∈ s.xch.joinGot, fld x.2 64 64 = t.tick.count))
      ∧ (s.joinCheck ≠ 0 → t.xch = { s.xch with st := 1, joinErr := s.joinCheck, joining := false } ∧ t.tick.count = s.tick.count)
      ∧ t = { s with tickAck := false, stopDone := [], xch := t.xch, tick := { s.tick with count := t.tick.count } })
    ∧ (s.xch.joining = true →
        exec .joinTimeout s = .next { s with tickAck := false, stopDone := [], xch := { s.xch with st := 1, joinErr := 1, joining := false } })

/-- XCH_RETURNED_FLIT completes whatever stands (R102, R516, R517). Kept are the first join flit of a member, while a join runs; the first
digest flit of a member, of this tick and while a digest is out; the first flit of its place in a consignment of this tick that is sent,
is not complete, and is awaited or was left on its way by the tick's lenient end (R39). Any other sets XCH_SEQ and is kept nowhere, and so
it is with every flit but a join's when nothing is awaited, as after the loss of the partner (R524). Completing here: XCH_RETURNED_FLIT.
-/
def Obligations.ReturnedFlits : Prop :=
  ∀ (tag : FlitTag) (payload : Payload) (s : State), s.live = true →
    let src := xchSrc tag
    let kind := tagKind tag
    let awaited (c : Consign) : Bool := c.plan.num = xchConsign tag && c.sent && (!c.ended || c.left) && !c.done
    let stands (t : State) : Prop := fixed t = fixed s.begin ∧ t.adMem = s.adMem ∧ t.reqs = s.reqs
    let keptNowhere : Prop := ∃ t, exec (.xchReturnedFlit tag payload) s = .next t ∧ stands t
      ∧ t.err .xchSeq = true ∧ t.digest = s.digest ∧ t.tick = s.tick ∧ t.xch = s.xch
    (kind = 0x24 → s.xch.joining = true → (∀ x ∈ s.xch.joinGot, x.1 ≠ src) → ∃ t, exec (.xchReturnedFlit tag payload) s = .next t
        ∧ stands t ∧ t.xch = { s.xch with joinGot := s.xch.joinGot ++ [(src, payload)] } ∧ t.errs = s.errs ∧ t.tick = s.tick)
    ∧ (kind = 0x24 → (s.xch.joining = false ∨ ∃ x ∈ s.xch.joinGot, x.1 = src) → keptNowhere)
    ∧ (kind = 0x23 → xchStamp tag = s.tick32 → s.digest.sent.isSome = true → src < s.groupSize → (∀ x ∈ s.digest.flits, x.1 ≠ src) →
        ∃ t, exec (.xchReturnedFlit tag payload) s = .next t ∧ stands t
          ∧ t.digest = { s.digest with flits := s.digest.flits ++ [(src, payload)] } ∧ t.errs = s.errs ∧ t.tick = s.tick)
    ∧ (kind = 0x23 → (s.digest.sent = none ∨ s.groupSize ≤ src ∨ ∃ x ∈ s.digest.flits, x.1 = src) → keptNowhere)
    ∧ (kind ≠ 0x24 → xchStamp tag ≠ s.tick32 → keptNowhere)
    ∧ (kind ≠ 0x24 → kind ≠ 0x23 → s.tick.cons.find? awaited = none → keptNowhere)
    ∧ (∀ c, kind ≠ 0x24 → kind ≠ 0x23 → xchStamp tag = s.tick32 → s.tick.cons.find? awaited = some c →
        let key := if kind = 0x22 then src else 0
        let due := c.kind = kind ∧ xchFidx tag < c.plan.len ∧ (kind = 0x21 ∨ src < s.groupSize)
          ∧ ∀ g ∈ c.got, ¬ (g.1 = key ∧ g.2.1 = xchFidx tag)
        (¬ due → keptNowhere)
        ∧ (due → ∃ t, exec (.xchReturnedFlit tag payload) s = .next t ∧ stands t
          ∧ { c with got := c.got ++ [(key, xchFidx tag, payload)] } ∈ t.tick.cons
          ∧ (∀ d ∈ s.tick.cons, d.plan.num ≠ c.plan.num → d ∈ t.tick.cons) ∧ t.tick.cons.length = s.tick.cons.length
          ∧ t.errs = s.errs ∧ t.digest = s.digest ∧ t.xch = s.xch))

/-! Ticks. -/

/-- A rising edge (R25, R37, R482). Coalesced while the firmware does not run, within TICK_MIN of the last edge, or while an edge is
pending: it is counted and starts nothing. Otherwise, with no stop of the tick left unopened: held while a stop has STOP_VALID; with the
engine not ENABLED and no tick under way, counted alone; an overrun of unfinished work waits under the strict policy with TICK_LATE
asserted, and ends the tick at once under the lenient policy; with no tick under way it is accepted and awaits its header. The edges that
started a tick are recorded at TICK_ACK, not here (R30). Edges that wait. STOP_VALID gone, a held edge is classified from step 3 of R25:
accepted with no tick under way, else an overrun. The old tick's work done, an edge that waits under the strict policy starts its tick
(R37, R38); while that work goes on, or issue is paused (R558), nothing happens. Completing here: TICK_EDGE, HELD_EDGE_RELEASE, STRICT_OVERRUN_START. -/
def Obligations.Edges : Prop :=
  (∀ (time : Nat) (v : List RingView) (s : State), s.live = true →
    let soon := ∃ e, s.tick.lastEdge = some e ∧ time < e + fld (s.reg 0x2004) 0 20 * 1300
    let fresh := s.fw.1 = 3 ∧ ¬ soon ∧ s.tick.edge = .none
    let quiet := s.tick.active = false ∨ (s.workDone = false ∧
      ∀ st ∈ s.curHdr.stopList, s.mayOpen st = true → s.tick.pinStop = some st ∨ st ∈ s.tick.shut)
    let now := max s.now time
    let runs (p : State → Prop) : Prop := ∃ t, exec (.tickEdge time v) s = .next t ∧ p t
    let counted (t : State) (c : Cnt) : Prop := t.cntVal c = min (s.cntVal c + 1) (2 ^ 64 - 1)
    let coalesced : Prop := runs fun t => counted t .tickCoalesced
      ∧ t = { s with tickAck := false, stopDone := [], now := now, log := t.log, tick := { s.tick with lastRise := time } }
    (s.fw.1 ≠ 3 ∨ soon ∨ s.tick.edge ≠ .none → coalesced)
    ∧ (fresh → quiet → s.pinned.isSome = true → s.engine ≠ .quiesced → runs fun t =>
        t = { s with tickAck := false, stopDone := [], now := now, tick := { s.tick with lastRise := time, edge := .held time } })
    ∧ (fresh → s.tick.active = false → s.engine ≠ .enabled → (s.pinned = none ∨ s.engine = .quiesced) → coalesced)
    ∧ (fresh → quiet → s.pinned = none → s.engine = .enabled → s.tick.active = true → s.lenient = false → runs fun t =>
        counted t .overrun ∧ t = { s with
          tickAck := false, stopDone := [], now := now, log := t.log
          tick := { s.tick with lastRise := time, lastEdge := some time, late := true, edge := .strict time none } })
    ∧ (fresh → quiet → s.pinned = none → s.engine = .enabled → s.tick.active = true → s.lenient = true → runs fun t =>
        counted t .overrun ∧ t.tick.active = false ∧ t.tick.late = true ∧ t.tick.lastEdge = some time ∧ t.tick.idle = false
        ∧ (∃ cold, t.tick.edge = .waiting time true cold true) ∧ fixed t = fixed { s.begin with now := now })
    ∧ (fresh → s.pinned = none → s.engine = .enabled → s.tick.active = false → runs fun t =>
        t.tick = { s.tick with
          lastRise := time, lastEdge := some time, idle := false
          edge := .waiting time s.lenient (s.tick.cold || s.tick.ann.isNone) false }
        ∧ fixed t = fixed { s.begin with now := now }))
  ∧ (∀ (v : List RingView) (time : Nat) (s : State), s.live = true → s.tick.edge = .held time → s.pinned = none → s.engine = .enabled →
    let runs (p : State → Prop) : Prop := ∃ t, exec (.heldEdgeRelease v) s = .next t ∧ fixed t = fixed s.begin ∧ p t
    (s.tick.active = false → runs fun t => t.tick = { s.tick with
        lastEdge := some time, idle := false, edge := .waiting time s.lenient (s.tick.cold || s.tick.ann.isNone) false })
    ∧ (s.tick.active = true → s.workDone = false → s.lenient = false → runs fun t =>
        t.cntVal .overrun = min (s.cntVal .overrun + 1) (2 ^ 64 - 1)
        ∧ t = { s with
          tickAck := false, stopDone := [], log := t.log
          tick := { s.tick with lastEdge := some time, late := true, edge := .strict time none } })
    ∧ (s.tick.active = true → s.workDone = false → s.lenient = true → runs fun t =>
        t.tick.active = false ∧ t.tick.late = true ∧ t.tick.lastEdge = some time
        ∧ ∃ cold, t.tick.edge = .waiting time true cold true))
  ∧ (∀ (v : List RingView) (time : Nat) (s : State), s.live = true →
    (s.paused = true → exec (.strictOverrunStart v) s = .next s.begin)
    ∧ (s.tick.edge = .strict time none → s.paused = false → s.tick.active = false → ∃ t, exec (.strictOverrunStart v) s = .next t
      ∧ t.tick = { s.tick with idle := false, edge := .waiting time false (s.tick.cold || s.tick.ann.isNone) false }
      ∧ fixed t = fixed s.begin)
    ∧ (s.tick.edge = .strict time none → s.paused = false → s.tick.active = true → s.workDone = true → s.engine = .enabled →
      ∃ t, exec (.strictOverrunStart v) s = .next t ∧ t.tick.active = false
        ∧ t.tick.edge = .waiting time false (s.tick.cold || s.tick.ann.isNone) false ∧ fixed t = fixed s.begin)
    ∧ (∀ hdr, s.tick.edge = .strict time hdr → s.tick.active = true → s.workDone = false →
        exec (.strictOverrunStart v) s = .next s.begin))

/-- A tick header (R26, R31 to R34, R37, R40, R43), framed by STOP_VALID with STOP_ID 7, AIN0 not held off and a port protocol in force:
with no edge awaiting it, or of another version, it is discarded with TICK_HEADER. A cold-start edge builds from it; a strict one whose
timetable is not ready builds from it; the header of the timetable that is ready brings TICK_ACK, and so does any under the lenient
policy: the tick counter increments, and the budget is BUDGET. A cold start's HOST_TICK that is not the counter's next value sets
TICK_SEQ. An edge that waits under the strict policy keeps it. Without that frame, or in a pause, no header is taken. Completing here:
TICK_HEADER. -/
def Obligations.HeadersTaken : Prop :=
  (∀ (time : Nat) (p : Payload) (s : State), s.tick.pinStop ≠ some 7 ∨ s.paused = true → exec (.tickHeader time p) s = .next s.begin)
  ∧ ∀ (time at_ : Nat) (p : Payload) (cold late : Bool) (s : State), s.live = true → s.tick.pinStop = some 7 → s.paused = false →
    s.negot.getD 2 0 ≠ 0 →
    let h := (rawHeader p).clean
    let acked (t : State) : Prop := t.tickAck = true ∧ t.tick.count = s.tick.count + 1 ∧ t.budget = fld (s.reg 0x2000) 6 16
      ∧ t.regs = s.regs ∧ t.engine = s.engine ∧ t.negot = s.negot ∧ t.pending = s.pending
    ((∀ a l c o, s.tick.edge ≠ .waiting a l c o) → (∀ a, s.tick.edge ≠ .strict a none) → ∃ t, exec (.tickHeader time p) s = .next t
      ∧ t.err .tickHeader = true ∧ t.tick = s.tick ∧ t.now = max s.now time ∧ fixed t = fixed { s.begin with now := t.now })
    ∧ (∀ l, s.tick.edge = .waiting at_ l cold late → hdrVer p ≠ 1 → ∃ t, exec (.tickHeader time p) s = .next t
      ∧ t.err .tickHeader = true ∧ t.tick = s.tick ∧ fixed t = fixed { s.begin with now := t.now })
    ∧ (s.tick.edge = .strict at_ none → hdrVer p = 1 → ∃ t, exec (.tickHeader time p) s = .next t
      ∧ t.tick = { s.tick with edge := .strict at_ (some p) } ∧ t.errs = s.errs ∧ fixed t = fixed { s.begin with now := t.now })
    ∧ (∀ l, s.tick.edge = .waiting at_ l true late → hdrVer p = 1 → ∃ t, exec (.tickHeader time p) s = .next t
      ∧ t.tick = { s.tick with edge := .building at_ p, build := 3, buildFor := some h }
      ∧ (t.err .tickSeq = true ↔ s.err .tickSeq = true ∨ hostTick p ≠ (s.tick.count + 1) % 2 ^ 64)
      ∧ (t.err .tickHeader = true ↔ s.err .tickHeader = true ∨ h.stops ≠ (rawHeader p).stops ∨ (announce h p).2 = true ∨ s.inOrder h = false)
      ∧ fixed t = fixed { s.begin with now := t.now })
    ∧ (s.tick.edge = .waiting at_ false false late → hdrVer p = 1 → s.tick.next = none → ∃ t, exec (.tickHeader time p) s = .next t
      ∧ t.tick = { s.tick with edge := .building at_ p, build := 1, buildFor := some h } ∧ fixed t = fixed { s.begin with now := t.now })
    ∧ (∀ l tt, s.tick.edge = .waiting at_ l false late → hdrVer p = 1 → s.tick.next = some tt → s.tick.ann = some h → s.inOrder h = true →
        tt.hdr = h → ∃ t, exec (.tickHeader time p) s = .next t ∧ acked t ∧ t.tick.cur = some tt)
    ∧ (s.tick.edge = .waiting at_ true false late → hdrVer p = 1 → ∃ t, exec (.tickHeader time p) s = .next t ∧ acked t)

/-- The builder's product (R37, R43, R50, R51). The timetable is that of the header and of the inputs that the build began with, whatever
has changed since. Where the builder may write its program (assumption log 80), it brings TICK_ACK for a header that waits, and stands
ready, with no tick begun, for the tick announced, the engine ENABLED. A program that the builder may not write, and one for a build that
has not begun, a boundary of its line being due or a descriptor of the tick's start unchecked (R414), is no event: only time passes. While
issue is paused the builder pauses too (R558).
Completing here: TIMETABLE_BUILD. -/
def Obligations.TimetablesBuilt : Prop :=
  (∀ (time : Nat) (b : Built) (s : State), s.paused = true → exec (.timetableBuild time b) s = .next s.begin)
  ∧ ∀ (time : Nat) (b : Built) (s : State), s.live = true → s.paused = false →
    let u : State := { s.begin with now := max s.now time }
    let waits (h : Header) : Prop := ∃ a p, s.tick.edge = .building a p ∧ h = (rawHeader p).clean
    let announced (h : Header) : Prop := s.tick.edge = .none ∧ s.tick.build = 1 ∧ s.tick.buildFor = some h ∧ s.engine = .enabled
    (∀ (h : Header) (i : Inputs), u.beginBuild.inputs = some i →
      let view := u.withInputs i
      let tt := view.timetable h (s.tick.count + 1) b
      let may := view.programOk i tt b.woven = true
      (waits h → may → ∃ t, exec (.timetableBuild time b) s = .next t ∧ t.tickAck = true ∧ t.tick.count = s.tick.count + 1
        ∧ t.tick.cur = some tt ∧ t.budget = fld (s.reg 0x2000) 6 16 ∧ t.regs = s.regs ∧ t.engine = s.engine)
      ∧ (announced h → may → ∃ t, exec (.timetableBuild time b) s = .next t
        ∧ t.tick = { s.tick with next := some tt, build := 2, buildFor := none } ∧ t.inputs = none
        ∧ fixed t = fixed { s.begin with now := t.now })
      ∧ (may → tt.hdr = h ∧ tt.tick = s.tick.count + 1 ∧ tt.lines = b.lines ∧ tt.fetch = b.fetch ∧ tt.standing = false)
      ∧ (waits h ∨ announced h → ¬ may → exec (.timetableBuild time b) s = .next u))
    ∧ (∀ h : Header, u.beginBuild.inputs = none → waits h ∨ announced h → exec (.timetableBuild time b) s = .next u)

/-- Stops open and close (R15, R18, R20, R23, R26), none waiting from before. STOP_VALID names the stop, and STOP_ID 7 frames the tick
header and opens nothing; named by the header, not opened before in the tick and at most one other open, the stop opens with its plan's
rows; not named, or a second time, it is a framing error that returns no delta and has every row late; while two are open, or an edge
awaits its TICK_ACK, it waits. STOP_VALID falling ends the ingress: in a LAYER tick the rows that have not come are late, with
STOP_FRAMING (R17); a stop that still waits will open in its turn. Stop-data flits (R17, R507, R508), no pause and no edge awaiting its
TICK_ACK: the next flit of its port, of the framed stop and within the stop's count, is taken and the port's next is expected; with no
ingress open, another stop, another place or past the count it is discarded with STOP_FRAMING, and the stop stands; while the framed stop
waits no flit is taken. Completing here: STOP_OPEN, STOP_CLOSE, STOP_DATA_FLIT. -/
def Obligations.StopsFramed : Prop :=
  (∀ (stop : Nat) (s : State), s.live = true → s.tick.pinStop = none → s.tick.shut = [] →
    let opened (p : State → Prop) : Prop := ∃ t, exec (.stopOpen stop) s = .next t ∧ p t
    let waits : Prop := opened fun t => t = { s with tickAck := false, stopDone := [], tick := { s.tick with pinStop := some stop } }
    let fresh := ∀ x ∈ s.tick.stops, ¬ (x.stop = stop ∧ x.tick = s.tick.count ∧ x.ingress = true)
    (stop = 7 → waits)
    ∧ (stop < 7 → (s.awaitsAck = true ∨ 2 ≤ s.openStops) → waits)
    ∧ (∀ p, stop < 7 → s.awaitsAck = false → s.openStops < 2 → fresh → s.mayOpen stop = true → s.planOf stop = some p → opened fun t =>
        ∃ x, t = { s with tickAck := false, stopDone := [], tick := { s.tick with pinStop := some stop, stops := s.tick.stops ++ [x] } }
          ∧ x.stop = stop ∧ x.plan = p ∧ x.framing = false ∧ x.ingress = true ∧ x.ended = false ∧ x.done = false
          ∧ x.emitted = [] ∧ x.tick = s.tick.count ∧ x.next0 = 0 ∧ x.next1 = 2)
    ∧ (stop < 7 → s.awaitsAck = false → s.openStops < 2 → fresh → s.mayOpen stop = false → s.tick.cur.isSome = true → opened fun t =>
        t.err .stopFraming = true ∧ ∃ x, t.tick = { s.tick with pinStop := some stop, stops := s.tick.stops ++ [x] }
          ∧ x.stop = stop ∧ x.framing = true ∧ x.ended = false ∧ x.emitted = [] ∧ x.late = x.plan.rows))
  ∧ (∀ s : State, s.live = true → s.tick.shut = [] →
    let closed (p : State → Prop) : Prop := ∃ t, exec .stopClose s = .next t ∧ t.tick.pinStop = none ∧ t.tick.count = s.tick.count ∧ p t
    (s.tick.pinStop = none → exec .stopClose s = .next s.begin)
    ∧ (∀ p, s.pinned = some p → s.framed = none → s.awaitsAck = false → 2 ≤ s.openStops → closed fun t =>
        t = { s with tickAck := false, stopDone := [], tick := { s.tick with pinStop := none, shut := [p] } })
    ∧ (∀ x, s.framed = some x → x.ended = true → closed fun t =>
        t = { s with tickAck := false, stopDone := [], tick := { s.tick with pinStop := none, stops := t.tick.stops } }
        ∧ ∀ y ∈ t.tick.stops, y.stop = x.stop → y.tick = x.tick → y.framing = x.framing → y.ingress = false)
    ∧ (∀ x, s.framed = some x → s.stopAt x.stop = some x → x.ended = false → s.curHdr.kind = 1 → s.standing = false → closed fun t =>
        (s.missing 1 x ≠ [] → t.err .stopFraming = true) ∧ (s.missing 1 x = [] → t.errs = s.errs)
        ∧ ∃ y, t.stopAt x.stop = some y ∧ y.ingress = false ∧ y.plan = x.plan ∧ y.emitted = x.emitted
            ∧ ∀ i, i ∈ y.late ↔ i ∈ x.late ∨ (i ∈ s.missing 1 x ∧ i ∉ x.emitted)))
  ∧ (∀ (port : Nat) (tag : FlitTag) (payload : Payload) (s : State), s.live = true → s.awaitsAck = false → s.paused = false → port < 2 →
    s.tick.shut = [] →
    let discarded : Prop := ∃ t, exec (.stopDataFlit port tag payload) s = .next t ∧ t.err .stopFraming = true ∧ t.tick = s.tick
      ∧ fixed t = fixed s.begin
    (s.tick.pinStop = none → discarded)
    ∧ (s.tick.pinStop.isSome = true → s.framed = none → 2 ≤ s.openStops → exec (.stopDataFlit port tag payload) s = .next s.begin)
    ∧ ∀ x, s.framed = some x → x.framing = false → s.curHdr.kind ≠ 0 →
        let f := ainFidx tag
        let due := ainStop tag = x.stop ∧ f = (if port = 0 then x.next0 else x.next1) ∧ f < x.flits
        (¬ due → discarded)
        ∧ (due → ∃ t, exec (.stopDataFlit port tag payload) s = .next t
          ∧ { x with next0 := (if port = 0 then nextFidx f else x.next0), next1 := (if port = 0 then x.next1 else nextFidx f),
                     data := x.data ++ [(f, payload)] } ∈ t.tick.stops
          ∧ (∀ y ∈ s.tick.stops, y.stop ≠ x.stop → y ∈ t.tick.stops)
          ∧ t = { s with tickAck := false, stopDone := [], links := t.links, tick := { s.tick with stops := t.tick.stops } }))

/-- The program of a tick (R65 to R67), no stop waiting to open and issue not paused: TIMETABLE_WAIT_RELEASE completes. A WAIT whose
condition does not hold, and before which no row need leave (assumption log 103), issues nothing and stays; a WAIT that holds issues and
the program goes on, here, with no fetch, exchange or activation slot, to the TICK_END that follows it, which ends it; a program without a
further line has ended. Completing here: TIMETABLE_WAIT_RELEASE. -/
def Obligations.ProgramRuns : Prop :=
  ∀ (fetchDone credit : Bool) (cur : Timetable) (s : State), s.live = true → s.tick.pinStop = none → s.tick.shut = [] → s.paused = false →
    s.tick.active = true → s.tick.run.ended = false → s.tick.cur = some cur →
    let bare (l : TLine) : Prop := xchSlot l = 0 ∧ actSlot l = 0 ∧ ∀ k, k < 4 → fetchKind (fetchSlot l k) = 0
    (∀ l, cur.lines[s.tick.run.pc]? = some l → ctlOp l = 3 → s.waitHolds l fetchDone credit = false →
      (ctlWait l ≠ 2 ∨ ∀ c ∈ s.tick.cons, c.done = false) → exec (.timetableWaitRelease fetchDone credit) s = .next s.begin)
    ∧ (∀ l e, cur.lines[s.tick.run.pc]? = some l → cur.lines[s.tick.run.pc + 1]? = some e → ctlOp l = 3 → ctlOp e = 6 → bare l → bare e →
        s.waitHolds l fetchDone credit = true →
        ∃ t, exec (.timetableWaitRelease fetchDone credit) s = .next t ∧ t.tick.run.ended = true ∧ t.tick.run.pc = s.tick.run.pc + 1
          ∧ t.tick.cons = s.tick.cons ∧ fixed t = fixed s.begin ∧ t.links = s.links ∧ t.reqs = s.reqs)
    ∧ (cur.lines[s.tick.run.pc]? = none → ∃ t, exec (.timetableWaitRelease fetchDone credit) s = .next t ∧ t.tick.run.ended = true
        ∧ t = { s with tickAck := false, stopDone := [], tick := { s.tick with run := t.tick.run } })

/-- The times of 100 ms (R21, R27, R44, R482): an accepted edge with no header is abandoned with TICK_HEADER and IX7 enters idle; with no
edge and no unfinished work it enters idle; in a quiesce with no edge, the stops of the tick under way that were not opened are skipped,
with STOP_FRAMING, and with none of them nothing happens but that the time passes. In idle the next edge is a cold start, and no
announcement or built timetable remains. The end of a tick's work and its budget (R29, R44, R481). Finished, the tick is active no longer
and TICK_LATE falls, and an engine not ENABLED enters idle at once; while work is unfinished TICK_LATE is asserted exactly when the time
since TICK_ACK exceeds the effective budget, THROTTLE_N is low or an overrun edge is pending. Completing here: TICK_HEADER_TIMEOUT,
IDLE_TIMEOUT, QUIESCE_EDGE_TIMEOUT, TICK_WORK_DONE, TICK_BUDGET_EXPIRY. -/
def Obligations.TickTimes : Prop :=
  (∀ s : State, s.live = true →
    let idle (t : State) : Prop := t.tick.idle = true ∧ t.tick.cold = true ∧ t.tick.ann = none ∧ t.tick.next = none ∧ t.tick.build = 0
      ∧ t.tick.edge = .none ∧ t.inputs = none ∧ t.tick.count = s.tick.count ∧ fixed t = fixed { s.begin with now := t.now }
    (∀ a l c o, s.tick.edge = .waiting a l c o → ∃ t, exec .tickHeaderTimeout s = .next t ∧ idle t ∧ t.tick.late = false
      ∧ t.err .tickHeader = true ∧ t.now = max s.now (a + 130000000))
    ∧ (s.tick.edge = .none → s.tick.active = false → s.tick.idle = false → ∃ t, exec .idleTimeout s = .next t ∧ idle t
      ∧ t.errs = s.errs ∧ t.now = max s.now (s.tick.lastRise + 130000000))
    ∧ (s.engine = .quiescing ∨ s.engine = .held →
      let unopened (st : Nat) : Prop := st ∈ s.curHdr.stopList ∧ s.mayOpen st = true ∧ s.tick.pinStop ≠ some st ∧ st ∉ s.tick.shut
      let now := max s.now (s.quiesceAt + 130000000)
      (s.tick.active = true → (∃ st, unopened st) → ∃ t, exec .quiesceEdgeTimeout s = .next t ∧ t.err .stopFraming = true
        ∧ (∀ st, unopened st → st ∈ t.tick.skips) ∧ fixed t = fixed { s.begin with now := now })
      ∧ (s.tick.active = false ∨ (∀ st, ¬ unopened st) → exec .quiesceEdgeTimeout s = .next { s.begin with now := now })))
  ∧ (∀ (time : Nat) (s : State), s.live = true →
    (s.tick.active = true → s.workDone = true → ∃ t, exec (.tickWorkDone time) s = .next t ∧ t.tick.active = false ∧ t.tick.late = false
      ∧ (s.engine ≠ .enabled → t.tick.idle = true) ∧ (s.engine = .enabled → t.tick.idle = s.tick.idle)
      ∧ t.now = max s.now time ∧ fixed t = fixed { s.begin with now := t.now })
    ∧ (s.tick.active = false ∨ s.workDone = false → exec (.tickWorkDone time) s = .next { s.begin with now := max s.now time })
    ∧ (s.tick.active = true → ∃ t, exec (.tickBudgetExpiry time) s = .next t
      ∧ t = { s with tickAck := false, stopDone := [], now := max s.now time, tick := { s.tick with late := t.tick.late } }
      ∧ (t.tick.late = true ↔ (∃ b, s.budgetCycles = some b ∧ s.tick.ackAt + b < max s.now time) ∨ s.power.throttle = true
          ∨ (∃ a h, s.tick.edge = .strict a h) ∨ ∃ a l c, s.tick.edge = .waiting a l c true)))

/-! Routing, heads, step boundaries, requests. -/

/-- One row's choices (R183, R184): in order, each placed on its own adapter-expert while that has room, else sided on the first with room
among the ranking's next places up to the limit, else dropped; and no adapter-expert is filled past its capacity (R181). ROUTING_PLACEMENT
completes, whatever it names. A row group's placement (R183, R187, R190, R524): of a LAYER stop under way, the exchange not lost, a group
with routing rows that is not placed yet, after every earlier such group, its score consignment returned where it has learned rows. Each
of its routing rows that is not late and whose set is in force gets its record; earlier records keep their choices. The decision of its
probe rows (R193): once their score consignment has returned, each that is in the consignment has its confidence, and the group is judged.
Where neither is due, nothing changes. Completing here: ROUTING_PLACEMENT. -/
def Obligations.Routing : Prop :=
  (∀ (cap : Nat → Nat) (order choices fill : List Nat) (limit cursor : Nat),
    let r := placeRow cap order limit choices cursor fill
    r.1.map (·.choice) = choices
    ∧ (∀ e, r.2.getD e 0 ≤ max (fill.getD e 0) (cap e)) ∧ (∀ e, fill.getD e 0 ≤ r.2.getD e 0)
    ∧ ∀ p ∈ r.1,
        (p.outcome = 0 ∧ p.final = some p.choice)
        ∨ (p.outcome = 1 ∧ ∃ k, cursor ≤ k ∧ k < limit ∧ p.final = some (order.getD k 0))
        ∨ (p.outcome = 2 ∧ p.final = none))
  ∧ (∀ (stop group : Nat) (s : State), s.live = true →
    let size := max 1 (s.groupSizeOf stop)
    let stands (t : State) : Prop := fixed t = fixed s.begin ∧ t.adMem = s.adMem ∧ t.reqs = s.reqs ∧ t.dirs = s.dirs
    let open_ (x : Stop) : Prop := s.curHdr.kind = 1 ∧ x.ended = false ∧ s.exchangeLost = false
    let back := ∃ c, s.scoreCons stop group = some c ∧ c.done = true ∧ c.ended = false
    let places (x : Stop) : Prop := open_ x ∧ (∃ r ∈ x.plan.routing, r.1 / size = group) ∧ group ∉ x.placed
      ∧ (∀ r ∈ x.plan.routing, r.1 / size < group → r.1 / size ∈ x.placed) ∧ (back ∨ ∀ r ∈ x.plan.learned, r.1 / size ≠ group)
    let judges (x : Stop) : Prop := open_ x ∧ back ∧ (∃ r ∈ x.plan.probe, r / size = group) ∧ group ∉ x.judged
    (∀ x, s.stopAt stop = some x → places x → ∃ t, exec (.routingPlacement stop group) s = .next t ∧ stands t
      ∧ (∃ y, t.stopAt stop = some y ∧ y.placed = x.placed ++ [group] ∧ y.plan = x.plan ∧ y.emitted = x.emitted)
      ∧ (∀ i slot d c, (i, slot) ∈ x.plan.routing → i / size = group → i ∉ x.plan.late → s.dirAt slot = some d →
          d.copyAt s.tick.count = some c →
          ∃ r ∈ t.tick.recs, r.stop = stop ∧ r.row = i ∧ r.tenant = d.tenant ∧ r.mode = rtMode c.route ∧ r.k = rtK c.route)
      ∧ (∀ r ∈ s.tick.recs, ∃ r' ∈ t.tick.recs, r'.stop = r.stop ∧ r'.row = r.row ∧ r'.choice = r.choice ∧ r'.final = r.final
          ∧ r'.g = r.g))
    ∧ (∀ x p d c q, s.stopAt stop = some x → judges x → x.plan.exitPt = some p →
        s.resolveKind (s.exitHandle s.curHdr.line p) s.tick.count 2 = some (d, c) → c.parts.head? = some q →
          ∃ t, exec (.routingPlacement stop group) s = .next t ∧ stands t ∧ ∃ y, t.stopAt stop = some y ∧ group ∈ y.judged ∧ y.plan = x.plan
            ∧ ∀ r ∈ x.plan.probe, r / size = group → r ∉ x.plan.gone → ∃ w, (r, w) ∈ y.confs)
    ∧ ((∀ x, s.stopAt stop = some x → ¬ places x ∧ ¬ judges x) → exec (.routingPlacement stop group) s = .next s.begin))

/-- The head stop of a HEAD tick. The headers of the token rings, at group position 0 (R380, R382): each request with head rows takes
PROD, CONS and the interrupt settings of its header, and has no room where more records could come than fit, or where no header came, a
failed read (R531); while a write of a PROD to one of the rings is outstanding no header is taken (R529). Here no record of an expired
request waits for such a read (R408). The decision of a group (R370, R371, R375 to R377, R394): each request of the group all of whose
gathers have come or ended is decided once. With a gather not returned, or NO_ROOM or LATE in one, it is held; else it emits what its
procedure gives, its position advances by that many tokens, it is in DECODE, and it ends where its procedure ends. Completing here:
RING_HEADER_READ, HEAD_DECISION. -/
def Obligations.HeadsDecided : Prop :=
  ∀ (x : Stop) (s : State), s.live = true → s.tick.active = true → s.curHdr.kind = 2 →
    let plain (hdrs : List (Nat × DescBytes)) : Prop := s.tick.tokWant = false ∧ (∀ f ∈ s.finals, f.asked = false)
      ∧ (hdrs = [] ∨ ∃ h ∈ hdrs, (s.reqAt h.1).isSome = true)
    let held := ∃ h ∈ s.headReqs x, ∃ q w, s.reqAt h.1 = some q ∧ w ∈ s.writes ∧ w.kind = .prod ∧ w.addr = q.ringBase.toNat
    (∀ hdrs, plain hdrs → s.pos = 0 → s.planOf 0 = some x.plan → ¬ held → ∃ t, exec (.ringHeaderRead hdrs) s = .next t
      ∧ fixed t = fixed s.begin
      ∧ (∀ sl rows q, (sl, rows) ∈ s.headReqs x → s.reqAt sl = some q →
          (hdrs.find? (fun y => y.1 = sl) = none → t.reqAt sl = some { q with noRoom := true } ∧ t.err .fmErr = true)
          ∧ ∀ hb, hdrs.find? (fun y => y.1 = sl) = some hb →
              let r := ringHdrOf hb.2
              t.reqAt sl = some { q with
                noRoom := !r.room q.ringLog2 ((s.nrOf s.curHdr.line q rows).1 + 1)
                prod := r.prod, cons := r.cons, irqMode := r.mode, irqN := r.irqN }
              ∧ (r.bad q.ringLog2 = true → t.err .ringPtr = true))
      ∧ ∀ sl, (∀ rows, (sl, rows) ∉ s.headReqs x) → t.reqAt sl = s.reqAt sl)
    ∧ (∀ hdrs, plain hdrs → s.pos ≠ 0 ∨ (s.planOf 0 = some x.plan ∧ held) → exec (.ringHeaderRead hdrs) s = .next s.begin)
    ∧ ∀ time group, s.stopAt 0 = some x → x.ended = false → s.standing = false → ∃ t, exec (.headDecision time group) s = .next t
      ∧ t.now = max s.now time ∧ fixed t = fixed { s.begin with now := t.now } ∧ t.adMem = s.adMem
      ∧ ∀ sl rows q, (sl, rows) ∈ s.headReqs x → s.reqAt sl = some q → sl ∉ s.tick.decided →
          (∀ r ∈ rows, ∀ c, s.gatherOf x r = some c → c.done = true ∨ c.ended = true) →
          (∃ r ∈ rows, ∀ c, s.gatherOf x r = some c → c.plan.group = group) →
          let out := rows.all (s.gathered x) && !rows.any (s.noRoomIn x) && !rows.any (s.lateIn x)
          let nr := (s.nrOf s.curHdr.line q rows).1
          let o := s.sampleRows x q (s.headSamp q).1 0 (rows.take nr) (q.drafts.take (nr - 1))
          sl ∈ t.tick.decided ∧ ∃ q', t.reqAt sl = some q' ∧ q'.tag = q.tag ∧ q'.samp = q.samp
            ∧ (out = false → q'.held = true ∧ q'.pos = q.pos ∧ q'.st = q.st ∧ q'.endP = q.endP ∧ q'.drafts = q.drafts)
            ∧ (out = true → q'.held = false ∧ q'.st = .decode ∧ q'.pos = q.pos + o.out.length ∧ q'.endP = (q.endP || o.fin)
                ∧ q'.lastTok = (o.out.map (·.1)).getLastD q.lastTok ∧ o.out.length ≤ nr ∧ (o.fin = true → q'.drafts = []))

/-- A step boundary (R397 to R411, R613), the HEAD tick's own work over: the line's manifest is of the next step, of the HEAD tick, and
holds at most ROWS_MAX rows; its step, the last thing written, names it. Between ticks, no request of the line that had ended or been
cancelled is left. Otherwise nothing happens. Completing here: STEP_BOUNDARY. -/
def Obligations.StepBoundaries : Prop :=
  ∀ (line : Nat) (hdrs : List (Word × DescBytes)) (s : State), s.live = true →
    (line < 2 → s.boundaryReady line = true → ∃ t, exec (.stepBoundary line hdrs) s = .next t ∧ fixed t = fixed s.begin
      ∧ (t.line line).boundary = false ∧ (t.line line).started = true ∧ (t.line line).stepped = true
      ∧ (t.line line).step = ((s.line line).step + 1) % 2 ^ 32 ∧ (t.line line).manTick = (s.line line).headTick
      ∧ (t.line line).rows.length ≤ fld (s.reg (0x20D0 + 4 * line)) 0 14
      ∧ t.outstanding (.manifest line) (s.addr64 (0x20D8 + 8 * line) + ((s.line line).step + 1) % 2 ^ 32 % 2 * 0x41000)
          (leBytes 4 (((s.line line).step + 1) % 2 ^ 32))
      ∧ (s.tick.active = false → s.tick.pinStop = none → s.tick.shut = [] → ∀ q ∈ t.reqs, q.line = line → q.endP = false ∧ q.cancelP = false)
      ∧ ∀ l, l < 2 → l ≠ line → (t.line l).step = (s.line l).step ∧ (t.line l).rows = (s.line l).rows
          ∧ (t.line l).boundary = (s.line l).boundary)
    ∧ (¬ (line < 2 ∧ s.boundaryReady line = true) → exec (.stepBoundary line hdrs) s = .next s.begin)

/-- What ends or moves a request beside the boundaries. Its TTL (R407): a paused request whose time has come, with no RESUME pending,
leaves its slot and its pages, its final record EXPIRED waits at group position 0 for its ring's header, and a PAUSE or RESUME that waits
for it completes CANCELLED. With that header, and no write of its PROD outstanding (R408, R529), the record is written where it has room,
before the PROD that counts it, and waits for a boundary where it has none (R409). A page move that lands (R404), its page read and
written, issue not paused and its share not 0 while a tick executes, or a manifest waiting for it (R301): the list entry names the
destination in the other pool; the last one of a PAUSED request completes its PAUSE (R395). Completing here: RING_HEADER_READ, TTL_EXPIRY,
PAGE_MOVE_LANDED. -/
def Obligations.RequestsExpireAndMove : Prop :=
  ∀ s : State, s.live = true →
    (∀ slot n r, s.reqAt slot = some r → r.expires n = true → n ≤ s.tick.count + 1 → ∃ t, exec (.ttlExpiry slot n) s = .next t
      ∧ t.reqs = s.reqs.filter (fun x => x.slot != slot) ∧ t.used2 = s.used2.filter (fun p => !r.own2.contains p)
      ∧ t.used4 = s.used4.filter (fun p => !r.own4.contains p)
      ∧ (s.pos = 0 → s.finals.length < 4096 → t.finals = s.finals ++ [{ finalOf r 0x31 n with asked := true }]) ∧ (s.pos ≠ 0 → t.finals = s.finals)
      ∧ AllAnswered s t (fun p => p = .pause slot ∨ p = .resume slot) (ans 0x30 0)
      ∧ fixed t = fixed s.begin ∧ t.dirs = s.dirs ∧ t.adMem = s.adMem ∧ t.lines = s.lines)
    ∧ (∀ slot n, (∀ r, s.reqAt slot = some r → r.expires n = false ∨ s.tick.count + 1 < n) →
        exec (.ttlExpiry slot n) s = .next s.begin)
    ∧ (∀ f hdrs hb, s.finals = [f] → f.asked = true → s.reqAt (tagSlot f.tag) = none → s.tick.active = false →
        hdrs.find? (fun h => h.1 = tagSlot f.tag) = some hb → (∀ w ∈ s.writes, ¬ (w.kind = .prod ∧ w.addr = f.ringBase.toNat)) →
        let h := ringHdrOf hb.2
        let r : TokRec := ⟨0xFFFFFFFF, f.stamp.toNat, f.tag, true, false, true, false, false, f.status, 0⟩
        ∃ t, exec (.ringHeaderRead hdrs) s = .next t ∧ fixed t = fixed s.begin ∧ t.reqs = s.reqs
          ∧ (h.room f.ringLog2 1 = false → t.finals = [{ f with asked := false }])
          ∧ (h.room f.ringLog2 1 = true → t.finals = []
              ∧ t.outstanding (.tokenRecord (tagSlot f.tag)) (f.ringBase.toNat + 64 + 16 * (h.prod.toNat % 2 ^ f.ringLog2))
                  (r.bytes h.prod f.ringLog2)
              ∧ t.outstanding .prod f.ringBase.toNat (leBytes 4 (h.prod + 1).toNat)))
    ∧ (∀ slot idx q x m e, s.reqAt slot = some q →
        s.reads.find? (fun y => y.kind == RKind.pageMove slot idx && !y.failed && y.whole) = some x →
        (∀ w ∈ s.writes, w.kind ≠ .pageMove slot idx) →
        q.moves.find? (fun y => y.1 = idx) = some m → q.pages[idx]? = some e →
        s.paused = false → (s.manifestHeld = true ∨ s.shareMay true false = true) → ∃ t, exec (.pageMoveLanded slot idx) s = .next t
        ∧ ReqNow s t { q with pages := setAt q.pages idx (!e.1, m.2), moves := q.moves.erase m }
        ∧ (q.st = .paused → q.moves = [m] → AllAnswered s t (fun p => p = .pause slot) (ansOk 0 0 0))
        ∧ fixed t = fixed s.begin ∧ t.adMem = s.adMem ∧ t.dirs = s.dirs)
    ∧ (∀ slot idx, (s.paused = true ∨ s.reqAt slot = none ∨ (∃ w ∈ s.writes, w.kind = .pageMove slot idx)
          ∨ ∀ y ∈ s.reads, y.kind = RKind.pageMove slot idx → y.failed = true ∨ y.whole = false) →
        exec (.pageMoveLanded slot idx) s = .next s.begin)

/-! Shunting. -/

/-- The end of a run's transfer (R249, R251, R292), of a copy that is not poisoned, issue not paused and its share not 0 while a tick
executes (R301): a moved run lies at its destination, in the tier decided, and moves no longer, and its source stands only for the fetches
issued before; a run of a conversion is built. Otherwise nothing happens. The remap of a converted copy (R215, R251, R289), between ticks,
every run of it built and the copy not poisoned: the copy has the decided format with its parts and wagons; one with a non-finite value
keeps its format and is counted (R289). With a tick's work under way, or a run still to build, nothing happens. A write-back that lands
(R262, R296, R297), in its turn: the wagon is clean and the tier holds it, unless a step dirtied it again meanwhile, and then it stays
dirty and is written back again; where it may not land, or none is under way, nothing happens. Completing here: RUN_MOVE_REMAP,
CONVERSION_REMAP, WRITE_BACK_LANDED. -/
def Obligations.Remaps : Prop :=
  (∀ (addr : Nat) (s : State), s.live = true →
    let may (r : TRun) (d : Dir) : Prop := r.moving = true ∧ r.built = false ∧ d.poisoned = false
      ∧ s.landMay (decide (2 ≤ r.src ∨ 2 ≤ r.tier)) (decide (r.src = 1 ∨ r.tier = 1)) = true
    let runs (p : State → Prop) : Prop := ∃ t, exec (.runMoveRemap addr) s = .next t
      ∧ fixed t = fixed s.begin ∧ t.adMem = s.adMem ∧ t.charges = s.charges ∧ t.tick = s.tick ∧ p t
    (∀ r d c, s.tmap.find? (fun r => r.addr = addr) = some r → s.ownerOf addr = some (d, c) → may r d →
      (d.conv = none → r.tier ≠ 0 → runs fun t =>
        { r with loc := r.dest.getD r.loc, src := r.tier, dest := none, moving := false, due := false } ∈ t.tmap
        ∧ ((∃ f ∈ s.frames, f.group.isSome = true ∧ f.tier = r.src ∧ f.loc = r.loc) → ⟨addr, r.src, r.loc, 0⟩ ∈ t.stale))
      ∧ (d.conv.isSome = true → runs fun t => { r with built := true } ∈ t.tmap))
    ∧ ((∀ r d c, s.tmap.find? (fun r => r.addr = addr) = some r → s.ownerOf addr = some (d, c) → ¬ may r d) →
      exec (.runMoveRemap addr) s = .next s.begin))
  ∧ (∀ (slot f : Nat) (d : Dir) (c : Copy) (s : State), s.live = true → s.dirAt slot = some d → d.cur = some c → d.conv = some f →
    let ready := s.tick.active = false ∧ d.poisoned = false ∧ ∀ r ∈ s.tmap, ofCopy d c r = true → r.built = true
    let runs (p : State → Prop) : Prop := ∃ t, exec (.conversionRemap slot) s = .next t
      ∧ fixed t = fixed s.begin ∧ t.charges = s.charges ∧ t.reqs = s.reqs ∧ t.tick = s.tick ∧ p t
    (ready → s.copyNonfinite slot c = true → runs fun t => t.adMem = s.adMem
      ∧ (∃ d', t.dirAt slot = some d' ∧ d'.conv = none ∧ d'.cur = some c)
      ∧ t.cntVal .convertSkipped = min (s.cntVal .convertSkipped + 1) (2 ^ 64 - 1)
      ∧ ∀ r ∈ t.tmap, ofCopy d c r = true → r.built = false)
    ∧ (ready → s.copyNonfinite slot c = false → runs fun t => ∃ d', t.dirAt slot = some d' ∧ d'.conv = none
        ∧ d'.cur = some { c with fmt := f, mx6v := false, wagons := c.convWagons f, parts := c.convParts f }
        ∧ (s.builtAhead = none → d'.prior = none))
    ∧ (¬ ready → exec (.conversionRemap slot) s = .next s.begin))
  ∧ (∀ (addr : Nat) (s : State), s.live = true →
    (∀ x, s.reads.find? (fun x => x.kind == RKind.writeBack addr) = some x → s.mayLand x addr = true →
      ∃ t, exec (.writeBackLanded addr) s = .next t
      ∧ fixed t = fixed s.begin ∧ t.adMem = s.adMem ∧ t.charges = s.charges ∧ t.tick = s.tick ∧ t.tmap.map (·.addr) = s.tmap.map (·.addr)
      ∧ (x.again = true → t.tmap.map (·.dirty) = s.tmap.map (·.dirty))
      ∧ (x.again = false → (∀ y ∈ t.reads, y ∈ s.reads ∧ y.id ≠ x.id)
          ∧ (∀ e, e ∈ t.tierOld ↔ e ∈ s.tierOld ∧ e.addr ≠ addr)
          ∧ (∀ r ∈ t.tmap, r.addr ≤ addr → addr < r.addr + 69632 → r.dirty.getLsbD ((addr - r.addr) / 4352) = false)
          ∧ ∀ r ∈ s.tmap, ¬ (r.addr ≤ addr ∧ addr < r.addr + 69632) → ∃ r' ∈ t.tmap, r'.addr = r.addr ∧ r'.dirty = r.dirty ∧ r'.loc = r.loc))
    ∧ ((∀ x, s.reads.find? (fun x => x.kind == RKind.writeBack addr) = some x → s.mayLand x addr = false) →
      exec (.writeBackLanded addr) s = .next s.begin))

/-- Bad reads of the depot (R303) and parity errors of the platform (R304, R305, R590). Re-reads are counted, in CNT_DEPOT_REREAD or
CNT_WAGON_REREAD and in the train's TRAIN_ERR; an object that stays unreadable, or whose dirty frame fails, is poisoned once, with
POISONED and its count, its row updates ending with it, so that no row's PENDING stands (R351); a clean frame is counted, with
PLATFORM_PARITY, and its wagon is fetched again into another frame of the car, its fetch group waiting again. Completing here:
DEPOT_CRC_MISMATCH, PLATFORM_PARITY_ERROR. -/
def Obligations.BadReadsCounted : Prop :=
  ∀ (addr train : Nat) (s : State), s.live = true →
    let poisons (t : State) : Prop := fixed t = fixed s.begin ∧ t.adMem = s.adMem ∧ ∀ d, s.dirAt (slotOf addr) = some d → d.poisoned = false →
      let e := ((s.endRows d.slot (ans 0x51 0)).dirAt d.slot).getD d
      DirNow s t { e with poisoned := true, convRuns := (0, []) } ∧ t.err .poisoned = true
      ∧ ((∀ u ∈ s.rowUps, u.slot ≠ d.slot) → e = d)
      ∧ t.cntVal .poisoned = min (s.cntVal .poisoned + 1) (2 ^ 64 - 1)
    let counted (t : State) (c : Cnt) (n : Nat) : Prop := t.cntVal c = min (s.cntVal c + n) (2 ^ 64 - 1)
    (∀ wagonCheck rereads,
      let cnt : Cnt := if wagonCheck then .wagonReread else .depotReread
      let runs (readable : Bool) (n : Nat) (p : State → Prop) : Prop :=
        ∃ t, exec (.depotCrcMismatch addr wagonCheck train rereads readable) s = .next t ∧ counted t cnt n
        ∧ (∀ e, s.trainErr[train]? = some e → t.trainErr[train]? = some (min 65535 e.1, min 65535 (e.2 + n)))
        ∧ (∀ k, k ≠ train → t.trainErr[k]? = s.trainErr[k]?) ∧ p t
      runs true (max 1 (min 3 rereads)) (fun t => calm t = calm { s.begin with trainErr := t.trainErr } ∧ t.errs = s.errs)
      ∧ runs false 3 poisons)
    ∧ ∀ third,
      let runs (p : State → Prop) : Prop := ∃ t, exec (.platformParityError addr train third) s = .next t ∧ p t
      (s.dirtyAt addr = true → runs fun t => poisons t ∧ t.trainErr = s.trainErr)
      ∧ (s.dirtyAt addr = false → runs fun t => t.err .platformParity = true ∧ counted t .parityRefetch 1
          ∧ (∀ k, k ≠ train → t.trainErr[k]? = s.trainErr[k]?)
          ∧ (∀ e, s.trainErr[train]? = some e → t.trainErr[train]? = some (min 65535 (e.1 + 1), min 65535 e.2))
          ∧ fixed t = fixed s.begin
          ∧ ∀ f, third = false → s.frames.find? (fun f => f.train = train && f.addr % oldSpace = addr) = some f → s.frames.Nodup →
              s.frameFails addr < 2 → f.home ∈ t.tick.run.groups
              ∧ ∃ g ∈ t.frames, g.train = f.train ∧ g.car = f.car ∧ g.addr = f.addr ∧ g.slot ≠ f.slot ∧ g.group = some f.home
                  ∧ g.fails = f.fails + 1)

/-! Descriptors. -/

/-- What every descriptor meets first (R456, R467). A descriptor command whose descriptor is the oldest unchecked one and fails a
general check completes it with that check's status and changes nothing else; with another descriptor in front, or none, or a block
that cannot act, it does nothing. The checks in their order: the format in force (G1), the format holding the opcode (G2), a standing
group mismatch for a shared descriptor (G3), a quiescing engine (G4), a tenant not ENABLED (G5). What a build that has begun works
from stands, whatever the descriptors change, until that build is given up (R51). -/
def Obligations.GeneralChecks : Prop :=
  (∀ (i : Instr) (f : DescBytes → Bool) (s : State), descForm i = some f →
    (∀ tk a, s.live = true → s.front = some tk → f tk.bytes = true → s.generalCheck tk.bytes = some a →
      ∃ t, exec i s = .next t ∧ Answered s t tk a ∧ calm t = calm s.begin)
    ∧ ((s.live = false ∨ ∀ tk, s.front = some tk → f tk.bytes = false) → exec i s = .next s.begin))
  ∧ (∀ (i : Instr) (x : Inputs) (s t : State), (descForm i).isSome = true → s.inputs = some x → exec i s = .next t →
      t.inputs = some x ∨ t.inputs = none)
  ∧ ∀ (b : DescBytes) (s : State),
    let fmt := s.negot.getD 0 0
    let op := opcodeOf b
    let g1 := (fmt = 0 → op = 0 ∨ op = 1) ∧ (fmt ≠ 0 → op = 1 ∨ dfmtOf b = fmt)
    let g2 := fmt ≠ 0 → formatHolds fmt op = true
    let g3 := ¬ (isShared b = true ∧ s.err .groupMismatch = true ∧ s.engine ≠ .quiesced)
    let g4 := (s.engine = .quiescing ∨ s.engine = .held) → op = 0 ∨ op = 4 ∨ op = 2 ∨ op = 3
    let g5 := ∀ t, s.gateTenant b = some t → (s.tenant t).st = .enabled
    (¬ g1 → s.generalCheck b = some (ans 0x40 1)) ∧ (g1 → ¬ g2 → s.generalCheck b = some (ans 0x40 2))
    ∧ (g1 → g2 → ¬ g3 → s.generalCheck b = some (ans 0x16 0)) ∧ (g1 → g2 → g3 → ¬ g4 → s.generalCheck b = some (ans 0x17 0))
    ∧ (g1 → g2 → g3 → g4 → ¬ g5 → s.generalCheck b = some (ans 0x17 0)) ∧ (g1 → g2 → g3 → g4 → g5 → s.generalCheck b = none)

/-- NOP completes OK and changes nothing. NEGOTIATE (R478, R479), on ring 0 with the engine QUIESCED: for each of the four interfaces the
greatest version that both masks set is in force from then on, and the completion reports them; where some interface has none it completes
VERSION, with those interfaces in its detail, and the versions stand; elsewhere it completes VERSION 0x80. Completing here: NOP,
NEGOTIATE. -/
def Obligations.VersionsNegotiated : Prop :=
  ∀ (tk : Taken) (s : State),
    (Facing s .nop tk → ∃ t, exec .nop s = .next t ∧ Answered s t tk (ansOk 0 0 0) ∧ calm t = calm s.begin)
    ∧ (Facing s .negotiate tk →
      let common (i v : Nat) : Prop := (ownMasks.getD i 0).testBit v = true ∧ (dF tk.bytes (8 + 2 * i) 0 16).testBit v = true
      (tk.ring = 0 → s.engine = .quiesced → (∀ i, i < 4 → ∃ v, common i v) → ∃ t, exec .negotiate s = .next t
        ∧ (∀ i, i < 4 → common i (t.negot.getD i 0) ∧ ∀ w, t.negot.getD i 0 < w → ¬ common i w)
        ∧ Answered s t tk (ansOk (negWord t.negot) negCaps0 negCaps1) ∧ calm t = calm { s.begin with negot := t.negot })
      ∧ (tk.ring = 0 → s.engine = .quiesced → (∃ i, i < 4 ∧ ∀ v, ¬ common i v) → ∃ t n, exec .negotiate s = .next t
        ∧ (∀ i, i < 4 → (n.testBit i = true ↔ ∀ v, ¬ common i v)) ∧ Answered s t tk ⟨0x40, n, 0, negCaps0, negCaps1⟩
        ∧ calm t = calm s.begin)
      ∧ (tk.ring ≠ 0 ∨ s.engine ≠ .quiesced → ∃ t, exec .negotiate s = .next t ∧ Answered s t tk (ans 0x40 0x80)
        ∧ calm t = calm s.begin))

/-- OPEN_REQUEST (R392, R393, R470, R471). The checks of the parameter block and the prompt, in order, each with its answer; else a slot
that is FREE is given the next generation of its tag, the entry is QUEUED at position PROMPT_LEN with the descriptor's and the block's
fields, and the completion carries the tag. Completing here: OPEN_REQUEST. -/
def Obligations.RequestsOpened : Prop :=
  ∀ (param : Option (BitVec 1024)) (tk : Taken) (s : State), Facing s (.openRequest param) tk →
    let b := tk.bytes
    let refuses (a : Answer) : Prop := ∃ t, exec (.openRequest param) s = .next t ∧ Answered s t tk a ∧ calm t = calm s.begin
    let k0 := dF b 40 0 64 % 64 ≠ 0
    let k1 (p : BitVec 1024) := crc32c (bvBytes p) ≠ BitVec.ofNat 32 (dF b 28 0 32)
    let k2 := dF b 20 0 32 = 0 ∨ s.ctxLimit - 5 < dF b 20 0 32
    let k3 := dF b 32 0 64 % 64 ≠ 0
    (k0 → refuses (ans 0x18 17)) ∧ (¬ k0 → param = none → refuses (ans 0x18 18))
    ∧ ∀ p, param = some p → ¬ k0 →
      (k1 p → refuses (ans 0x18 17)) ∧ (¬ k1 p → k2 → refuses (ans 0x12 0x20)) ∧ (¬ k1 p → ¬ k2 → k3 → refuses (ans 0x12 0x21))
      ∧ (¬ k1 p → ¬ k2 → ¬ k3 → 4096 ≤ s.reqs.length → refuses (ans 0x11 0))
      ∧ (¬ k1 p → ¬ k2 → ¬ k3 → s.reqs.length < 4096 → ∃ t q, exec (.openRequest param) s = .next t
        ∧ ReqNow s t q ∧ q.slot = lowestFree (s.reqs.map (·.slot)) 0 ∧ t.gen q.slot = (s.gen q.slot + 1) % 2 ^ 20
        ∧ q.tag = mkReqTag (t.gen q.slot) q.slot ∧ Answered s t tk (ansOk q.tag.toNat 0 0)
        ∧ q.st = .queued ∧ q.tenant = dF b 12 0 16 ∧ q.line = dF b 8 0 1 ∧ q.prio = dF b 8 1 4 ∧ q.promptLen = dF b 20 0 32
        ∧ q.pos = q.promptLen ∧ q.done = 0 ∧ q.maxGen = max 1 (min (dF b 24 0 32) (s.ctxLimit - 4 - q.promptLen))
        ∧ q.samp = samplingOf (BitVec.ofNat 384 (fld p 192 384)) ∧ q.seq = s.opens ∧ q.pages = [] ∧ q.drafts = []
        ∧ calm t = calm { s.begin with reqs := t.reqs, gens := t.gens, opens := s.opens + 1, free := s.free + 1 })

/-- The descriptors that name a request (R363, R390, R394 to R396, R429). A tag not current completes STALE_TAG; CANCEL, PAUSE, RESUME and
SET_SAMPLING on a request already to be cancelled complete CANCELLED, and nothing changes. CANCEL marks the request, its rows cancelled
from the second tick after its read; PAUSE and RESUME wait, or a RESUME withdraws a pending PAUSE, which completes CANCELLED; elsewhere
they complete BAD_HANDLE. SET_SAMPLING replaces the sampling block; ADAPT_ENABLE's request form sets the training mask. Completing here:
CANCEL, PAUSE, RESUME, SET_SAMPLING, ADAPT_ENABLE_REQUEST. -/
def Obligations.RequestsCommanded : Prop :=
  ∀ (i : Instr) (tk : Taken) (s : State), i ∈ [.cancel, .pause, .resume, .setSampling, .adaptEnableRequest] → Facing s i tk →
    let tag := if i = .adaptEnableRequest then word12 tk.bytes else word8 tk.bytes
    let only (t : State) (r : Req) : Prop := ReqNow s t r ∧ calm t = calm { s.begin with reqs := t.reqs }
    let refuses (a : Answer) : Prop := ∃ t, exec i s = .next t ∧ Answered s t tk a ∧ calm t = calm s.begin
    (s.reqOf tag = none → refuses (ans 0x15 0))
    ∧ ∀ r, s.reqOf tag = some r → (r.cancelP = true → i ≠ .adaptEnableRequest → refuses (ans 0x30 0))
      ∧ (r.cancelP = false ∨ i = .adaptEnableRequest → (i = .cancel → ∃ t, exec i s = .next t ∧ only t { r with cancelP := true, cancelAt := some (tk.readTick + 2) }
        ∧ Answered s t tk (ansOk ((tk.readTick + 2) % 2 ^ 32) 0 0))
      ∧ (i = .pause → r.st.active = true → r.pauseP = false → ∃ t, exec i s = .next t
        ∧ only t { r with pauseP := true, ttl := min (dF tk.bytes 12 0 32) (2 ^ 31 - 1) } ∧ Parked t tk (.pause r.slot))
      ∧ (i = .pause → ¬ (r.st.active = true ∧ r.pauseP = false) → refuses (ans 0x13 0))
      ∧ (i = .resume → r.st.active = true → r.pauseP = true → ∃ t c, exec i s = .next t ∧ only t { r with pauseP := false }
        ∧ AllAnswered s t (fun p => p = .pause r.slot) (ans 0x30 0) ∧ AnsweredAt s t tk (ansOk 0 0 0) c)
      ∧ (i = .resume → (r.st = .pausing ∨ r.st = .paused) → r.resumeP = false → ∃ t, exec i s = .next t
        ∧ only t { r with resumeP := true, ttlAt := none } ∧ Parked t tk (.resume r.slot))
      ∧ (i = .resume → ¬ (r.st.active = true ∧ r.pauseP = true) → ¬ ((r.st = .pausing ∨ r.st = .paused) ∧ r.resumeP = false) →
        refuses (ans 0x13 0))
      ∧ (i = .setSampling → ∃ t, exec i s = .next t ∧ only t { r with samp := samplingOf (BitVec.ofNat 384 (fld tk.bytes 128 384)) }
        ∧ Answered s t tk (ansOk 0 0 0))
      ∧ (i = .adaptEnableRequest → ∃ t, exec i s = .next t
        ∧ only t { r with adapt := decide (dF tk.bytes 16 0 1 = 1), trainMask := dF tk.bytes 17 0 4 } ∧ Answered s t tk (ansOk 0 0 0)))

/-- ENABLE and QUIESCE (R480 to R482, R521, R613), by the state of the scope named. A scope that does not exist completes BAD_HANDLE, here
0x13; one already in the state asked for completes OK; the opposite command waits, HELD or QUIESCING; a second one completes
BUSY_QUIESCING. An ENABLE of the engine that R521 forbids completes 0x13. A drain that is over (R480, R481), no tick's work ending with
it: a quiescing ring or train, or the engine with no logbook to save, is QUIESCED and its QUIESCE completes OK; a ring or train HELD is
ENABLED at once, and its ENABLE completes OK too. Before its drain is over nothing happens. Completing here: QUIESCE_DRAIN_DONE,
ENABLE_ENGINE, ENABLE_RING, ENABLE_TENANT, ENABLE_TRAIN, QUIESCE_ENGINE, QUIESCE_RING, QUIESCE_TENANT, QUIESCE_TRAIN. -/
def Obligations.Scopes : Prop :=
  (∀ (i : Instr) (tk : Taken) (s : State), Facing s i tk →
    let id := scopeIdOf tk.bytes
    let answers (a : Answer) : Prop := ∃ t, exec i s = .next t ∧ Answered s t tk a ∧ calm t = calm s.begin
    ((∃ h, i = .enableEngine h) ∨ i ∈ [.enableRing, .enableTenant, .enableTrain] →
      (s.scopeSt id = none → answers (ans 0x13 0)) ∧ (s.scopeSt id = some .enabled → answers (ansOk 0 0 0))
      ∧ (s.scopeSt id = some .held → answers (ans 0x17 0))
      ∧ (s.scopeSt id = some .quiescing → s.trains.length = 32 → ∃ t, exec i s = .next t ∧ t.scopeSt id = some .held
        ∧ Parked t tk (.enable id) ∧ calm t = calm { s.begin with engine := t.engine, tenants := t.tenants, trains := t.trains })
      ∧ (s.scopeSt id = some .quiesced → id ≠ .engine → s.trains.length = 32 → ∃ t, exec i s = .next t ∧ t.scopeSt id = some .enabled
        ∧ Answered s t tk (ansOk 0 0 0) ∧ calm t = calm { s.begin with tenants := t.tenants, trains := t.trains })
      ∧ (s.engine = .quiesced → id = .engine → s.engineRefused = true → answers (ans 0x13 0))
      ∧ (s.engine = .quiesced → id = .engine → s.engineRefused = false → ∃ t c, exec i s = .next t ∧ t.engine = .enabled
        ∧ AnsweredAt s t tk (ansOk 0 0 0) c ∧ (∀ l, l < 2 → (t.line l).last = none ∧ (t.line l).back = [])
        ∧ ((s.line 0).started = true → t.lines = s.lines.map LineSt.resume)
        ∧ ((s.line 0).started = false → ∀ l, l < 2 → (t.line l).started = true ∧ (t.line l).step = 0 ∧ (t.line l).boundary = false
            ∧ (t.line l).manTick = s.tick.count)
        ∧ t.tick.count = s.tick.count ∧ t.regs = s.regs ∧ t.negot = s.negot))
    ∧ (i ∈ [.quiesceEngine, .quiesceRing, .quiesceTenant, .quiesceTrain] →
      (s.scopeSt id = none → answers (ans 0x13 0)) ∧ (s.scopeSt id = some .quiesced → answers (ansOk 0 0 0))
      ∧ (s.scopeSt id = some .quiescing ∨ s.scopeSt id = some .held → answers (ans 0x17 0))
      ∧ (s.scopeSt id = some .enabled → s.trains.length = 32 → Lone s tk → ∃ t, exec i s = .next t ∧ t.scopeSt id = some .quiescing
        ∧ Parked t tk (.quiesce id) ∧ t.tick.count = s.tick.count ∧ t.regs = s.regs ∧ t.negot = s.negot
        ∧ ((∀ d ∈ s.dirs, d.prior = none) → t.adMem = s.adMem)
        ∧ (id ≠ .engine → calm t = calm { s.begin with tenants := t.tenants, trains := t.trains })
        ∧ (∀ k, id = .train k → t.trains[k]? = some (.quiescing, tk.readTick))
        ∧ (id = .engine → t.quiesceAt = s.now ∧ (s.awaitsAck = false → t.tick.next = none ∧ t.inputs = none)
          ∧ (s.awaitsAck = false → s.tick.active = false → t.tick.idle = true ∧ t.tick.ann = none)))))
  ∧ (∀ (id : ScopeId) (s : State), s.live = true → (s.tick.active = false ∨ s.workDone = false) → s.trains.length = 32 →
    let waits := s.scopeSt id = some .quiescing ∨ s.scopeSt id = some .held
    (¬ waits ∨ s.drainMet id = false → exec (.quiesceDrainDone id) s = .next s.begin)
    ∧ (s.scopeSt id = some .quiescing → s.drainMet id = true →
        (id = .engine → s.logBase = 0 ∧ ∃ x ∈ s.taken, x.pend = .quiesce .engine) →
        ∃ t, exec (.quiesceDrainDone id) s = .next t ∧ t.scopeSt id = some .quiesced ∧ AllAnswered s t (fun p => p = .quiesce id) (ansOk 0 0 0)
          ∧ calm t = calm { s.begin with engine := t.engine, tenants := t.tenants, trains := t.trains })
    ∧ (s.scopeSt id = some .held → s.drainMet id = true → id ≠ .engine → (∀ x ∈ s.taken, Lone s x) →
        ∃ t, exec (.quiesceDrainDone id) s = .next t ∧ t.scopeSt id = some .enabled ∧ AllAnswered s t (fun p => p = .quiesce id) (ansOk 0 0 0)
          ∧ AllAnswered s t (fun p => p = .enable id) (ansOk 0 0 0)
          ∧ calm t = calm { s.begin with tenants := t.tenants, trains := t.trains }))

/-- SNAPSHOT, of everything or of the logbook (R602, R604 to R606). DEST not a multiple of 4,096 is refused; else the descriptor waits
with its SNAPSHOT last in order. At the first one's capture point, a size beyond LIMIT completes it with the size; else its header and
section directory are written to DEST and it waits for its writes, which once acknowledged complete it OK with size and tick. Completing
here: SNAPSHOT, SNAPSHOT_LOGBOOK, SNAPSHOT_CAPTURE_POINT, SNAPSHOT_WRITES_DONE. -/
def Obligations.SnapshotsTaken : Prop :=
  (∀ (i : Instr) (tk : Taken) (s : State), (i = .snapshot ∨ i = .snapshotLogbook) → Facing s i tk →
    (dF tk.bytes 16 0 64 % 4096 ≠ 0 → ∃ t, exec i s = .next t ∧ Answered s t tk (ans 0x18 19) ∧ calm t = calm s.begin)
    ∧ (dF tk.bytes 16 0 64 % 4096 = 0 → ∃ t x, exec i s = .next t ∧ Parked t tk .snapshot ∧ t.snaps = s.snaps ++ [x]
      ∧ x.ring = tk.ring ∧ x.num = tk.num ∧ (x.logOnly = true ↔ i = .snapshotLogbook) ∧ x.dest = dF tk.bytes 16 0 64
      ∧ x.limit = dF tk.bytes 24 0 64 ∧ x.readTick = tk.readTick ∧ x.taken = false ∧ x.held = false
      ∧ calm t = calm { s.begin with snaps := t.snaps }))
  ∧ ∀ (x : Snap) (rest : List Snap) (s : State), s.live = true → s.snaps = x :: rest →
    let xs := layout 4096 (if x.logOnly then [(0x11, s.begin.logRecord 1)] else s.begin.sections x.of)
    let gone (t : State) : Prop := ∀ y ∈ t.snaps, ¬ (y.ring = x.ring ∧ y.num = x.num)
    (x.taken = true ∨ s.capturePoint x = false → exec .snapshotCapturePoint s = .next s.begin)
    ∧ (x.taken = false → s.capturePoint x = true → ∃ t, exec .snapshotCapturePoint s = .next t
      ∧ calm t = calm { s.begin with snaps := t.snaps }
      ∧ (x.limit < layoutSize xs → gone t ∧ ∀ tk, s.taken.find? x.of = some tk → Answered s t tk ⟨0x12, 0x40, layoutSize xs, 0, 0⟩)
      ∧ (layoutSize xs ≤ x.limit → t.outstanding .snapshot x.dest (s.begin.snapHeader x.logOnly xs ++ sectionDir xs)
        ∧ ∃ y ys, t.snaps = y :: ys ∧ y = { x with size := layoutSize xs, tick := s.tick.count, writes := y.writes, taken := true, held := false }))
    ∧ (x.taken = false ∨ x.writes ≠ [] → exec .snapshotWritesDone s = .next s.begin)
    ∧ (x.taken = true → x.writes = [] → ∃ t, exec .snapshotWritesDone s = .next t ∧ gone t
      ∧ (∀ tk, s.taken.find? x.of = some tk → Answered s t tk (ansOk x.size (x.tick % 2 ^ 32) 0))
      ∧ calm t = calm { s.begin with snaps := t.snaps })

/-! The directory, tables, adaptation and special workings. -/

/-- LOAD_ADAPTER, TABLE_LOAD and SWAP_ADAPTER with COMMIT 0 at their reads (R255, R266, R270): a bad handle, a slot that is not FREE (for
a stage: not INSTALLED or STAGED with that handle) or an image address not of 64 bytes completes 0x13; else the slot is LOADING, or
STAGING with its copy in force untouched, the descriptor waits, and the image's read is under way unless the region still holds a former
copy (R233). The end of a build (R213, R255 to R258, R266), its region released and its transfers free to go on (R301): the first of the
checks 1 to 13 that fails ends it with its answer, and the slot is FREE, or INSTALLED as it was before a stage; one that passes them all
leaves its image in the region not in force and its charges; with places for its runs the slot is STAGED, and the descriptor completes OK
with the tier and the wagons charged; without, it waits for them (R294). Completing here: LOAD_BUILD_COMPLETE, LOAD_ADAPTER, TABLE_LOAD,
SWAP_ADAPTER_STAGE. -/
def Obligations.Builds : Prop :=
  (∀ (i : Instr) (tk : Taken) (s : State), i ∈ [.loadAdapter, .tableLoad, .swapAdapterStage] → Facing s i tk →
    let h := word8 tk.bytes
    let base := dF tk.bytes 16 0 64
    let refused : Prop := ∃ t, exec i s = .next t ∧ Answered s t tk (ans 0x13 0) ∧ calm t = calm s.begin
    let begun (p : State → Dir → Prop) : Prop := ∃ t d, exec i s = .next t ∧ DirNow s t d ∧ d.slot = hSlot h
      ∧ d.landing = dF tk.bytes 14 0 3 ∧ d.image = (base, dF tk.bytes 24 0 32) ∧ d.headRead = none ∧ d.next = none
      ∧ Parked t tk (.build d.slot)
      ∧ (t.regionHeld d = false → ∃ r ∈ t.reads, r.kind = .image d.slot ∧ r.addr = base ∧ r.units = ceilDiv (dF tk.bytes 24 0 32) 64)
      ∧ fixed t = fixed s.begin ∧ t.reqs = s.reqs ∧ t.tick = s.tick ∧ p t d
    (i ≠ .swapAdapterStage →
      (hTag h = 0 ∨ (s.dirAt (hSlot h)).isSome = true ∨ base % 64 ≠ 0 → refused)
      ∧ (hTag h ≠ 0 → s.dirAt (hSlot h) = none → base % 64 = 0 → begun fun t d => d.handle = h
        ∧ d.tenant = dF tk.bytes 12 0 16 ∧ d.st = .loading ∧ d.cur = none ∧ t.charges = s.charges ∧ t.adMem = s.adMem ∧ t.tmap = s.tmap))
    ∧ (i = .swapAdapterStage →
      (∀ d, s.dirOf h = some d → (d.st = .installed ∨ d.st = .staged) → hTag h ≠ 0 → base % 64 = 0 →
        begun fun t d' => d'.st = .staging ∧ d'.cur = d.cur ∧ d'.handle = d.handle ∧ d'.tenant = d.tenant
          ∧ (d.next = none → t.charges = s.charges ∧ t.adMem = s.adMem ∧ t.tmap = s.tmap)
          ∧ ∀ c, d.next = some c → t.charges = s.charges.filter (fun x => !(x.slot = d.slot && x.copy = c.head)))
      ∧ ((∀ d, s.dirOf h = some d → (d.st ≠ .installed ∧ d.st ≠ .staged) ∨ hTag h = 0 ∨ base % 64 ≠ 0) → refused)))
  ∧ (∀ (slot : Nat) (g : List Byte) (d : Dir) (tk : Taken) (s : State), s.live = true → s.dirAt slot = some d → s.building slot = some tk →
    d.next = none →
    let c := s.costOf g
    let l := s.landing d.tenant d.landing c
    let may := s.regionHeld d = false ∧ s.landMay true false = true
    let fails (a : Answer) : Prop := ∃ t, exec (.loadBuildComplete slot g) s = .next t ∧ Answered s t tk a ∧ fixed t = fixed s.begin
      ∧ t.charges = s.charges ∧ t.adMem = s.adMem ∧ t.tmap = s.tmap
      ∧ (d.st = .loading → t.dirAt slot = none) ∧ (d.st ≠ .loading → DirNow s t { d with st := .installed, headRead := none })
    let passes := s.imageCheck g d.image.2 = none ∧ s.spaceCheck d g = none ∧ l.2 = none
    let u : State := ({ s.begin with reads := s.reads.filter fun (r : FmRead) => r.kind != RKind.image slot } : State).acceptCopy d g l.1
    (¬ may → exec (.loadBuildComplete slot g) s = .next s.begin)
    ∧ (∀ a, may → s.imageCheck g d.image.2 = some a → fails a)
    ∧ (∀ a, may → s.imageCheck g d.image.2 = none → s.spaceCheck d g = some a → fails a)
    ∧ (∀ a, may → s.imageCheck g d.image.2 = none → s.spaceCheck d g = none → l.2 = some a → fails a)
    ∧ (may → passes → u.placeRegion slot d.buildRegion = none → exec (.loadBuildComplete slot g) s = .next u)
    ∧ (may → passes → (u.placeRegion slot d.buildRegion).isSome = true → (∀ y ∈ s.charges, y.slot = slot → y.copy ≠ s.nextId) →
      ∃ t x, exec (.loadBuildComplete slot g) s = .next t
      ∧ Answered s t tk (ansOk l.1 (c.head + c.wagons) 0) ∧ DirNow s t { d with
          st := if d.st = .staging then .staged else .stagedNew, next := some x, headRead := none }
      ∧ x.regionB = d.buildRegion ∧ t.charges.take s.charges.length = s.charges
      ∧ (∃ y ∈ t.charges, y.slot = slot ∧ y.tier = l.1 ∧ y.wagons = c.wagons ∧ y.runs = c.runs ∧ y.tenant = d.tenant)
      ∧ (s.memOk → memGetAll t.adMem (regionBase slot d.buildRegion) (storedImage g).length = storedImage g)
      ∧ (∀ r ∈ t.tmap, inRegion slot d.buildRegion r.addr = true → l.1 ≠ 0 → r.src ≠ 0)
      ∧ fixed t = fixed s.begin ∧ t.reqs = s.reqs ∧ t.tick = s.tick))

/-- Commit, retirement, release and quotas (R253, R254, R266 to R270, R294). A commit of a staged copy puts it in force from the next
TICK_ACK, at heat 0, the former copy serving until then, its row updates ended and their rows' PENDING clear; a retirement frees the
handle's staged copy and lets the one in force serve until then; both wait, and every other case completes 0x13. The release of a slot
that is RELEASING, nothing of it serving, being fetched or being written back, makes it FREE and completes its RETIRE; that of a region
whose former copy serves no longer empties it, and a stage that waited for it begins to read its image (R233). Before that nothing is
released; either way moves that are due go on (R292, R294). SET_QUOTA sets the quotas its mask names, or returns them to the defaults.
Completing here: RELEASE_COMPLETE, SWAP_ADAPTER_COMMIT, RETIRE_ADAPTER, SET_QUOTA. -/
def Obligations.CopiesComeAndGo : Prop :=
  ∀ (tk : Taken) (s : State),
    let h := word8 tk.bytes
    let refused (i : Instr) : Prop := ∃ t, exec i s = .next t ∧ Answered s t tk (ans 0x13 0) ∧ calm t = calm s.begin
    let ended (d : Dir) : Dir := ((s.endRows d.slot (ans 0x30 0)).dirAt d.slot).getD d
    (Facing s .swapAdapterCommit tk →
      (∀ d c, s.dirOf h = some d → d.next = some c → (d.st = .stagedNew ∨ d.st = .staged) → Lone s tk →
        ∃ t, exec .swapAdapterCommit s = .next t ∧ Parked t tk (.commit d.slot (tk.readTick + 1))
          ∧ DirNow s t { ended d with
              st := .installed, cur := some c, next := none, heat := 0, accFmt := c.fmt, accWag := c.wagons, opt := none, optNext := none
              conv := none, convRuns := (0, []), old := some (tk.readTick + 1, (ended d).inForceAt tk.readTick), former := (ended d).cur }
          ∧ fixed t = fixed s.begin ∧ t.reqs = s.reqs ∧ t.tick = s.tick)
      ∧ ((∀ d, s.dirOf h = some d → d.next = none ∨ (d.st ≠ .stagedNew ∧ d.st ≠ .staged)) → refused .swapAdapterCommit))
    ∧ (Facing s .retireAdapter tk →
      (∀ d, s.dirOf h = some d → d.st ≠ .releasing → hTag h ≠ 0 → Lone s tk → (d.st = .loading → d.cur = none) →
        ∃ t, exec .retireAdapter s = .next t ∧ Parked t tk (.retire d.slot)
          ∧ DirNow s t { ended d with
              st := .releasing, next := none, opt := none, optNext := none, conv := none, convRuns := (0, []), headRead := none
              old := some (tk.readTick + 1, (ended d).inForceAt tk.readTick) }
          ∧ fixed t = fixed s.begin ∧ t.reqs = s.reqs ∧ t.tick = s.tick)
      ∧ ((∀ d, s.dirOf h = some d → d.st = .releasing ∨ hTag h = 0) → refused .retireAdapter))
    ∧ (s.live = true → ∀ slot d, s.dirAt slot = some d →
      let runs (p : State → Prop) : Prop := ∃ t, exec (.releaseComplete slot) s = .next t ∧ fixed t = fixed s.begin ∧ t.charges = s.charges
        ∧ t.tick = s.tick ∧ p t
      let gone := s.stillServes d = false ∧ s.regionBusy slot false = false ∧ s.regionBusy slot true = false
      let idle := s.stillServes d = false ∧ s.regionBusy slot d.buildRegion = false
      let waiting := (∃ x ∈ s.dirs, x.slot ≠ slot ∧ (x.st = .loading ∨ x.st = .staging) ∧ x.next.isSome = true)
        ∨ ∃ r ∈ s.tmap, r.due = true
      let empties := (d.st = .installed ∨ d.st = .staging) ∧ d.next = none ∧ s.regionHeld d = true ∧ idle
      (d.st = .releasing → gone → runs fun t => t.dirAt slot = none ∧ (¬ waiting → ∀ k, k ≠ slot → t.dirAt k = s.dirAt k)
        ∧ AllAnswered s t (fun p => p = .retire slot) (ansOk 0 0 0))
      ∧ (empties → runs fun t =>
        (¬ waiting → DirNow s t { d with former := none }) ∧ (∀ r ∈ t.tmap, inRegion slot d.buildRegion r.addr = false)
        ∧ (d.st = .staging → (s.building slot).isSome = true → ∃ r ∈ t.reads, r.kind = .image slot))
      ∧ (¬ (d.st = .releasing ∧ gone) → ¬ empties → exec (.releaseComplete slot) s = .next s.begin.startMoves))
    ∧ (Facing s .setQuota tk → ∃ t, exec .setQuota s = .next t ∧ Answered s t tk (ansOk 0 0 0)
      ∧ calm t = calm { s.begin with tenants := t.tenants }
      ∧ (∀ n, n ≠ dF tk.bytes 8 0 16 → t.tenant n = s.tenant n)
      ∧ (t.tenant (dF tk.bytes 8 0 16)).st = (s.tenant (dF tk.bytes 8 0 16)).st
      ∧ ∀ k, k < 4 → (t.tenant (dF tk.bytes 8 0 16)).quota.getD k none =
          if dF tk.bytes 10 k 1 = 1 then (if dF tk.bytes 10 4 1 = 1 then none else some (BitVec.ofNat 32 (dF tk.bytes (12 + 4 * k) 0 32)))
          else (s.tenant (dF tk.bytes 8 0 16)).quota.getD k none)

/-- Live replacement of table rows (R340 to R346). An update that fails a check completes with it, and one of a copy that a commit of the
same tick takes out of service as CANCELLED (assumption log 112); else one update of each row of its range, due at the tick that FLIP_LAG
as read gives, is in flight, and the record of each row whose turn it is, the first update of its row with no slot held by unfinished
work, is being read. Records that come in, the transfer free to go on (R301), go into the slots not active of the rows whose turn has
come, the active ones standing, and those rows' updates are WRITTEN; a record of theirs that does not fit refuses them all. A fill makes
the cached row, or the cached table that holds it, valid (R337, R339). Completing here: ROW_UPDATE_WRITTEN, TABLE_ROW_UPDATE,
CACHE_FILL_DONE. -/
def Obligations.RowsReplaced : Prop :=
  (∀ (tk : Taken) (s : State), Facing s .tableRowUpdate tk →
    (∀ a, (s.rowCheck tk.bytes tk.readTick).1 = some a → ∃ t, exec .tableRowUpdate s = .next t ∧ Answered s t tk a ∧ calm t = calm s.begin)
    ∧ (∀ d c, s.rowCheck tk.bytes tk.readTick = (none, some (d, c)) → d.cur ≠ some c →
      ∃ t, exec .tableRowUpdate s = .next t ∧ Answered s t tk (ans 0x30 0) ∧ calm t = calm s.begin)
    ∧ (∀ d c, s.rowCheck tk.bytes tk.readTick = (none, some (d, c)) → d.cur = some c → Lone s tk →
      let first := dF tk.bytes 12 0 32
      let count := dF tk.bytes 16 0 32
      let due := tk.readTick + tk.lag
      ∃ t, exec .tableRowUpdate s = .next t ∧ Parked t tk (.rows d.slot first count due)
        ∧ t.rowUps.length = s.rowUps.length + count
        ∧ (t.rowUps.take s.rowUps.length).map (fun u => { u with started := true }) = s.rowUps.map (fun u => { u with started := true })
        ∧ (∀ i, i < count → ∃ u ∈ t.rowUps, u.ring = tk.ring ∧ u.num = tk.num ∧ u.slot = d.slot ∧ u.row = first + i ∧ u.due = due
            ∧ u.written = false)
        ∧ (∀ row o, first ≤ row → row < first + count → (∀ u ∈ s.rowUps, ¬ (u.slot = d.slot ∧ u.row = row)) → (d.slot, row) ∉ s.flips →
            (recordOffsets c first count).1.find? (fun y => y.1 = row) = some (row, o) →
            ∃ r ∈ t.reads, r.kind = .rowRecords tk.ring tk.num.toNat ∧ r.addr = dF tk.bytes 24 0 64 + o)
        ∧ fixed t = fixed s.begin ∧ t.adMem = s.adMem ∧ t.reqs = s.reqs ∧ t.charges = s.charges))
  ∧ (∀ (ring num : Nat) (records : List Byte) (tk : Taken) (slot first count due : Nat) (d : Dir) (c : Copy) (s : State), s.live = true →
    s.rowDescs.find? (fun t => t.ring = ring && t.num.toNat = num) = some tk → tk.pend = .rows slot first count due →
    s.dirAt slot = some d → d.cur = some c →
    let offs := (recordOffsets c first count).1
    let isRec (row : Nat) (x : RowRec) : Prop := ∃ o r, offs.find? (fun y => y.1 = row) = some (row, o) ∧ c.rows[row]? = some r
      ∧ x = rowRecOf (records.drop o) c.cols r.int4
    let mine (u : RowUp) : Prop := u.ring = tk.ring ∧ u.num = tk.num
    let turn (row : Nat) : Prop := ∃ u ∈ s.rowUps, mine u ∧ u.row = row ∧ u.started = true ∧ u.written = false
    let may := s.landMay true true = true ∧ ∃ row, first ≤ row ∧ row < first + count ∧ turn row
    (¬ may → exec (.rowUpdateWritten ring num records) s = .next s.begin)
    ∧ (may → (∀ row, turn row → ∃ x r, isRec row x ∧ c.rows[row]? = some r ∧ x.clean = true ∧ x.int4 = r.int4) →
        s.tick.idle = false → ∃ t d' c', exec (.rowUpdateWritten ring num records) s = .next t ∧ DirNow s t d' ∧ d'.cur = some c'
          ∧ (∀ u ∈ t.rowUps, mine u → u.started = true → u.written = true) ∧ t.rowUps.length = s.rowUps.length
          ∧ (∀ u ∈ s.rowUps, ¬ (mine u ∧ u.started = true) → u ∈ t.rowUps)
          ∧ (∀ row r, c.rows[row]? = some r → ¬ turn row → c'.rows[row]? = some r)
          ∧ (∀ row r x, turn row → c.rows[row]? = some r → isRec row x → ∃ r', c'.rows[row]? = some r'
              ∧ r'.active = r.active
              ∧ (r.active = true → r'.codes0 = x.codes ∧ r'.scale0 = x.scale ∧ r'.zero0 = x.zero ∧ r'.codes1 = r.codes1 ∧ r'.gen1 = r.gen1)
              ∧ (r.active = false → r'.codes1 = x.codes ∧ r'.scale1 = x.scale ∧ r'.zero1 = x.zero ∧ r'.codes0 = r.codes0
                  ∧ r'.gen0 = r.gen0))
          ∧ fixed t = fixed s.begin ∧ t.adMem = s.adMem ∧ t.taken = s.taken)
    ∧ (may → (∃ row x, turn row ∧ isRec row x ∧ x.clean = false) → ∃ t, exec (.rowUpdateWritten ring num records) s = .next t
        ∧ Answered s t tk (ans 0x18 15) ∧ (∀ u ∈ t.rowUps, ¬ mine u)
        ∧ fixed t = fixed s.begin ∧ t.adMem = s.adMem))
  ∧ ∀ (slot row : Nat) (s : State), s.live = true → s.landMay false true = true → ∃ t, exec (.cacheFillDone slot row) s = .next t
    ∧ t = { s with tickAck := false, stopDone := [], cache := t.cache }
    ∧ (s.dirAt slot = none → t.cache = s.cache)
    ∧ ∀ d, s.dirAt slot = some d →
        t.cache.map (fun e => (e.handle, e.row)) = s.cache.map (fun e => (e.handle, e.row))
        ∧ (∀ e ∈ t.cache, e.handle = d.handle → e.row = some row → e.valid = true)
        ∧ (∀ e ∈ s.cache, e.handle ≠ d.handle → e ∈ t.cache)
        ∧ ((∀ e ∈ s.cache, ¬ (e.handle = d.handle ∧ e.row = some row)) → ∀ e ∈ t.cache, e.handle = d.handle → e.row = none → e.valid = true)

/-- ADAPT_ENABLE's adapter form (R424 to R428) and the state it asks for (R427). No trainable copy in force under the handle completes
0x13; a bad hyperparameter 0x18; OPT 0 without state OK, with state a release that waits, its charge gone; the optimiser already in use
takes the new mask and hyperparameters; else a state that fits, by the format in the accounting, is charged and the descriptor waits for
it, the old state closing. Either of the last two cancels a creation still waiting (assumption log 113). A released state that no step
built and no write-back uses is gone, and its releases complete; a created state follows it, once no conversion is under way, and is
ready, and its descriptors complete; until then nothing happens. Completing here: ADAPT_STATE_READY, ADAPT_ENABLE_ADAPTER. -/
def Obligations.AdaptersTrained : Prop :=
  (∀ (tk : Taken) (s : State), Facing s .adaptEnableAdapter tk →
    let b := tk.bytes
    let opt := dF b 9 0 2
    let hyper := (List.range 7).map fun k => BitVec.ofNat 32 (dF b (16 + 4 * k) 0 32)
    let answers (a : Answer) : Prop := ∃ t, exec .adaptEnableAdapter s = .next t ∧ Answered s t tk a ∧ calm t = calm s.begin
    let alone := ∀ x ∈ s.taken, Lone s x
    (s.adaptTarget (word12 b) = none → answers (ans 0x13 0))
    ∧ ∀ d c, s.adaptTarget (word12 b) = some (d, c) →
      (hyperOk opt hyper = false → answers (ans 0x18 16))
      ∧ (hyperOk opt hyper = true →
        (opt = 0 → d.opt = none → d.optNext = none → answers (ansOk 0 0 0))
        ∧ (∀ o, opt = 0 → (d.opt = some o ∨ (d.opt = none ∧ d.optNext = some o)) → alone → ∃ t, exec .adaptEnableAdapter s = .next t
          ∧ DirNow s t { d with opt := some { o with closing := true }, optNext := none } ∧ Parked t tk (.adaptRelease d.slot)
          ∧ AllAnswered s t (fun p => ∃ w, p = .adapt d.slot w) (ans 0x30 0)
          ∧ t.charges = s.charges.filter (fun x => !(x.slot = d.slot && x.copy = c.head && x.kind == ChargeKind.state)) ∧ t.adMem = s.adMem
          ∧ fixed t = fixed s.begin)
        ∧ (∀ o, opt ≠ 0 → d.opt = some o → o.opt = opt → o.closing = false → ∃ t, exec .adaptEnableAdapter s = .next t
          ∧ DirNow s t { d with opt := some { o with pmask := dF b 10 0 4, hyper := hyper } } ∧ Answered s t tk (ansOk 0 0 0)
          ∧ t.charges = s.charges ∧ fixed t = fixed s.begin)
        ∧ (opt ≠ 0 → (∀ o, d.opt = some o → o.opt ≠ opt ∨ o.closing = true) →
          let size := stateSize { c with fmt := d.accFmt, wagons := d.accWag } opt
          let w := ceilDiv size 4352
          let u := s.begin.releaseState d.slot c.head
          (268435456 < size → answers (ans 0x12 0x30))
          ∧ (size ≤ 268435456 → (u.overQuota d.tenant [(1, w)]).isSome = true → answers (ans 0x12 1))
          ∧ (size ≤ 268435456 → u.overQuota d.tenant [(1, w)] = none → u.roomFor 1 (ceilDiv w 16) 0 0 = false → answers (ans 0x12 9))
          ∧ (size ≤ 268435456 → u.overQuota d.tenant [(1, w)] = none → u.roomFor 1 (ceilDiv w 16) 0 0 = true → alone →
            ∃ t, exec .adaptEnableAdapter s = .next t ∧ Parked t tk (.adapt d.slot w) ∧ fixed t = fixed s.begin
              ∧ DirNow s t { d with
                  opt := d.opt.map fun o => { o with closing := true }
                  optNext := some ⟨opt, dF b 10 0 4, hyper, c.parts.map fun _ => 0, false, false⟩ }
              ∧ AllAnswered s t (fun p => ∃ w, p = .adapt d.slot w) (ans 0x30 0) ∧ t.adMem = s.adMem
              ∧ t.charges = u.charges ++ [⟨d.slot, c.head, .state, d.tenant, 1, w, ceilDiv w 16, 0, none⟩]))))
  ∧ ∀ (slot : Nat) (d : Dir) (s : State), s.live = true → s.dirAt slot = some d → (∀ x ∈ s.taken, Lone s x) →
    let owes := (∃ r ∈ s.tmap, slotOf r.addr = slot ∧ r.dirty ≠ 0) ∨ (∃ e ∈ s.tierOld, slotOf e.addr = slot)
      ∨ ∃ r ∈ s.reads, ∃ a, slotOf a = slot ∧ r.kind = .writeBack a
    let busy := (s.tick.active = true ∧ stepsBuilt s.tick.cur d.handle = true) ∨ stepsBuilt s.tick.next d.handle = true
      ∨ (d.poisoned = false ∧ owes)
    let may := d.opt = none ∨ (¬ busy ∧ ∃ o, d.opt = some o ∧ o.closing = true)
    let follows := d.cur.isSome = true ∧ d.conv = none ∧ d.optNext.isSome = true
    let released (t : State) : Prop := d.opt.isSome = true → AllAnswered s t (fun p => p = .adaptRelease slot) (ansOk 0 0 0)
    let ready (p : State → Prop) : Prop := ∃ t, exec (.adaptStateReady slot) s = .next t ∧ fixed t = fixed s.begin ∧ t.charges = s.charges
      ∧ released t ∧ p t
    (∀ o, may → follows → d.optNext = some o → ready fun t => DirNow s t { d with opt := some { o with ready := true }, optNext := none }
      ∧ ∀ x ∈ s.taken, ∀ w, x.pend = .adapt slot w → ∃ c, AnsweredAt s t x (ansOk w 0 0) c)
    ∧ (may → ¬ follows → d.opt.isSome = true → ready fun t => DirNow s t { d with opt := none })
    ∧ (¬ may ∨ (d.opt = none ∧ ¬ follows) → exec (.adaptStateReady slot) s = .next s.begin)

/-- LOAD_SPECIAL (R72 to R76, R531). With a length: an ID that holds a special working completes SPECIAL 0. Where background traffic may
make no progress (R301) the descriptor waits and the read of LENGTH bytes at IMAGE_ADDR (R474) is under way; else an image that could not
be read completes IMAGE_INVALID 18 with FM_ERR, another format VERSION, an image that fails check k of R72 SPECIAL k; else it is
installed. With length zero: an ID that holds none completes 0x13, one that a directory record names SPECIAL 0; else it is removed.
Completing here: LOAD_SPECIAL, UNLOAD_SPECIAL. -/
def Obligations.SpecialsInstalled : Prop :=
  ∀ (tk : Taken) (s : State),
    let id := swIdOf tk.bytes
    let held := ∃ x ∈ s.specials, x.id = id
    (∀ image, Facing s (.loadSpecial image) tk →
      let does (a : Answer) (xs : List Special) : Prop := ∃ t, exec (.loadSpecial image) s = .next t ∧ Answered s t tk a
        ∧ calm t = calm { s.begin with specials := xs }
      (held → does (ans 0x19 0) s.specials)
      ∧ (¬ held → s.landMay true false = false → Lone s tk → ∃ t, exec (.loadSpecial image) s = .next t ∧ Parked t tk .special
          ∧ (∃ r ∈ t.reads, r.kind = .special tk.ring tk.num.toNat ∧ r.addr = swAddrOf tk.bytes ∧ r.units = ceilDiv (swLengthOf tk.bytes) 64)
          ∧ fixed t = fixed s.begin)
      ∧ (¬ held → s.landMay true false = true → image = none → does (ans 0x18 18) s.specials
          ∧ ∀ t, exec (.loadSpecial image) s = .next t → t.err .fmErr = true)
      ∧ ∀ bytes, ¬ held → s.landMay true false = true → image = some bytes →
        let g := bytes.take (swLengthOf tk.bytes)
        (swFormat g ≠ s.negot.getD 3 0 → does (ans 0x40 0) s.specials)
        ∧ (∀ k, swFormat g = s.negot.getD 3 0 → swCheck g (swLengthOf tk.bytes) = some k → does (ans 0x19 k) s.specials)
        ∧ (swFormat g = s.negot.getD 3 0 → swCheck g (swLengthOf tk.bytes) = none →
          ∃ xs, does (ansOk 0 0 0) xs ∧ ∀ x, x ∈ xs ↔ x ∈ s.specials ∨ x = ⟨id, g⟩))
    ∧ (Facing s .unloadSpecial tk →
      let does (a : Answer) (xs : List Special) : Prop := ∃ t, exec .unloadSpecial s = .next t ∧ Answered s t tk a
        ∧ calm t = calm { s.begin with specials := xs }
      (¬ held → does (ans 0x13 0) s.specials) ∧ (held → s.swUsers id ≠ 0 → does (ans 0x19 0) s.specials)
      ∧ (held → s.swUsers id = 0 → does (ansOk 0 0 0) (s.specials.filter fun x => x.id != id)))
end

