-- ==== Sys2Proof/Laws/Memory.lean ====
section
/-! SUPPORT. The adapter space as canonical memory (R235): every operation keeps the form, a read after a write gives the byte
written, and a write leaves every other byte alone. -/
namespace Sys2Proof.Laws
open Sys2Proof Sys2Proof.Machine

/-- Nothing listed is canonical. -/
theorem wf_nil : Memory.wf [] := by constructor <;> simp

/-- The entries behind the first are canonical. -/
theorem wf_tail {c : Host.Cell} {m : List Host.Cell} (h : Memory.wf (c :: m)) : Memory.wf m :=
  ⟨(List.pairwise_cons.1 h.1).2, fun x hx => h.2 x (List.mem_cons_of_mem _ hx)⟩

/-- Every entry that one write leaves is the written byte or an entry from before. -/
theorem mem_memPut {m : List Host.Cell} {a : Nat} {v : Byte} {x : Host.Cell} (h : x ∈ memPut m a v) :
    x ∈ m ∨ (x = (a, v) ∧ v ≠ 0) := by
  induction m with
  | nil =>
    simp only [memPut] at h
    split at h
    · simp at h
    · exact .inr ⟨by simpa using h, by assumption⟩
  | cons c cs ih =>
    simp only [memPut] at h
    split at h
    · split at h
      · exact .inl h
      · rcases List.mem_cons.1 h with rfl | h
        · exact .inr ⟨rfl, by assumption⟩
        · exact .inl h
    · split at h
      · split at h
        · exact .inl (List.mem_cons_of_mem _ h)
        · rcases List.mem_cons.1 h with rfl | h
          · exact .inr ⟨rfl, by assumption⟩
          · exact .inl (List.mem_cons_of_mem _ h)
      · rcases List.mem_cons.1 h with rfl | h
        · exact .inl List.mem_cons_self
        · exact (ih h).imp (List.mem_cons_of_mem _) id

/-- A write of one byte keeps the canonical form. -/
theorem memPut_wf {m : List Host.Cell} (h : Memory.wf m) (a : Nat) (v : Byte) : Memory.wf (memPut m a v) := by
  induction m with
  | nil =>
    simp only [memPut]
    split
    · exact wf_nil
    · constructor <;> simp_all
  | cons c cs ih =>
    have hc := List.pairwise_cons.1 h.1
    have hcs := wf_tail h
    have h0 := h.2 c List.mem_cons_self
    simp only [memPut]
    split
    · split
      · exact h
      · rename_i hlt hv
        refine ⟨List.pairwise_cons.2 ⟨fun x hx => ?_, h.1⟩, fun x hx => ?_⟩
        · rcases List.mem_cons.1 hx with rfl | hx
          · exact hlt
          · exact Nat.lt_trans hlt (hc.1 x hx)
        · rcases List.mem_cons.1 hx with rfl | hx
          · exact hv
          · exact h.2 x hx
    · split
      · split
        · exact hcs
        · rename_i _ he hv
          refine ⟨List.pairwise_cons.2 ⟨fun x hx => ?_, hcs.1⟩, fun x hx => ?_⟩
          · exact he ▸ hc.1 x hx
          · rcases List.mem_cons.1 hx with rfl | hx
            · exact hv
            · exact hcs.2 x hx
      · refine ⟨List.pairwise_cons.2 ⟨fun x hx => ?_, (ih hcs).1⟩, fun x hx => ?_⟩
        · rcases mem_memPut hx with hx | ⟨rfl, _⟩
          · exact hc.1 x hx
          · show c.1 < a
            omega
        · rcases List.mem_cons.1 hx with rfl | hx
          · exact h0
          · exact (ih hcs).2 x hx

/-- A write of a byte string keeps the canonical form. -/
theorem memPutAll_wf {m : List Host.Cell} (h : Memory.wf m) (a : Nat) (bs : List Byte) : Memory.wf (memPutAll m a bs) := by
  induction bs generalizing a with
  | nil => exact h
  | cons b bs ih => exact memPut_wf (ih (a + 1)) a b

/-- Dropping a range keeps the canonical form. -/
theorem memClear_wf {m : List Host.Cell} (h : Memory.wf m) (lo hi : Nat) : Memory.wf (memClear m lo hi) :=
  ⟨h.1.filter _, fun x hx => h.2 x (List.mem_filter.1 hx).1⟩

/-- A fold of writes keeps the canonical form. -/
theorem foldl_wf {α : Type} {f : List Host.Cell → α → List Host.Cell} (hf : ∀ m a, Memory.wf m → Memory.wf (f m a))
    (xs : List α) {m : List Host.Cell} (h : Memory.wf m) : Memory.wf (xs.foldl f m) := by
  induction xs generalizing m with
  | nil => exact h
  | cons x xs ih => exact ih (hf m x h)

/-- Below every entry a canonical memory reads 0. -/
theorem memGet_low {m : List Host.Cell} {a : Nat} (h : ∀ c ∈ m, a < c.1) : memGet m a = 0 := by
  cases m with
  | nil => rfl
  | cons c cs =>
    have hc := h c List.mem_cons_self
    simp only [memGet]
    split
    · omega
    · rfl

/-- A read after a write to the same address gives the byte written. -/
theorem memGet_memPut {m : List Host.Cell} (h : Memory.wf m) (a : Nat) (v : Byte) : memGet (memPut m a v) a = v := by
  induction m with
  | nil =>
    simp only [memPut]
    split
    · simp_all [memGet]
    · simp [memGet]
  | cons c cs ih =>
    have hc := List.pairwise_cons.1 h.1
    simp only [memPut]
    split
    · split
      · simp_all [memGet]
        omega
      · simp [memGet]
    · split
      · split
        · rename_i _ he hv
          rw [memGet_low, hv]
          exact fun x hx => he ▸ hc.1 x hx
        · simp [memGet]
      · rename_i hlt hne
        simp only [memGet, if_neg hne, if_neg hlt]
        exact ih (wf_tail h)

/-- A write leaves every other address as it was. -/
theorem memGet_memPut_ne {m : List Host.Cell} (h : Memory.wf m) {a b : Nat} (v : Byte) (hne : b ≠ a) :
    memGet (memPut m a v) b = memGet m b := by
  induction m with
  | nil =>
    simp only [memPut]
    split
    · rfl
    · simp only [memGet]
      split
      · omega
      · split <;> rfl
  | cons c cs ih =>
    have hc := List.pairwise_cons.1 h.1
    simp only [memPut]
    split
    · split
      · rfl
      · simp only [memGet]
        split
        · omega
        · split
          · split
            · omega
            · split
              · rfl
              · omega
          · rfl
    · split
      · split
        · simp only [memGet]
          split
          · omega
          · split
            · exact memGet_low fun x hx => Nat.lt_trans (by omega) (hc.1 x hx)
            · rfl
        · rename_i _ he _
          subst he
          simp only [memGet, if_neg (Ne.symm hne)]
      · simp only [memGet]
        rw [ih (wf_tail h)]

end Sys2Proof.Laws
end

