-- ==== Sys2Proof/Laws/Keeps.lean ====
section
/-! SUPPORT. What every shared operation below a reset keeps, in terms of `fixed` and its part `kept` (Safety.lean). For an operation
f that does not write the adapter space, f_keeps says what it keeps, the space among it; for one that does, f_fixed or f_kept and
f_mem say so separately. -/
namespace Sys2Proof.Laws
open Sys2Proof Sys2Proof.Machine

theorem setAt_length {α : Type} (xs : List α) (i : Nat) (v : α) : (setAt xs i v).length = xs.length := by
  induction xs generalizing i with
  | nil => rfl
  | cons x xs ih => cases i with
    | zero => rfl
    | succ i => simp only [setAt, List.length_cons, ih]

/-- A record update of other fields. -/
theorem fixed_mk {x : State}
    {free : Nat} {hb : Bool} {stopDone : List Nat} {shuntBw : Word} {shuntCfg : List Word} {yardCfg : List Word}
    {manCfg : List Word} {exitCfg : List (List Word)} {tableCfg : Word} {fw : Nat × Nat × Nat} {errs : BitVec 17}
    {errFirst : Option Nat} {errTick : Word} {irqPend : BitVec 5} {complAt : Option Nat} {complDue : Bool}
    {tokenAt : Option Nat} {tokenDue : Bool} {quiesceAt : Nat} {rings : Vector Ring 8} {taken : List Taken}
    {unsol : List Unsol} {writes : List HostWrite} {reads : List FmRead} {nextId : Nat} {links : Vector Link 32}
    {xch : Xch} {tick : TickSt} {last : LastTick} {lines : Vector LineSt 2} {inputs : Option Inputs} {frames : List Frame} {digest : Digest} {reqs : List Req}
    {gens : List (Nat × Nat)} {opens : Nat} {finals : List FinalRec} {used2 : List Nat} {used4 : List Nat}
    {dirs : List Dir} {charges : List Charge} {headRuns : List (List Nat)} {tmap : List TRun} {stale : List Stale} {tierOld : List TierCopy} {tenants : List Tenant}
    {rowUps : List RowUp} {flips : List (Nat × Nat)} {lastSeq : Nat} {trainErr : List (Nat × Nat)} {cache : List CacheEnt}
    {fetched : List (List Fetched)} {bands : List (Word × List (Nat × Nat))} {results : List ResRec} {snaps : List Snap}
    {rb : Readback} {power : Power} {log : Logbook} {adMem : List Host.Cell}
    (hp : power.halted = x.power.halted) (ht : tick.count = x.tick.count)
    (hs : tick.pinStop = x.tick.pinStop) (he : trainErr.length = x.trainErr.length) :
    fixed (State.mk
    x.pending x.now free x.build x.fuses x.powered x.rstN x.warmN x.wrapper hb x.tickAck stopDone x.regs x.keys x.budget
    shuntBw shuntCfg yardCfg manCfg exitCfg tableCfg x.negot fw x.reserve errs errFirst errTick irqPend complAt complDue
    tokenAt tokenDue x.engine quiesceAt x.trains rings taken unsol writes reads nextId links xch tick last lines inputs frames digest
    reqs gens opens finals used2 used4 dirs charges headRuns tmap stale tierOld tenants rowUps flips lastSeq x.specials trainErr cache
    fetched bands results snaps rb power log adMem) = fixed x := by
  simp only [fixed, hp, ht, hs, he]

/-- A record update of fields that operations may touch. -/
theorem kept_mk {x : State}
    {now : Nat} {free : Nat} {warmN : Bool} {hb : Bool} {tickAck : Bool} {stopDone : List Nat} {regs : List (Nat × Word)}
    {keys : List (List Word)} {budget : Nat} {shuntBw : Word} {shuntCfg : List Word} {yardCfg : List Word}
    {manCfg : List Word} {exitCfg : List (List Word)} {tableCfg : Word} {negot : List Nat} {fw : Nat × Nat × Nat}
    {reserve : Bool} {errs : BitVec 17} {errFirst : Option Nat} {errTick : Word} {irqPend : BitVec 5}
    {complAt : Option Nat} {complDue : Bool} {tokenAt : Option Nat} {tokenDue : Bool} {engine : Scope} {quiesceAt : Nat}
    {trains : List (Scope × Nat)} {rings : Vector Ring 8} {taken : List Taken} {unsol : List Unsol}
    {writes : List HostWrite} {reads : List FmRead} {nextId : Nat} {links : Vector Link 32} {xch : Xch} {tick : TickSt}
    {last : LastTick} {lines : Vector LineSt 2} {inputs : Option Inputs} {frames : List Frame} {digest : Digest} {reqs : List Req} {gens : List (Nat × Nat)} {opens : Nat}
    {finals : List FinalRec} {used2 : List Nat} {used4 : List Nat} {dirs : List Dir} {charges : List Charge}
    {headRuns : List (List Nat)} {tmap : List TRun} {stale : List Stale} {tierOld : List TierCopy} {tenants : List Tenant} {rowUps : List RowUp}
    {flips : List (Nat × Nat)} {lastSeq : Nat} {specials : List Special} {trainErr : List (Nat × Nat)}
    {cache : List CacheEnt} {fetched : List (List Fetched)} {bands : List (Word × List (Nat × Nat))}
    {results : List ResRec} {snaps : List Snap} {rb : Readback} {power : Power} {log : Logbook} {adMem : List Host.Cell}
    (hp : power.halted = x.power.halted) :
    (fixed (State.mk
    x.pending now free x.build x.fuses x.powered x.rstN warmN x.wrapper hb tickAck stopDone regs keys budget shuntBw
    shuntCfg yardCfg manCfg exitCfg tableCfg negot fw reserve errs errFirst errTick irqPend complAt complDue tokenAt
    tokenDue engine quiesceAt trains rings taken unsol writes reads nextId links xch tick last lines inputs frames digest reqs gens opens
    finals used2 used4 dirs charges headRuns tmap stale tierOld tenants rowUps flips lastSeq specials trainErr cache fetched bands
    results snaps rb power log adMem)).kept = (fixed x).kept := by
  simp only [fixed, hp]

/-- A fold of operations that fix. -/
theorem foldl_fixed {α : Type} {f : State → α → State} (hf : ∀ s a, fixed (f s a) = fixed s) (xs : List α) (s : State) :
    fixed (xs.foldl f s) = fixed s := by
  induction xs generalizing s with
  | nil => rfl
  | cons x xs ih => exact (ih _).trans (hf s x)

/-- A fold of operations that keep. -/
theorem foldl_kept {α : Type} {f : State → α → State} (hf : ∀ s a, (fixed (f s a)).kept = (fixed s).kept) (xs : List α) (s : State) :
    (fixed (xs.foldl f s)).kept = (fixed s).kept := by
  induction xs generalizing s with
  | nil => rfl
  | cons x xs ih => exact (ih _).trans (hf s x)

/-- A fold of operations that leave the adapter space. -/
theorem foldl_adMem {α : Type} {f : State → α → State} (hf : ∀ s a, (f s a).adMem = s.adMem) (xs : List α) (s : State) :
    (xs.foldl f s).adMem = s.adMem := by
  induction xs generalizing s with
  | nil => rfl
  | cons x xs ih => exact (ih _).trans (hf s x)

/-- A fold of operations that keep the adapter space canonical. -/
theorem foldl_mem {α : Type} {f : State → α → State} (hf : ∀ s a, Memory.wf s.adMem → Memory.wf (f s a).adMem) (xs : List α)
    {s : State} (h : Memory.wf s.adMem) : Memory.wf (xs.foldl f s).adMem := by
  induction xs generalizing s with
  | nil => exact h
  | cons x xs ih => exact ih (hf s x h)

/-- A fold that carries more than the state, `g` its state: when every turn keeps, so does the fold. -/
theorem foldl_carry {α β : Type} {g : β → State} {f : β → α → β}
    (hf : ∀ b a, fixed (g (f b a)) = fixed (g b) ∧ (g (f b a)).adMem = (g b).adMem) (xs : List α) (b : β) :
    fixed (g (xs.foldl f b)) = fixed (g b) ∧ (g (xs.foldl f b)).adMem = (g b).adMem := by
  induction xs generalizing b with
  | nil => exact ⟨rfl, rfl⟩
  | cons x xs ih => exact ⟨(ih _).1.trans (hf b x).1, (ih _).2.trans (hf b x).2⟩

/-! Machine/Regs.lean. -/

theorem setReg_keeps (s : State) (off : Nat) (v : Word) :
    (fixed (State.setReg s off v)).kept = (fixed s).kept ∧ (State.setReg s off v).adMem = s.adMem := by
  constructor
  · simp only [State.setReg, kept_mk]
  · simp only [State.setReg]

/-! Machine/Wire.lean. -/

theorem setLink_keeps (s : State) (c : Nat) (l : Link) :
    fixed (State.setLink s c l) = fixed s ∧ (State.setLink s c l).adMem = s.adMem := by
  constructor
  · simp only [State.setLink, fixed_mk]
  · simp only [State.setLink]

theorem pumpOne_keeps (s : State) (c : Nat) :
    fixed (State.pumpOne s c) = fixed s ∧ (State.pumpOne s c).adMem = s.adMem := by
  constructor
  · simp only [State.pumpOne, setLink_keeps, apply_ite fixed, ite_self]
  · simp only [State.pumpOne, setLink_keeps, apply_ite State.adMem, ite_self]

theorem pumpLink_keeps (s : State) (c : Nat) :
    fixed (State.pumpLink s c) = fixed s ∧ (State.pumpLink s c).adMem = s.adMem := by
  constructor
  · simp only [State.pumpLink, pumpOne_keeps, apply_ite fixed, ite_self]
  · simp only [State.pumpLink, pumpOne_keeps, apply_ite State.adMem, ite_self]

theorem send_keeps (s : State) (c : Nat) (fs : List Flit) :
    fixed (State.send s c fs) = fixed s ∧ (State.send s c fs).adMem = s.adMem := by
  constructor
  · simp only [State.send, pumpLink_keeps, setLink_keeps]
  · simp only [State.send, pumpLink_keeps, setLink_keeps]

theorem sendWrite_keeps (s : State) (w : HostWrite) :
    fixed (s.sendWrite w).1 = fixed s ∧ (s.sendWrite w).1.adMem = s.adMem := by
  unfold State.sendWrite
  split
  · exact ⟨rfl, rfl⟩
  · dsimp only
    split
    · exact send_keeps _ _ _
    · exact ⟨rfl, rfl⟩

theorem sendReady_keeps (s : State) : fixed s.sendReady = fixed s ∧ s.sendReady.adMem = s.adMem :=
  foldl_carry (g := Prod.fst) (f := fun (a : State × List HostWrite) w => ((a.1.sendWrite w).1, a.2 ++ [(a.1.sendWrite w).2]))
    (fun b w => sendWrite_keeps b.1 w) s.writes (s, [])

theorem addWrite_keeps (s : State) (k : WKind) (addr : Nat) (data : List Byte) (after : List Nat) :
    fixed (State.addWrite s k addr data after) = fixed s ∧ (State.addWrite s k addr data after).adMem = s.adMem := by
  constructor
  · simp only [State.addWrite, fixed_mk, sendReady_keeps, foldl_fixed, implies_true]
  · simp only [State.addWrite, sendReady_keeps, foldl_adMem, implies_true]

theorem sendRequests_keeps (s : State) (id n : Nat) :
    fixed (s.sendRequests id n) = fixed s ∧ (s.sendRequests id n).adMem = s.adMem := by
  induction n generalizing s with
  | zero => exact ⟨rfl, rfl⟩
  | succ n ih =>
    simp only [State.sendRequests]
    split
    · exact ⟨rfl, rfl⟩
    · next r _ =>
      generalize (if r.sent = 0 then s.pickPort r.id else r.port) = p
      split
      · exact ⟨rfl, rfl⟩
      · exact ⟨(ih _).1.trans ((send_keeps _ _ _).1.trans (fixed_mk rfl rfl rfl rfl)), (ih _).2.trans (send_keeps _ _ _).2⟩

theorem sendRead_keeps (s : State) (r : FmRead) :
    fixed (State.sendRead s r) = fixed s ∧ (State.sendRead s r).adMem = s.adMem :=
  ⟨(sendRequests_keeps _ _ _).1.trans (fixed_mk rfl rfl rfl rfl), (sendRequests_keeps _ _ _).2⟩

theorem addRead_keeps (s : State) (k : RKind) (addr units : Nat) :
    fixed (State.addRead s k addr units) = fixed s ∧ (State.addRead s k addr units).adMem = s.adMem := by
  exact ⟨(sendRequests_keeps _ _ _).1.trans (fixed_mk rfl rfl rfl rfl), (sendRequests_keeps _ _ _).2⟩

theorem resumeTraffic_keeps (s : State) :
    fixed (State.resumeTraffic s) = fixed s ∧ (State.resumeTraffic s).adMem = s.adMem := by
  constructor
  · simp only [State.resumeTraffic, sendReady_keeps, sendRequests_keeps, foldl_fixed, implies_true]
  · simp only [State.resumeTraffic, sendReady_keeps, sendRequests_keeps, foldl_adMem, implies_true]

/-! Machine/Flags.lean. -/

theorem begin_keeps (s : State) :
    (fixed (State.begin s)).kept = (fixed s).kept ∧ (State.begin s).adMem = s.adMem := by
  constructor
  · simp only [State.begin, kept_mk]
  · simp only [State.begin]

theorem advance_keeps (s : State) (t : Nat) :
    (fixed (State.advance s t)).kept = (fixed s).kept ∧ (State.advance s t).adMem = s.adMem := by
  constructor
  · simp only [State.advance, kept_mk]
  · simp only [State.advance]

theorem useFree_keeps (s : State) :
    fixed (State.useFree s) = fixed s ∧ (State.useFree s).adMem = s.adMem := by
  constructor
  · simp only [State.useFree, fixed_mk]
  · simp only [State.useFree]

theorem count_keeps (s : State) (c : Cnt) (n : Nat) :
    fixed (State.count s c n) = fixed s ∧ (State.count s c n).adMem = s.adMem := by
  constructor
  · simp only [State.count, fixed_mk]
  · simp only [State.count]

theorem histAdd_keeps (s : State) (h bin n : Nat) :
    fixed (State.histAdd s h bin n) = fixed s ∧ (State.histAdd s h bin n).adMem = s.adMem := by
  constructor
  · simp only [State.histAdd, fixed_mk]
  · simp only [State.histAdd]

theorem raise_keeps (s : State) (src : Nat) :
    fixed (State.raise s src) = fixed s ∧ (State.raise s src).adMem = s.adMem := by
  constructor
  · simp only [State.raise, fixed_mk, addWrite_keeps, apply_ite fixed, ite_self]
  · simp only [State.raise, addWrite_keeps, apply_ite State.adMem, ite_self]

theorem raiseCompl_keeps (s : State) :
    fixed (State.raiseCompl s) = fixed s ∧ (State.raiseCompl s).adMem = s.adMem := by
  constructor
  · unfold State.raiseCompl
    repeat' first
      | with_reducible rfl
      | simp only [fixed_mk, raise_keeps, apply_ite fixed, ite_self]
      | split
  · unfold State.raiseCompl
    repeat' first
      | with_reducible rfl
      | simp only [raise_keeps, apply_ite State.adMem, ite_self]
      | split

theorem raiseToken_keeps (s : State) :
    fixed (State.raiseToken s) = fixed s ∧ (State.raiseToken s).adMem = s.adMem := by
  constructor
  · unfold State.raiseToken
    repeat' first
      | with_reducible rfl
      | simp only [fixed_mk, raise_keeps, apply_ite fixed, ite_self]
      | split
  · unfold State.raiseToken
    repeat' first
      | with_reducible rfl
      | simp only [raise_keeps, apply_ite State.adMem, ite_self]
      | split

theorem due_keeps (s : State) (src : Nat) :
    fixed (State.due s src) = fixed s ∧ (State.due s src).adMem = s.adMem := by
  constructor
  · simp only [State.due, raise_keeps, raiseCompl_keeps, raiseToken_keeps, apply_ite fixed, ite_self]
  · simp only [State.due, raise_keeps, raiseCompl_keeps, raiseToken_keeps, apply_ite State.adMem, ite_self]

theorem errIrq_keeps (s : State) :
    fixed (State.errIrq s) = fixed s ∧ (State.errIrq s).adMem = s.adMem := by
  constructor
  · simp only [State.errIrq, raise_keeps, apply_ite fixed, ite_self]
  · simp only [State.errIrq, raise_keeps, apply_ite State.adMem, ite_self]

theorem setErr_keeps (s : State) (e : Err) :
    fixed (State.setErr s e) = fixed s ∧ (State.setErr s e).adMem = s.adMem := by
  constructor
  · simp only [State.setErr, fixed_mk, errIrq_keeps]
  · simp only [State.setErr, errIrq_keeps]

theorem errIf_keeps (s : State) (c : Bool) (e : Err) :
    fixed (State.errIf s c e) = fixed s ∧ (State.errIf s c e).adMem = s.adMem := by
  constructor
  · simp only [State.errIf, setErr_keeps, apply_ite fixed, ite_self]
  · simp only [State.errIf, setErr_keeps, apply_ite State.adMem, ite_self]

theorem releaseOnce_keeps (s : State) :
    fixed (State.releaseOnce s) = fixed s ∧ (State.releaseOnce s).adMem = s.adMem := by
  constructor
  · simp only [State.releaseOnce, fixed_mk, sendReady_keeps, due_keeps, foldl_fixed, implies_true]
  · simp only [State.releaseOnce, sendReady_keeps, due_keeps, foldl_adMem, implies_true]

theorem ackWrite_keeps (s : State) (id : Nat) :
    fixed (State.ackWrite s id) = fixed s ∧ (State.ackWrite s id).adMem = s.adMem := by
  constructor
  · simp only [State.ackWrite, fixed_mk, releaseOnce_keeps]
  · simp only [State.ackWrite, releaseOnce_keeps]

theorem reissue_keeps (s : State) :
    fixed (State.reissue s) = fixed s ∧ (State.reissue s).adMem = s.adMem := by
  constructor
  · simp only [State.reissue, fixed_mk, releaseOnce_keeps]
  · simp only [State.reissue, releaseOnce_keeps]

theorem raiseAfter_keeps (s : State) (src : Nat) (after : List Nat) :
    fixed (State.raiseAfter s src after) = fixed s ∧ (State.raiseAfter s src after).adMem = s.adMem := by
  constructor
  · simp only [State.raiseAfter, fixed_mk, releaseOnce_keeps]
  · simp only [State.raiseAfter, releaseOnce_keeps]

/-! Machine/Ops.lean. -/

theorem setRing_keeps (s : State) (k : Nat) (r : Ring) :
    fixed (State.setRing s k r) = fixed s ∧ (State.setRing s k r).adMem = s.adMem := by
  constructor
  · simp only [State.setRing, fixed_mk]
  · simp only [State.setRing]

theorem statusLine_keeps (s : State) (k : Nat) :
    fixed (State.statusLine s k) = fixed s ∧ (State.statusLine s k).adMem = s.adMem := by
  constructor
  · simp only [State.statusLine, addWrite_keeps]
  · simp only [State.statusLine, addWrite_keeps]

theorem writeRecord_keeps (s : State) (k : Nat) (data : List Byte) (resv : Nat) (srcs : List Nat) :
    fixed (State.writeRecord s k data resv srcs) = fixed s ∧ (State.writeRecord s k data resv srcs).adMem = s.adMem := by
  constructor
  · simp only [State.writeRecord, addWrite_keeps, raiseAfter_keeps, setRing_keeps, statusLine_keeps, foldl_fixed,
      implies_true]
  · simp only [State.writeRecord, addWrite_keeps, raiseAfter_keeps, setRing_keeps, statusLine_keeps, foldl_adMem, implies_true]

theorem finish_keeps (s : State) (tk : Taken) (a : Answer) :
    fixed (State.finish s tk a) = fixed s ∧ (State.finish s tk a).adMem = s.adMem := by
  constructor
  · simp only [State.finish, fixed_mk, writeRecord_keeps]
  · simp only [State.finish, writeRecord_keeps]

theorem sec1Add_keeps (s : State) (tk : Taken) (status : Nat) (extra : List Byte) :
    fixed (State.sec1Add s tk status extra) = fixed s ∧ (State.sec1Add s tk status extra).adMem = s.adMem := by
  constructor
  · simp only [State.sec1Add, fixed_mk, apply_ite fixed, ite_self]
  · simp only [State.sec1Add, apply_ite State.adMem, ite_self]

theorem doneAdd_keeps (s : State) (tk : Taken) (status : Nat) :
    fixed (State.doneAdd s tk status) = fixed s ∧ (State.doneAdd s tk status).adMem = s.adMem := by
  constructor
  · simp only [State.doneAdd, fixed_mk, apply_ite fixed, ite_self]
  · simp only [State.doneAdd, apply_ite State.adMem, ite_self]

theorem finishRows_keeps (s : State) (tk : Taken) (a : Answer) :
    fixed (State.finishRows s tk a) = fixed s ∧ (State.finishRows s tk a).adMem = s.adMem := by
  constructor
  · simp only [State.finishRows, doneAdd_keeps, finish_keeps]
  · simp only [State.finishRows, doneAdd_keeps, finish_keeps]

theorem answer_keeps (s : State) (tk : Taken) (a : Answer) :
    fixed (State.answer s tk a) = fixed s ∧ (State.answer s tk a).adMem = s.adMem := by
  constructor
  · simp only [State.answer, finish_keeps, doneAdd_keeps, sec1Add_keeps]
  · simp only [State.answer, finish_keeps, doneAdd_keeps, sec1Add_keeps]

theorem signalBoxFault_keeps (s : State) (tk : Taken) :
    fixed (State.signalBoxFault s tk) = fixed s ∧ (State.signalBoxFault s tk).adMem = s.adMem := by
  constructor
  · simp only [State.signalBoxFault, answer_keeps, setErr_keeps]
  · simp only [State.signalBoxFault, answer_keeps, setErr_keeps]

theorem park_keeps (s : State) (tk : Taken) (p : Pend) :
    fixed (State.park s tk p) = fixed s ∧ (State.park s tk p).adMem = s.adMem := by
  constructor
  · simp only [State.park, fixed_mk, sec1Add_keeps]
  · simp only [State.park, sec1Add_keeps]

theorem finishWhere_keeps (s : State) (p : Pend → Bool) (a : Answer) :
    fixed (State.finishWhere s p a) = fixed s ∧ (State.finishWhere s p a).adMem = s.adMem := by
  constructor
  · simp only [State.finishWhere, finish_keeps, foldl_fixed, implies_true]
  · simp only [State.finishWhere, finish_keeps, foldl_adMem, implies_true]

theorem unsolWrite_keeps (s : State) (u : Unsol) :
    fixed (State.unsolWrite s u) = fixed s ∧ (State.unsolWrite s u).adMem = s.adMem := by
  constructor
  · simp only [State.unsolWrite, writeRecord_keeps]
  · simp only [State.unsolWrite, writeRecord_keeps]

theorem unsolEvent_keeps (s : State) (status r0 r1 : Nat) :
    fixed (State.unsolEvent s status r0 r1) = fixed s ∧ (State.unsolEvent s status r0 r1).adMem = s.adMem := by
  constructor
  · simp only [State.unsolEvent, fixed_mk, count_keeps, setErr_keeps, unsolWrite_keeps, apply_ite fixed, ite_self]
  · simp only [State.unsolEvent, count_keeps, setErr_keeps, unsolWrite_keeps, apply_ite State.adMem, ite_self]

theorem unsolDrain_keeps (s : State) (us : List Unsol) :
    fixed (s.unsolDrain us) = fixed s ∧ (s.unsolDrain us).adMem = s.adMem := by
  induction us generalizing s with
  | nil => exact ⟨rfl, rfl⟩
  | cons u us ih =>
    unfold State.unsolDrain
    split
    · simp only [ih, unsolWrite_keeps, and_self]
    · exact ⟨rfl, rfl⟩

theorem setDir_keeps (s : State) (d : Dir) :
    fixed (State.setDir s d) = fixed s ∧ (State.setDir s d).adMem = s.adMem := by
  constructor
  · simp only [State.setDir, fixed_mk]
  · simp only [State.setDir]

theorem freeDir_keeps (s : State) (slot : Nat) :
    fixed (State.freeDir s slot) = fixed s ∧ (State.freeDir s slot).adMem = s.adMem := by
  constructor
  · simp only [State.freeDir, fixed_mk]
  · simp only [State.freeDir]

theorem setTenant_keeps (s : State) (t : Tenant) :
    fixed (State.setTenant s t) = fixed s ∧ (State.setTenant s t).adMem = s.adMem := by
  constructor
  · simp only [State.setTenant, fixed_mk]
  · simp only [State.setTenant]

theorem dropHead_keeps (s : State) (id : Nat) :
    fixed (State.dropHead s id) = fixed s ∧ (State.dropHead s id).adMem = s.adMem := by
  constructor
  · simp only [State.dropHead, fixed_mk]
  · simp only [State.dropHead]

theorem release_keeps (s : State) (p : Charge → Bool) :
    fixed (State.release s p) = fixed s ∧ (State.release s p).adMem = s.adMem := by
  constructor
  · simp only [State.release, fixed_mk, dropHead_keeps, foldl_fixed, implies_true]
  · simp only [State.release, dropHead_keeps, foldl_adMem, implies_true]

theorem releaseDue_keeps (s : State) (n : Nat) :
    fixed (State.releaseDue s n) = fixed s ∧ (State.releaseDue s n).adMem = s.adMem := by
  constructor
  · simp only [State.releaseDue, release_keeps]
  · simp only [State.releaseDue, release_keeps]

theorem releaseAt_keeps (s : State) (slot : Nat) (p : Charge → Bool) (n : Nat) :
    fixed (State.releaseAt s slot p n) = fixed s ∧ (State.releaseAt s slot p n).adMem = s.adMem := by
  constructor
  · simp only [State.releaseAt, fixed_mk]
  · simp only [State.releaseAt]

theorem dropStale_keeps (s : State) :
    fixed (State.dropStale s) = fixed s ∧ (State.dropStale s).adMem = s.adMem := by
  constructor
  · simp only [State.dropStale, fixed_mk]
  · simp only [State.dropStale]

theorem stopTraffic_keeps (s : State) (slot : Nat) :
    fixed (State.stopTraffic s slot) = fixed s ∧ (State.stopTraffic s slot).adMem = s.adMem := by
  constructor
  · simp only [State.stopTraffic, fixed_mk]
  · simp only [State.stopTraffic]

theorem poison_keeps (s : State) (slot : Nat) :
    fixed (State.poison s slot) = fixed s ∧ (State.poison s slot).adMem = s.adMem := by
  constructor
  · unfold State.poison
    repeat' first
      | with_reducible rfl
      | simp only [count_keeps, setErr_keeps, unsolEvent_keeps, setDir_keeps, stopTraffic_keeps, apply_ite fixed,
        ite_self]
      | split
  · unfold State.poison
    repeat' first
      | with_reducible rfl
      | simp only [count_keeps, setErr_keeps, unsolEvent_keeps, setDir_keeps, stopTraffic_keeps, apply_ite State.adMem,
        ite_self]
      | split

theorem beginBuild_keeps (s : State) :
    fixed (State.beginBuild s) = fixed s ∧ (State.beginBuild s).adMem = s.adMem := by
  constructor
  · unfold State.beginBuild
    repeat' first
      | with_reducible rfl
      | simp only [fixed_mk, apply_ite fixed, ite_self]
      | split
  · unfold State.beginBuild
    repeat' first
      | with_reducible rfl
      | simp only [apply_ite State.adMem, ite_self]
      | split

theorem rejectUnknown_keeps (s : State) (n : Nat) :
    fixed (s.rejectUnknown n) = fixed s ∧ (s.rejectUnknown n).adMem = s.adMem := by
  induction n generalizing s with
  | zero => exact ⟨rfl, rfl⟩
  | succ n ih =>
    unfold State.rejectUnknown
    split
    · split
      · simp only [ih, answer_keeps, and_self]
      · exact ⟨rfl, rfl⟩
    · exact ⟨rfl, rfl⟩

theorem withDesc_fixed (s : State) (form : DescBytes → Bool) {f : State → Taken → State}
    (hf : ∀ s tk, fixed (f s tk) = fixed s) : fixed (s.withDesc form f) = fixed s := by
  unfold State.withDesc
  split
  · rfl
  · split
    · rfl
    · split
      · rfl
      · split <;> simp only [beginBuild_keeps, rejectUnknown_keeps, answer_keeps, hf]

theorem withDesc_mem (s : State) (form : DescBytes → Bool) {f : State → Taken → State}
    (hf : ∀ s tk, Memory.wf s.adMem → Memory.wf (f s tk).adMem) (h : Memory.wf s.adMem) :
    Memory.wf (s.withDesc form f).adMem := by
  unfold State.withDesc
  split
  · exact h
  · split
    · exact h
    · split
      · exact h
      · split
        · simpa only [beginBuild_keeps, rejectUnknown_keeps, answer_keeps] using h
        · simpa only [beginBuild_keeps, rejectUnknown_keeps] using hf s _ h

/-! Machine/Requests.lean. -/

theorem setReq_keeps (s : State) (r : Req) :
    fixed (State.setReq s r) = fixed s ∧ (State.setReq s r).adMem = s.adMem := by
  constructor
  · simp only [State.setReq, fixed_mk]
  · simp only [State.setReq]

theorem updReq_keeps (s : State) (slot : Nat) (f : Req → Req) :
    fixed (State.updReq s slot f) = fixed s ∧ (State.updReq s slot f).adMem = s.adMem := by
  constructor
  · simp only [State.updReq, fixed_mk]
  · simp only [State.updReq]

theorem writeRing_keeps (s : State) (slot base log2 : Nat) (prod : Word) (rs : List TokRec) :
    fixed (s.writeRing slot base log2 prod rs) = fixed s ∧ (s.writeRing slot base log2 prod rs).adMem = s.adMem := by
  unfold State.writeRing
  simp only [addWrite_keeps]
  exact foldl_carry (g := Prod.fst) (fun b r => by simp only [addWrite_keeps, and_self]) rs (s, prod)

theorem tokenIrq_keeps (s : State) :
    fixed (State.tokenIrq s) = fixed s ∧ (State.tokenIrq s).adMem = s.adMem := by
  constructor
  · simp only [State.tokenIrq, raiseAfter_keeps]
  · simp only [State.tokenIrq, raiseAfter_keeps]

theorem queueFinal_keeps (s : State) (f : FinalRec) :
    fixed (State.queueFinal s f) = fixed s ∧ (State.queueFinal s f).adMem = s.adMem := by
  constructor
  · simp only [State.queueFinal, fixed_mk, count_keeps, apply_ite fixed, ite_self]
  · simp only [State.queueFinal, count_keeps, apply_ite State.adMem, ite_self]

theorem tryFinal_keeps (hdrs : List (Word × DescBytes)) (a : State × Bool) (f : FinalRec) :
    fixed ((State.tryFinal hdrs a f).1) = fixed a.1 ∧ (State.tryFinal hdrs a f).1.adMem = a.1.adMem := by
  constructor
  · unfold State.tryFinal
    repeat' first
      | with_reducible rfl
      | simp only [fixed_mk, count_keeps, setErr_keeps, errIf_keeps, writeRing_keeps]
      | split
  · unfold State.tryFinal
    repeat' first
      | with_reducible rfl
      | simp only [count_keeps, setErr_keeps, errIf_keeps, writeRing_keeps]
      | split

theorem wantToken_keeps (s : State) (due : Bool) :
    fixed (State.wantToken s due) = fixed s ∧ (State.wantToken s due).adMem = s.adMem := by
  constructor
  · simp only [State.wantToken, fixed_mk, apply_ite fixed, ite_self]
  · simp only [State.wantToken, apply_ite State.adMem, ite_self]

theorem raiseTokens_keeps (s : State) :
    fixed (State.raiseTokens s) = fixed s ∧ (State.raiseTokens s).adMem = s.adMem := by
  constructor
  · simp only [State.raiseTokens, fixed_mk, tokenIrq_keeps, apply_ite fixed, ite_self]
  · simp only [State.raiseTokens, tokenIrq_keeps, apply_ite State.adMem, ite_self]

theorem retryFinals_keeps (s : State) (hdrs : List (Word × DescBytes)) :
    fixed (s.retryFinals hdrs) = fixed s ∧ (s.retryFinals hdrs).adMem = s.adMem := by
  have h := foldl_carry (g := Prod.fst) (tryFinal_keeps hdrs) s.finals ({ s with finals := [] }, false)
  unfold State.retryFinals
  exact ⟨(wantToken_keeps _ _).1.trans h.1, (wantToken_keeps _ _).2.trans h.2⟩

theorem expiredTried_keeps (s : State) (hdrs : List (Nat × DescBytes)) :
    fixed (s.expiredTried hdrs) = fixed s ∧ (s.expiredTried hdrs).adMem = s.adMem := by
  unfold State.expiredTried
  dsimp only
  have h := foldl_carry (g := Prod.fst) (f := fun (a : State × Bool) (f : FinalRec) =>
      match if f.asked && (s.reqAt (tagSlot f.tag)).isNone then hdrs.find? fun h => h.1 = tagSlot f.tag else none with
      | some h => State.tryFinal [(f.tag, h.2)] a f
      | none => ({ a.1 with finals := a.1.finals ++ [f] }, a.2))
    (fun a f => by
      dsimp only
      split
      · exact tryFinal_keeps _ a f
      · exact ⟨rfl, rfl⟩) s.finals ({ s with finals := [] }, false)
  split
  · exact ⟨(wantToken_keeps _ _).1.trans h.1, (wantToken_keeps _ _).2.trans h.2⟩
  · exact ⟨(raiseTokens_keeps _).1.trans ((wantToken_keeps _ _).1.trans h.1),
      (raiseTokens_keeps _).2.trans ((wantToken_keeps _ _).2.trans h.2)⟩

theorem stopMoves_keeps (s : State) (slot : Nat) :
    fixed (State.stopMoves s slot) = fixed s ∧ (State.stopMoves s slot).adMem = s.adMem := by
  constructor
  · simp only [State.stopMoves, fixed_mk, releaseOnce_keeps]
  · simp only [State.stopMoves, releaseOnce_keeps]

theorem freeReq_keeps (s : State) (r : Req) :
    fixed (State.freeReq s r) = fixed s ∧ (State.freeReq s r).adMem = s.adMem := by
  constructor
  · simp only [State.freeReq, fixed_mk, finishWhere_keeps, stopMoves_keeps]
  · simp only [State.freeReq, finishWhere_keeps, stopMoves_keeps]

theorem expire_keeps (s : State) (r : Req) (n : Nat) :
    fixed (State.expire s r n) = fixed s ∧ (State.expire s r n).adMem = s.adMem := by
  constructor
  · simp only [State.expire, fixed_mk, queueFinal_keeps, freeReq_keeps]
  · simp only [State.expire, queueFinal_keeps, freeReq_keeps]

theorem expireAll_keeps (s : State) (n : Nat) :
    fixed (State.expireAll s n) = fixed s ∧ (State.expireAll s n).adMem = s.adMem := by
  constructor
  · simp only [State.expireAll, expire_keeps, foldl_fixed, implies_true]
  · simp only [State.expireAll, expire_keeps, foldl_adMem, implies_true]

theorem openReq_keeps (s : State) (param : Option (BitVec 1024)) (tk : Taken) :
    fixed (State.openReq s param tk) = fixed s ∧ (State.openReq s param tk).adMem = s.adMem := by
  constructor
  · unfold State.openReq
    repeat' first
      | with_reducible rfl
      | simp only [fixed_mk, count_keeps, setErr_keeps, finish_keeps, sec1Add_keeps, answer_keeps, setReq_keeps,
        apply_ite fixed, ite_self]
      | split
  · unfold State.openReq
    repeat' first
      | with_reducible rfl
      | simp only [count_keeps, setErr_keeps, finish_keeps, sec1Add_keeps, answer_keeps, setReq_keeps, apply_ite State.adMem,
        ite_self]
      | split

theorem withTag_keeps (s : State) (tk : Taken) {f : State → Req → State}
    (hf : ∀ s r, fixed (f s r) = fixed s ∧ (f s r).adMem = s.adMem) :
    fixed (s.withTag tk f) = fixed s ∧ (s.withTag tk f).adMem = s.adMem := by
  unfold State.withTag
  split
  · exact answer_keeps _ _ _
  · split
    · exact answer_keeps _ _ _
    · exact hf _ _

theorem cancelReq_keeps (s : State) (tk : Taken) : fixed (s.cancelReq tk) = fixed s ∧ (s.cancelReq tk).adMem = s.adMem :=
  withTag_keeps s tk fun s r => by simp only [answer_keeps, setReq_keeps, and_self]

theorem pauseReq_keeps (s : State) (tk : Taken) : fixed (s.pauseReq tk) = fixed s ∧ (s.pauseReq tk).adMem = s.adMem :=
  withTag_keeps s tk fun s r => by split <;> simp only [park_keeps, answer_keeps, setReq_keeps, and_self]

theorem resumeReq_keeps (s : State) (tk : Taken) : fixed (s.resumeReq tk) = fixed s ∧ (s.resumeReq tk).adMem = s.adMem :=
  withTag_keeps s tk fun s r => by
    split
    · simp only [answer_keeps, finishWhere_keeps, setReq_keeps, and_self]
    · split <;> simp only [park_keeps, answer_keeps, setReq_keeps, and_self]

theorem setSamplingReq_keeps (s : State) (tk : Taken) :
    fixed (s.setSamplingReq tk) = fixed s ∧ (s.setSamplingReq tk).adMem = s.adMem :=
  withTag_keeps s tk fun s r => by simp only [answer_keeps, setReq_keeps, and_self]

/-! Machine/Plan.lean. -/

theorem updLine_keeps (s : State) (l : Nat) (f : LineSt → LineSt) :
    fixed (State.updLine s l f) = fixed s ∧ (State.updLine s l f).adMem = s.adMem := by
  constructor
  · simp only [State.updLine, fixed_mk]
  · simp only [State.updLine]

/-! Machine/Stops.lean. -/

theorem updTick_keeps (s : State) {f : TickSt → TickSt} (hf : (f s.tick).count = s.tick.count)
    (hs : (f s.tick).pinStop = s.tick.pinStop) : fixed (s.updTick f) = fixed s ∧ (s.updTick f).adMem = s.adMem :=
  ⟨fixed_mk rfl hf hs rfl, rfl⟩

theorem updTick_kept (s : State) (f : TickSt → TickSt) :
    (fixed (s.updTick f)).kept = (fixed s).kept ∧ (s.updTick f).adMem = s.adMem :=
  ⟨kept_mk rfl, rfl⟩

theorem updStop_keeps (s : State) (stop : Nat) (f : Stop → Stop) :
    fixed (State.updStop s stop f) = fixed s ∧ (State.updStop s stop f).adMem = s.adMem := by
  constructor
  · simp only [State.updStop, updTick_keeps]
  · simp only [State.updStop, updTick_keeps]

theorem failLate_keeps (s : State) :
    fixed (State.failLate s) = fixed s ∧ (State.failLate s).adMem = s.adMem := by
  constructor
  · simp only [State.failLate, updTick_keeps, apply_ite fixed, ite_self]
  · simp only [State.failLate, updTick_keeps, apply_ite State.adMem, ite_self]

theorem sendMask_keeps (s : State) (kind stop : Nat) (rows : List Nat) :
    fixed (State.sendMask s kind stop rows) = fixed s ∧ (State.sendMask s kind stop rows).adMem = s.adMem := by
  constructor
  · simp only [State.sendMask, send_keeps]
  · simp only [State.sendMask, send_keeps]

theorem countLate_keeps (s : State) (n : Nat) :
    fixed (State.countLate s n) = fixed s ∧ (State.countLate s n).adMem = s.adMem := by
  constructor
  · simp only [State.countLate, count_keeps, updTick_keeps]
  · simp only [State.countLate, count_keeps, updTick_keeps]

theorem lateMask_keeps (s : State) (x : Stop) (counted : Bool) :
    fixed (State.lateMask s x counted) = fixed s ∧ (State.lateMask s x counted).adMem = s.adMem := by
  constructor
  · simp only [State.lateMask, updTick_keeps, sendMask_keeps, countLate_keeps, apply_ite fixed, ite_self]
  · simp only [State.lateMask, updTick_keeps, sendMask_keeps, countLate_keeps, apply_ite State.adMem, ite_self]

theorem exitMaskOf_keeps (s : State) (x : Stop) :
    fixed (State.exitMaskOf s x) = fixed s ∧ (State.exitMaskOf s x).adMem = s.adMem := by
  constructor
  · simp only [State.exitMaskOf, count_keeps, updReq_keeps, updTick_keeps, updStop_keeps, sendMask_keeps, foldl_fixed,
      implies_true, apply_ite fixed, ite_self]
  · simp only [State.exitMaskOf, count_keeps, updReq_keeps, updTick_keeps, updStop_keeps, sendMask_keeps, foldl_adMem,
      implies_true, apply_ite State.adMem, ite_self]

theorem emitRow_keeps (s : State) (ports kind stop row : Nat) (zero : Bool) (el : Nat → Word) :
    fixed (State.emitRow s ports kind stop row zero el) = fixed s
      ∧ (State.emitRow s ports kind stop row zero el).adMem = s.adMem := by
  constructor
  · simp only [State.emitRow, fixed_mk, send_keeps, count_keeps, updStop_keeps, apply_ite fixed, ite_self]
  · simp only [State.emitRow, send_keeps, count_keeps, updStop_keeps, apply_ite State.adMem, ite_self]

theorem tryDone_keeps (s : State) (n : Nat) : fixed (s.tryDone n) = fixed s ∧ (s.tryDone n).adMem = s.adMem := by
  induction n generalizing s with
  | zero => exact ⟨rfl, rfl⟩
  | succ n ih =>
    unfold State.tryDone
    split
    · exact ⟨rfl, rfl⟩
    · split
      · exact ih _
      · exact ⟨rfl, rfl⟩

theorem pumpDone_keeps (s : State) :
    fixed (State.pumpDone s) = fixed s ∧ (State.pumpDone s).adMem = s.adMem := by
  constructor
  · simp only [State.pumpDone, tryDone_keeps]
  · simp only [State.pumpDone, tryDone_keeps]

theorem fillRecs_keeps (s : State) (x : Stop) :
    fixed (State.fillRecs s x) = fixed s ∧ (State.fillRecs s x).adMem = s.adMem := by
  constructor
  · simp only [State.fillRecs, updTick_keeps]
  · simp only [State.fillRecs, updTick_keeps]

theorem fillPlans_keeps (s : State) :
    fixed (State.fillPlans s) = fixed s ∧ (State.fillPlans s).adMem = s.adMem := by
  constructor
  · unfold State.fillPlans
    repeat' first
      | with_reducible rfl
      | simp only [updTick_keeps, apply_ite fixed]
      | split
  · unfold State.fillPlans
    repeat' first
      | with_reducible rfl
      | simp only [updTick_keeps, apply_ite State.adMem]
      | split

theorem endStop_keeps (s : State) (stop : Nat) (counted cut : Bool) :
    fixed (State.endStop s stop counted cut) = fixed s ∧ (State.endStop s stop counted cut).adMem = s.adMem := by
  constructor
  · unfold State.endStop
    repeat' first
      | with_reducible rfl
      | simp only [updTick_keeps, updStop_keeps, lateMask_keeps, exitMaskOf_keeps, pumpDone_keeps, fillRecs_keeps,
        apply_ite fixed, ite_self]
      | split
  · unfold State.endStop
    repeat' first
      | with_reducible rfl
      | simp only [updTick_keeps, updStop_keeps, lateMask_keeps, exitMaskOf_keeps, pumpDone_keeps, fillRecs_keeps,
        apply_ite State.adMem, ite_self]
      | split

/-! Machine/Exchange.lean. -/

theorem updXch_keeps (s : State) (f : Xch → Xch) :
    fixed (State.updXch s f) = fixed s ∧ (State.updXch s f).adMem = s.adMem := by
  constructor
  · simp only [State.updXch, fixed_mk]
  · simp only [State.updXch]

theorem takeRx_keeps (s : State) (port : Nat) (p : Flit → Bool) :
    fixed (State.takeRx s port p) = fixed s ∧ (State.takeRx s port p).adMem = s.adMem := by
  constructor
  · simp only [State.takeRx, setLink_keeps]
  · simp only [State.takeRx, setLink_keeps]

theorem updCons_keeps (s : State) (num : Nat) (f : Consign → Consign) :
    fixed (State.updCons s num f) = fixed s ∧ (State.updCons s num f).adMem = s.adMem := by
  constructor
  · simp only [State.updCons, updTick_keeps]
  · simp only [State.updCons, updTick_keeps]

theorem markEnded_keeps (s : State) :
    fixed (State.markEnded s) = fixed s ∧ (State.markEnded s).adMem = s.adMem := by
  constructor
  · simp only [State.markEnded, updTick_keeps]
  · simp only [State.markEnded, updTick_keeps]

theorem sendCons_keeps (s : State) (num : Nat) :
    fixed (State.sendCons s num) = fixed s ∧ (State.sendCons s num).adMem = s.adMem := by
  constructor
  · unfold State.sendCons
    repeat' first
      | with_reducible rfl
      | simp only [fixed_mk, send_keeps, count_keeps, updCons_keeps, markEnded_keeps, apply_ite fixed, ite_self]
      | split
  · unfold State.sendCons
    repeat' first
      | with_reducible rfl
      | simp only [send_keeps, count_keeps, updCons_keeps, markEnded_keeps, apply_ite State.adMem, ite_self]
      | split

theorem endCons_keeps (s : State) :
    fixed (State.endCons s) = fixed s ∧ (State.endCons s).adMem = s.adMem := by
  constructor
  · simp only [State.endCons, updTick_keeps, markEnded_keeps]
  · simp only [State.endCons, updTick_keeps, markEnded_keeps]

theorem leaveCons_keeps (s : State) :
    fixed (State.leaveCons s) = fixed s ∧ (State.leaveCons s).adMem = s.adMem := by
  constructor
  · simp only [State.leaveCons, updTick_keeps, markEnded_keeps]
  · simp only [State.leaveCons, updTick_keeps, markEnded_keeps]

theorem sendDigest_keeps (s : State) :
    fixed (State.sendDigest s) = fixed s ∧ (State.sendDigest s).adMem = s.adMem := by
  constructor
  · simp only [State.sendDigest, fixed_mk, send_keeps, apply_ite fixed, ite_self]
  · simp only [State.sendDigest, send_keeps, apply_ite State.adMem, ite_self]

theorem groupMismatch_keeps (s : State) (sections : Nat) :
    fixed (State.groupMismatch s sections) = fixed s ∧ (State.groupMismatch s sections).adMem = s.adMem := by
  constructor
  · simp only [State.groupMismatch, fixed_mk, count_keeps, setErr_keeps, unsolEvent_keeps, apply_ite fixed, ite_self]
  · simp only [State.groupMismatch, count_keeps, setErr_keeps, unsolEvent_keeps, apply_ite State.adMem, ite_self]

theorem loseThePartner_keeps (s : State) (silence : Bool) :
    fixed (State.loseThePartner s silence) = fixed s ∧ (State.loseThePartner s silence).adMem = s.adMem := by
  constructor
  · simp only [State.loseThePartner, fixed_mk, setLink_keeps, count_keeps, setErr_keeps, unsolEvent_keeps, pumpDone_keeps,
      updXch_keeps, endCons_keeps, apply_ite fixed, ite_self]
  · simp only [State.loseThePartner, setLink_keeps, count_keeps, setErr_keeps, unsolEvent_keeps, pumpDone_keeps, updXch_keeps,
      endCons_keeps, apply_ite State.adMem, ite_self]

theorem startJoin_keeps (s : State) :
    fixed (State.startJoin s) = fixed s ∧ (State.startJoin s).adMem = s.adMem := by
  constructor
  · simp only [State.startJoin, send_keeps, updXch_keeps, apply_ite fixed, ite_self]
  · simp only [State.startJoin, send_keeps, updXch_keeps, apply_ite State.adMem, ite_self]

theorem placeFlit_keeps (s : State) (tag : FlitTag) (payload : Payload) :
    fixed (State.placeFlit s tag payload) = fixed s ∧ (State.placeFlit s tag payload).adMem = s.adMem := by
  constructor
  · unfold State.placeFlit
    repeat' first
      | with_reducible rfl
      | simp only [fixed_mk, setErr_keeps, updXch_keeps, updCons_keeps, apply_ite fixed, ite_self]
      | split
  · unfold State.placeFlit
    repeat' first
      | with_reducible rfl
      | simp only [setErr_keeps, updXch_keeps, updCons_keeps, apply_ite State.adMem, ite_self]
      | split

/-! Machine/Junction.lean. -/

theorem addVisit_keeps (s : State) (line : Nat) (h : Word) (row : Nat) :
    fixed (State.addVisit s line h row) = fixed s ∧ (State.addVisit s line h row).adMem = s.adMem := by
  constructor
  · simp only [State.addVisit, updLine_keeps]
  · simp only [State.addVisit, updLine_keeps]

theorem placeOne_keeps (s : State) (x : Stop) (score : Option (Consign × Nat)) (row slot : Nat) :
    fixed (State.placeOne s x score row slot) = fixed s ∧ (State.placeOne s x score row slot).adMem = s.adMem := by
  constructor
  · unfold State.placeOne
    repeat' first
      | with_reducible rfl
      | simp only [count_keeps, updTick_keeps, addVisit_keeps, apply_ite fixed, ite_self]
      | split
  · unfold State.placeOne
    repeat' first
      | with_reducible rfl
      | simp only [count_keeps, updTick_keeps, addVisit_keeps, apply_ite State.adMem, ite_self]
      | split

theorem exitDecision_keeps (s : State) (x : Stop) (size group base : Nat) (c : Consign) :
    fixed (State.exitDecision s x size group base c) = fixed s
      ∧ (State.exitDecision s x size group base c).adMem = s.adMem := by
  constructor
  · unfold State.exitDecision
    repeat' first
      | with_reducible rfl
      | simp only [updTick_keeps, updStop_keeps]
      | split
  · unfold State.exitDecision
    repeat' first
      | with_reducible rfl
      | simp only [updTick_keeps, updStop_keeps]
      | split

theorem placeRows_keeps (s : State) (x : Stop) (size group : Nat) (cons : Option Consign) :
    fixed (State.placeRows s x size group cons) = fixed s ∧ (State.placeRows s x size group cons).adMem = s.adMem := by
  constructor
  · simp only [State.placeRows, updStop_keeps, markEnded_keeps, placeOne_keeps, foldl_fixed, implies_true]
  · simp only [State.placeRows, updStop_keeps, markEnded_keeps, placeOne_keeps, foldl_adMem, implies_true]

theorem placeGroup_keeps (s : State) (stop group : Nat) :
    fixed (State.placeGroup s stop group) = fixed s ∧ (State.placeGroup s stop group).adMem = s.adMem := by
  constructor
  · unfold State.placeGroup
    repeat' first
      | with_reducible rfl
      | simp only [failLate_keeps, exitDecision_keeps, placeRows_keeps, apply_ite fixed, ite_self]
      | split
  · unfold State.placeGroup
    repeat' first
      | with_reducible rfl
      | simp only [failLate_keeps, exitDecision_keeps, placeRows_keeps, apply_ite State.adMem, ite_self]
      | split

/-! Machine/Heads.lean. -/

theorem writeTokens_keeps (s : State) (q : Req) (recs : List TokRec) :
    fixed (State.writeTokens s q recs) = fixed s ∧ (State.writeTokens s q recs).adMem = s.adMem := by
  constructor
  · simp only [State.writeTokens, updReq_keeps, writeRing_keeps, updTick_keeps, apply_ite fixed, ite_self]
  · simp only [State.writeTokens, updReq_keeps, writeRing_keeps, updTick_keeps, apply_ite State.adMem, ite_self]

theorem holdReq_keeps (s : State) (x : Stop) (slot : Nat) (rows : List Nat) (record noRoom dseq : Bool) :
    fixed (s.holdReq x slot rows record noRoom dseq) = fixed s
      ∧ (s.holdReq x slot rows record noRoom dseq).adMem = s.adMem := by
  unfold State.holdReq
  split
  · exact ⟨rfl, rfl⟩
  · have h (c : Bool) (u : State) : fixed (if c = true then u.count .ringFull 1 else u) = fixed u
        ∧ (if c = true then u.count .ringFull 1 else u).adMem = u.adMem := by
      split
      · exact count_keeps _ _ _
      · exact ⟨rfl, rfl⟩
    dsimp only
    split
    · exact ⟨by simp only [fixed_mk, updTick_keeps, h, updStop_keeps, setReq_keeps],
        by simp only [updTick_keeps, h, updStop_keeps, setReq_keeps]⟩
    · simp only [updTick_keeps, h, updStop_keeps, setReq_keeps, and_self]

theorem applyOut_keeps (s : State) (x : Stop) (q : Req) (rows : List Nat) (dseq : Bool) (o : HeadOut) :
    fixed (State.applyOut s x q rows dseq o) = fixed s ∧ (State.applyOut s x q rows dseq o).adMem = s.adMem := by
  constructor
  · simp only [State.applyOut, fixed_mk, count_keeps, setReq_keeps, updTick_keeps, writeTokens_keeps]
  · simp only [State.applyOut, count_keeps, setReq_keeps, updTick_keeps, writeTokens_keeps]

theorem decideReq_keeps (s : State) (x : Stop) (h : Nat × List Nat) :
    fixed (State.decideReq s x h) = fixed s ∧ (State.decideReq s x h).adMem = s.adMem := by
  constructor
  · unfold State.decideReq
    repeat' first
      | with_reducible rfl
      | simp only [errIf_keeps, holdReq_keeps, applyOut_keeps, apply_ite fixed, ite_self]
      | split
  · unfold State.decideReq
    repeat' first
      | with_reducible rfl
      | simp only [errIf_keeps, holdReq_keeps, applyOut_keeps, apply_ite State.adMem, ite_self]
      | split

theorem emitResults_keeps (s : State) (stop : Nat) :
    fixed (State.emitResults s stop) = fixed s ∧ (State.emitResults s stop).adMem = s.adMem := by
  constructor
  · simp only [State.emitResults, fixed_mk, send_keeps]
  · simp only [State.emitResults, send_keeps]

theorem finishHead_keeps (s : State) :
    fixed (State.finishHead s) = fixed s ∧ (State.finishHead s).adMem = s.adMem := by
  constructor
  · unfold State.finishHead
    repeat' first
      | with_reducible rfl
      | simp only [endStop_keeps, emitResults_keeps, apply_ite fixed, ite_self]
      | split
  · unfold State.finishHead
    repeat' first
      | with_reducible rfl
      | simp only [endStop_keeps, emitResults_keeps, apply_ite State.adMem, ite_self]
      | split

theorem holdAll_keeps (s : State) (rows : List Nat) :
    fixed (State.holdAll s rows) = fixed s ∧ (State.holdAll s rows).adMem = s.adMem := by
  constructor
  · simp only [State.holdAll, updReq_keeps, updTick_keeps, foldl_fixed, implies_true]
  · simp only [State.holdAll, updReq_keeps, updTick_keeps, foldl_adMem, implies_true]

theorem endHeads_keeps (s : State) :
    fixed (State.endHeads s) = fixed s ∧ (State.endHeads s).adMem = s.adMem := by
  constructor
  · unfold State.endHeads
    repeat' first
      | with_reducible rfl
      | simp only [updStop_keeps, decideReq_keeps, finishHead_keeps, foldl_fixed, implies_true]
      | split
      | refine (foldl_fixed (fun _ _ => ?_) _ _).trans ?_
  · unfold State.endHeads
    repeat' first
      | with_reducible rfl
      | simp only [updStop_keeps, decideReq_keeps, finishHead_keeps, foldl_adMem, implies_true]
      | split
      | refine (foldl_adMem (fun _ _ => ?_) _ _).trans ?_

theorem decideGroup_keeps (s : State) (group : Nat) :
    fixed (State.decideGroup s group) = fixed s ∧ (State.decideGroup s group).adMem = s.adMem := by
  constructor
  · unfold State.decideGroup
    repeat' first
      | with_reducible rfl
      | simp only [updStop_keeps, decideReq_keeps, finishHead_keeps, foldl_fixed, implies_true, apply_ite fixed,
        ite_self]
      | split
      | refine (foldl_fixed (fun _ _ => ?_) _ _).trans ?_
  · unfold State.decideGroup
    repeat' first
      | with_reducible rfl
      | simp only [updStop_keeps, decideReq_keeps, finishHead_keeps, foldl_adMem, implies_true, apply_ite State.adMem, ite_self]
      | split
      | refine (foldl_adMem (fun _ _ => ?_) _ _).trans ?_

theorem readHeaders_keeps (s : State) (hdrs : List (Nat × DescBytes)) :
    fixed (State.readHeaders s hdrs) = fixed s ∧ (State.readHeaders s hdrs).adMem = s.adMem := by
  constructor
  · unfold State.readHeaders
    repeat' first
      | with_reducible rfl
      | simp only [errIf_keeps, setReq_keeps, count_keeps, setErr_keeps, apply_ite fixed]
      | split
      | refine (foldl_fixed (fun _ _ => ?_) _ _).trans ?_
  · unfold State.readHeaders
    repeat' first
      | with_reducible rfl
      | simp only [errIf_keeps, setReq_keeps, count_keeps, setErr_keeps, apply_ite State.adMem]
      | split
      | refine (foldl_adMem (fun _ _ => ?_) _ _).trans ?_

/-! Machine/Gather.lean. -/

theorem takeTokens_keeps (s : State) (x : Stop) :
    fixed (State.takeTokens s x) = fixed s ∧ (State.takeTokens s x).adMem = s.adMem := by
  constructor
  · simp only [State.takeTokens, updLine_keeps]
  · simp only [State.takeTokens, updLine_keeps]

theorem gatherStop_keeps (s : State) (stop : Nat) :
    fixed (State.gatherStop s stop) = fixed s ∧ (State.gatherStop s stop).adMem = s.adMem := by
  constructor
  · unfold State.gatherStop
    repeat' first
      | with_reducible rfl
      | simp only [fixed_mk, count_keeps, histAdd_keeps, errIf_keeps, updTick_keeps, updStop_keeps, takeTokens_keeps,
        foldl_fixed, implies_true, apply_ite fixed, ite_self]
      | split
      | refine (foldl_fixed (fun _ _ => ?_) _ _).trans ?_
  · unfold State.gatherStop
    repeat' first
      | with_reducible rfl
      | simp only [count_keeps, histAdd_keeps, errIf_keeps, updTick_keeps, updStop_keeps, takeTokens_keeps, foldl_adMem,
        implies_true, apply_ite State.adMem, ite_self]
      | split
      | refine (foldl_adMem (fun _ _ => ?_) _ _).trans ?_

theorem emitEmbed_keeps (s : State) (ports : Nat) (x : Stop) (row : Nat) :
    fixed (State.emitEmbed s ports x row) = fixed s ∧ (State.emitEmbed s ports x row).adMem = s.adMem := by
  constructor
  · simp only [State.emitEmbed, updStop_keeps, emitRow_keeps, apply_ite fixed, ite_self]
  · simp only [State.emitEmbed, updStop_keeps, emitRow_keeps, apply_ite State.adMem, ite_self]

theorem publishGather_keeps (s : State) :
    fixed (State.publishGather s) = fixed s ∧ (State.publishGather s).adMem = s.adMem := by
  constructor
  · simp only [State.publishGather, fixed_mk, apply_ite fixed, ite_self]
  · simp only [State.publishGather, apply_ite State.adMem, ite_self]

/-! Machine/Space.lean. -/

theorem dropRuns_keeps (s : State) (slot : Nat) (b : Bool) :
    fixed (State.dropRuns s slot b) = fixed s ∧ (State.dropRuns s slot b).adMem = s.adMem := by
  constructor
  · simp only [State.dropRuns, fixed_mk]
  · simp only [State.dropRuns]

theorem clearRegion_fixed (s : State) (slot : Nat) (b : Bool) :
    fixed (State.clearRegion s slot b) = fixed s := by
  simp only [State.clearRegion, fixed_mk, dropRuns_keeps]

theorem clearRegion_mem (s : State) (slot : Nat) (b : Bool) (hm : Memory.wf s.adMem) :
    Memory.wf (State.clearRegion s slot b).adMem := by
  unfold State.clearRegion
  repeat' first
    | assumption
    | refine memClear_wf ?_ _ _
    | simp only [dropRuns_keeps]
    | split
    | dsimp only

theorem acceptCopy_fixed (s : State) (d : Dir) (g : List Byte) (tier : Nat) :
    fixed (State.acceptCopy s d g tier) = fixed s := by
  simp only [State.acceptCopy, fixed_mk, setDir_keeps]

theorem acceptCopy_mem (s : State) (d : Dir) (g : List Byte) (tier : Nat) (hm : Memory.wf s.adMem) :
    Memory.wf (State.acceptCopy s d g tier).adMem := by
  unfold State.acceptCopy
  repeat' first
    | assumption
    | refine memPutAll_wf ?_ _ _
    | simp only [setDir_keeps]
    | split
    | dsimp only

theorem dropBuild_keeps (s : State) (d : Dir) :
    fixed (State.dropBuild s d) = fixed s ∧ (State.dropBuild s d).adMem = s.adMem := by
  constructor
  · simp only [State.dropBuild, fixed_mk, setDir_keeps, freeDir_keeps, apply_ite fixed, ite_self]
  · simp only [State.dropBuild, setDir_keeps, freeDir_keeps, apply_ite State.adMem, ite_self]

theorem failBuild_keeps (s : State) (slot : Nat) (a : Answer) :
    fixed (State.failBuild s slot a) = fixed s ∧ (State.failBuild s slot a).adMem = s.adMem := by
  constructor
  · unfold State.failBuild
    repeat' first
      | with_reducible rfl
      | simp only [finish_keeps, dropBuild_keeps]
      | split
  · unfold State.failBuild
    repeat' first
      | with_reducible rfl
      | simp only [finish_keeps, dropBuild_keeps]
      | split

theorem placeRegion_keeps {s t : State} {slot : Nat} {b : Bool} (h : s.placeRegion slot b = some t) :
    fixed t = fixed s ∧ t.adMem = s.adMem := by
  simp only [State.placeRegion] at h
  split at h
  · cases h; exact ⟨rfl, rfl⟩
  · obtain ⟨ls, -, rfl⟩ := Option.map_eq_some_iff.1 h
    exact ⟨rfl, rfl⟩

theorem finishBuild_keeps (s : State) (slot : Nat) :
    fixed (s.finishBuild slot) = fixed s ∧ (s.finishBuild slot).adMem = s.adMem := by
  unfold State.finishBuild
  split
  · split
    · exact ⟨rfl, rfl⟩
    · split
      · exact ⟨rfl, rfl⟩
      · rename_i h
        simpa only [finish_keeps, setDir_keeps] using placeRegion_keeps h
  · exact ⟨rfl, rfl⟩

theorem finishBuilds_keeps (s : State) :
    fixed (State.finishBuilds s) = fixed s ∧ (State.finishBuilds s).adMem = s.adMem := by
  constructor
  · simp only [State.finishBuilds, finishBuild_keeps, foldl_fixed, implies_true, apply_ite fixed, ite_self]
  · simp only [State.finishBuilds, finishBuild_keeps, foldl_adMem, implies_true, apply_ite State.adMem, ite_self]

theorem completeBuild_fixed (s : State) (slot : Nat) (g : List Byte) :
    fixed (State.completeBuild s slot g) = fixed s := by
  unfold State.completeBuild
  repeat' first
    | with_reducible rfl
    | simp only [fixed_mk, acceptCopy_fixed, failBuild_keeps, finishBuild_keeps, apply_ite fixed]
    | split

theorem completeBuild_mem (s : State) (slot : Nat) (g : List Byte) (hm : Memory.wf s.adMem) :
    Memory.wf (State.completeBuild s slot g).adMem := by
  unfold State.completeBuild
  repeat' first
    | assumption
    | with_reducible apply acceptCopy_mem
    | simp only [failBuild_keeps, finishBuild_keeps]
    | split
    | dsimp only

theorem startBuild_keeps (s : State) (d : Dir) (tk : Taken) :
    fixed (State.startBuild s d tk) = fixed s ∧ (State.startBuild s d tk).adMem = s.adMem := by
  constructor
  · simp only [State.startBuild, addRead_keeps, park_keeps, setDir_keeps, apply_ite fixed, ite_self]
  · simp only [State.startBuild, addRead_keeps, park_keeps, setDir_keeps, apply_ite State.adMem, ite_self]

theorem resumeBuild_keeps (s : State) (slot : Nat) :
    fixed (State.resumeBuild s slot) = fixed s ∧ (State.resumeBuild s slot).adMem = s.adMem := by
  constructor
  · unfold State.resumeBuild
    repeat' first
      | with_reducible rfl
      | simp only [addRead_keeps, apply_ite fixed, ite_self]
      | split
  · unfold State.resumeBuild
    repeat' first
      | with_reducible rfl
      | simp only [addRead_keeps, apply_ite State.adMem, ite_self]
      | split

theorem loadReq_keeps (s : State) (tk : Taken) :
    fixed (State.loadReq s tk) = fixed s ∧ (State.loadReq s tk).adMem = s.adMem := by
  constructor
  · simp only [State.loadReq, answer_keeps, startBuild_keeps, apply_ite fixed, ite_self]
  · simp only [State.loadReq, answer_keeps, startBuild_keeps, apply_ite State.adMem, ite_self]

theorem releaseCopy_keeps (s : State) (slot : Nat) (c : Copy) :
    fixed (State.releaseCopy s slot c) = fixed s ∧ (State.releaseCopy s slot c).adMem = s.adMem := by
  constructor
  · simp only [State.releaseCopy, release_keeps]
  · simp only [State.releaseCopy, release_keeps]

theorem stageReq_fixed (s : State) (tk : Taken) :
    fixed (State.stageReq s tk) = fixed s := by
  unfold State.stageReq
  repeat' first
    | with_reducible rfl
    | simp only [answer_keeps, clearRegion_fixed, startBuild_keeps, releaseCopy_keeps, apply_ite fixed]
    | split

theorem stageReq_mem (s : State) (tk : Taken) (hm : Memory.wf s.adMem) :
    Memory.wf (State.stageReq s tk).adMem := by
  unfold State.stageReq
  repeat' first
    | assumption
    | with_reducible apply clearRegion_mem
    | simp only [answer_keeps, startBuild_keeps, releaseCopy_keeps]
    | split
    | dsimp only

theorem updRows_keeps (s : State) (slot : Nat) (f : Nat → TRow → TRow) :
    fixed (State.updRows s slot f) = fixed s ∧ (State.updRows s slot f).adMem = s.adMem := by
  constructor
  · unfold State.updRows
    repeat' first
      | with_reducible rfl
      | simp only [setDir_keeps]
      | split
  · unfold State.updRows
    repeat' first
      | with_reducible rfl
      | simp only [setDir_keeps]
      | split

theorem syncPending_keeps (s : State) (slot : Nat) :
    fixed (State.syncPending s slot) = fixed s ∧ (State.syncPending s slot).adMem = s.adMem := by
  constructor
  · simp only [State.syncPending, updRows_keeps]
  · simp only [State.syncPending, updRows_keeps]

theorem endRows_keeps (s : State) (slot : Nat) (a : Answer) :
    fixed (State.endRows s slot a) = fixed s ∧ (State.endRows s slot a).adMem = s.adMem := by
  constructor
  · simp only [State.endRows, fixed_mk, finishRows_keeps, syncPending_keeps, foldl_fixed, implies_true, apply_ite fixed,
      ite_self]
  · simp only [State.endRows, finishRows_keeps, syncPending_keeps, foldl_adMem, implies_true, apply_ite State.adMem, ite_self]

theorem clearState_fixed (s : State) (slot : Nat) :
    fixed (State.clearState s slot) = fixed s := by
  simp only [State.clearState, fixed_mk]

theorem clearState_mem (s : State) (slot : Nat) (hm : Memory.wf s.adMem) :
    Memory.wf (State.clearState s slot).adMem := by
  unfold State.clearState
  repeat' first
    | assumption
    | refine memClear_wf ?_ _ _
    | split
    | dsimp only

theorem leaveService_fixed (s : State) (d : Dir) (c : Copy) (n : Nat) :
    fixed (State.leaveService s d c n) = fixed s := by
  simp only [State.leaveService, fixed_mk, releaseAt_keeps, endRows_keeps, clearState_fixed]

theorem leaveService_mem (s : State) (d : Dir) (c : Copy) (n : Nat) (hm : Memory.wf s.adMem) :
    Memory.wf (State.leaveService s d c n).adMem := by
  unfold State.leaveService
  repeat' first
    | assumption
    | with_reducible apply clearState_mem
    | simp only [releaseAt_keeps, endRows_keeps]
    | split
    | dsimp only

theorem commitReq_fixed (s : State) (tk : Taken) :
    fixed (State.commitReq s tk) = fixed s := by
  unfold State.commitReq
  repeat' first
    | with_reducible rfl
    | simp only [answer_keeps, park_keeps, finishWhere_keeps, setDir_keeps, leaveService_fixed, apply_ite fixed]
    | split

theorem commitReq_mem (s : State) (tk : Taken) (hm : Memory.wf s.adMem) :
    Memory.wf (State.commitReq s tk).adMem := by
  unfold State.commitReq
  repeat' first
    | assumption
    | with_reducible apply leaveService_mem
    | simp only [answer_keeps, park_keeps, finishWhere_keeps, setDir_keeps]
    | split
    | dsimp only

theorem retireReq_fixed (s : State) (tk : Taken) :
    fixed (State.retireReq s tk) = fixed s := by
  unfold State.retireReq
  repeat' first
    | with_reducible rfl
    | simp only [finish_keeps, answer_keeps, park_keeps, finishWhere_keeps, setDir_keeps, clearRegion_fixed,
      dropBuild_keeps, releaseCopy_keeps, leaveService_fixed, apply_ite fixed]
    | split

theorem retireReq_mem (s : State) (tk : Taken) (hm : Memory.wf s.adMem) :
    Memory.wf (State.retireReq s tk).adMem := by
  unfold State.retireReq
  repeat' first
    | assumption
    | with_reducible apply clearRegion_mem
    | with_reducible apply leaveService_mem
    | simp only [finish_keeps, answer_keeps, park_keeps, finishWhere_keeps, setDir_keeps, dropBuild_keeps, releaseCopy_keeps]
    | split
    | dsimp only

theorem quotaReq_keeps (s : State) (tk : Taken) :
    fixed (State.quotaReq s tk) = fixed s ∧ (State.quotaReq s tk).adMem = s.adMem := by
  constructor
  · simp only [State.quotaReq, answer_keeps, setTenant_keeps]
  · simp only [State.quotaReq, answer_keeps, setTenant_keeps]

theorem dropPriors_fixed (s : State) (past : Nat → Bool) :
    fixed (State.dropPriors s past) = fixed s := by
  simp only [State.dropPriors, fixed_mk, apply_ite fixed, ite_self]

theorem dropPriors_mem (s : State) (past : Nat → Bool) (hm : Memory.wf s.adMem) :
    Memory.wf (State.dropPriors s past).adMem := by
  unfold State.dropPriors
  repeat' first
    | assumption
    | refine memClear_wf ?_ _ _
    | split
    | refine foldl_mem (fun _ _ _ => ?_) _ ?_
    | refine foldl_wf (fun _ _ _ => ?_) _ ?_
    | dsimp only

theorem commitsDue_fixed (s : State) (n : Nat) :
    fixed (State.commitsDue s n) = fixed s := by
  unfold State.commitsDue
  repeat' first
    | with_reducible rfl
    | simp only [fixed_mk, finish_keeps, dropPriors_fixed]
    | split
    | refine (foldl_fixed (fun _ _ => ?_) _ _).trans ?_

theorem commitsDue_mem (s : State) (n : Nat) (hm : Memory.wf s.adMem) :
    Memory.wf (State.commitsDue s n).adMem := by
  unfold State.commitsDue
  repeat' first
    | assumption
    | with_reducible apply dropPriors_mem
    | simp only [finish_keeps]
    | split
    | refine foldl_mem (fun _ _ _ => ?_) _ ?_
    | refine foldl_wf (fun _ _ _ => ?_) _ ?_
    | dsimp only

theorem freeRegions_fixed (s : State) (slot : Nat) : fixed (s.freeRegions slot) = fixed s := by
  unfold State.freeRegions
  split
  · rfl
  · simp only [apply_ite fixed, finishBuilds_keeps, finishWhere_keeps, freeDir_keeps, resumeBuild_keeps, clearRegion_fixed,
      setDir_keeps, ite_self]

theorem freeRegions_mem (s : State) (slot : Nat) (hm : Memory.wf s.adMem) : Memory.wf (s.freeRegions slot).adMem := by
  unfold State.freeRegions
  split
  · exact hm
  · split
    · exact hm
    · split
      · split
        · exact hm
        · simp only [finishBuilds_keeps, finishWhere_keeps, freeDir_keeps]
          exact clearRegion_mem _ _ _ (clearRegion_mem _ _ _ hm)
      · split
        · split
          · exact hm
          · simp only [finishBuilds_keeps, resumeBuild_keeps]
            exact clearRegion_mem _ _ _ (by simpa only [setDir_keeps] using hm)
        · exact hm

/-! Machine/Tables.lean. -/

theorem poisonObject_keeps (s : State) (slot : Nat) :
    fixed (State.poisonObject s slot) = fixed s ∧ (State.poisonObject s slot).adMem = s.adMem := by
  constructor
  · unfold State.poisonObject
    repeat' first
      | with_reducible rfl
      | simp only [poison_keeps, endRows_keeps, apply_ite fixed, ite_self]
      | split
  · unfold State.poisonObject
    repeat' first
      | with_reducible rfl
      | simp only [poison_keeps, endRows_keeps, apply_ite State.adMem, ite_self]
      | split

theorem startRows_keeps (s : State) :
    fixed (State.startRows s) = fixed s ∧ (State.startRows s).adMem = s.adMem := by
  constructor
  · unfold State.startRows
    repeat' first
      | with_reducible rfl
      | simp only [fixed_mk, addRead_keeps]
      | split
      | refine (foldl_fixed (fun _ _ => ?_) _ _).trans ?_
  · unfold State.startRows
    repeat' first
      | with_reducible rfl
      | simp only [addRead_keeps]
      | split
      | refine (foldl_adMem (fun _ _ => ?_) _ _).trans ?_

theorem rowUpdate_keeps (s : State) (tk : Taken) :
    fixed (State.rowUpdate s tk) = fixed s ∧ (State.rowUpdate s tk).adMem = s.adMem := by
  constructor
  · unfold State.rowUpdate
    repeat' first
      | with_reducible rfl
      | simp only [fixed_mk, answer_keeps, park_keeps, syncPending_keeps, startRows_keeps,
        apply_ite fixed, ite_self]
      | split
  · unfold State.rowUpdate
    repeat' first
      | with_reducible rfl
      | simp only [answer_keeps, park_keeps, syncPending_keeps, startRows_keeps, apply_ite State.adMem,
        ite_self]
      | split

theorem dropUps_keeps (s : State) (tk : Taken) (slot : Nat) :
    fixed (State.dropUps s tk slot) = fixed s ∧ (State.dropUps s tk slot).adMem = s.adMem := by
  constructor
  · simp only [State.dropUps, fixed_mk, syncPending_keeps, startRows_keeps]
  · simp only [State.dropUps, syncPending_keeps, startRows_keeps]

theorem flipDesc_keeps (s : State) (tk : Taken) (late busy : Bool) :
    fixed (State.flipDesc s tk late busy) = fixed s ∧ (State.flipDesc s tk late busy).adMem = s.adMem := by
  constructor
  · unfold State.flipDesc
    repeat' first
      | with_reducible rfl
      | simp only [fixed_mk, count_keeps, finishRows_keeps, updRows_keeps, dropUps_keeps, apply_ite fixed, ite_self]
      | split
  · unfold State.flipDesc
    repeat' first
      | with_reducible rfl
      | simp only [count_keeps, finishRows_keeps, updRows_keeps, dropUps_keeps, apply_ite State.adMem, ite_self]
      | split

theorem flipsDue_keeps (s : State) (n : Nat) :
    fixed (State.flipsDue s n) = fixed s ∧ (State.flipsDue s n).adMem = s.adMem := by
  constructor
  · unfold State.flipsDue
    repeat' first
      | with_reducible rfl
      | simp only [flipDesc_keeps, apply_ite fixed, ite_self]
      | split
      | refine (foldl_fixed (fun _ _ => ?_) _ _).trans ?_
  · unfold State.flipsDue
    repeat' first
      | with_reducible rfl
      | simp only [flipDesc_keeps, apply_ite State.adMem, ite_self]
      | split
      | refine (foldl_adMem (fun _ _ => ?_) _ _).trans ?_

theorem flipsIdle_keeps (s : State) :
    fixed (State.flipsIdle s) = fixed s ∧ (State.flipsIdle s).adMem = s.adMem := by
  constructor
  · unfold State.flipsIdle
    repeat' first
      | with_reducible rfl
      | simp only [flipDesc_keeps, apply_ite fixed, ite_self]
      | split
      | refine (foldl_fixed (fun _ _ => ?_) _ _).trans ?_
  · unfold State.flipsIdle
    repeat' first
      | with_reducible rfl
      | simp only [flipDesc_keeps, apply_ite State.adMem, ite_self]
      | split
      | refine (foldl_adMem (fun _ _ => ?_) _ _).trans ?_

theorem rowsWritten_keeps (s : State) (ring num : Nat) (records : List Byte) :
    fixed (State.rowsWritten s ring num records) = fixed s ∧ (State.rowsWritten s ring num records).adMem = s.adMem := by
  constructor
  · unfold State.rowsWritten
    repeat' first
      | with_reducible rfl
      | simp only [fixed_mk, finishRows_keeps, updRows_keeps, dropUps_keeps, flipsIdle_keeps, apply_ite fixed,
        ite_self]
      | split
  · unfold State.rowsWritten
    repeat' first
      | with_reducible rfl
      | simp only [finishRows_keeps, updRows_keeps, dropUps_keeps, flipsIdle_keeps, apply_ite State.adMem,
        ite_self]
      | split

theorem selectCache_keeps (s : State) :
    fixed (State.selectCache s) = fixed s ∧ (State.selectCache s).adMem = s.adMem := by
  constructor
  · simp only [State.selectCache, fixed_mk]
  · simp only [State.selectCache]

theorem cacheFilled_keeps (s : State) (slot row : Nat) :
    fixed (State.cacheFilled s slot row) = fixed s ∧ (State.cacheFilled s slot row).adMem = s.adMem := by
  constructor
  · unfold State.cacheFilled
    repeat' first
      | with_reducible rfl
      | simp only [fixed_mk]
      | split
  · unfold State.cacheFilled
    repeat' first
      | with_reducible rfl
      | simp only []
      | split

/-! Machine/Adapt.lean. -/

theorem setOpt_fixed (s : State) (d : Dir) (c : Copy) (o : OptSt) :
    fixed (State.setOpt s d c o) = fixed s := by
  simp only [State.setOpt, fixed_mk, setDir_keeps]

theorem setOpt_mem (s : State) (d : Dir) (c : Copy) (o : OptSt) (hm : Memory.wf s.adMem) :
    Memory.wf (State.setOpt s d c o).adMem := by
  unfold State.setOpt
  repeat' first
    | assumption
    | refine memPutAll_wf ?_ _ _
    | simp only [setDir_keeps]
    | split
    | dsimp only

theorem releaseState_keeps (s : State) (slot copy : Nat) :
    fixed (State.releaseState s slot copy) = fixed s ∧ (State.releaseState s slot copy).adMem = s.adMem := by
  constructor
  · simp only [State.releaseState, release_keeps]
  · simp only [State.releaseState, release_keeps]

theorem createState_keeps (s : State) (tk : Taken) (d : Dir) (c : Copy) (o : OptSt) :
    fixed (State.createState s tk d c o) = fixed s ∧ (State.createState s tk d c o).adMem = s.adMem := by
  constructor
  · simp only [State.createState, fixed_mk, answer_keeps, park_keeps, finishWhere_keeps, setDir_keeps, releaseState_keeps,
      apply_ite fixed, ite_self]
  · simp only [State.createState, answer_keeps, park_keeps, finishWhere_keeps, setDir_keeps, releaseState_keeps,
      apply_ite State.adMem, ite_self]

theorem adaptReq_fixed (s : State) (tk : Taken) : fixed (s.adaptReq tk) = fixed s := by
  unfold State.adaptReq
  dsimp only
  split
  · exact (answer_keeps _ _ _).1
  · split
    · exact (answer_keeps _ _ _).1
    · split
      · split <;> simp only [answer_keeps, park_keeps, setDir_keeps, finishWhere_keeps, releaseState_keeps]
      · split <;> simp only [apply_ite fixed, answer_keeps, setOpt_fixed, createState_keeps, ite_self]

theorem adaptReq_mem (s : State) (tk : Taken) (hm : Memory.wf s.adMem) : Memory.wf (s.adaptReq tk).adMem := by
  unfold State.adaptReq
  dsimp only
  split
  · simpa only [answer_keeps] using hm
  · split
    · simpa only [answer_keeps] using hm
    · split
      · split
        · simpa only [answer_keeps] using hm
        · simpa only [park_keeps, setDir_keeps, finishWhere_keeps, releaseState_keeps] using hm
      · split
        · split
          · simp only [answer_keeps]
            exact setOpt_mem _ _ _ _ hm
          · simpa only [createState_keeps] using hm
        · simpa only [createState_keeps] using hm

theorem adaptRequest_keeps (s : State) (tk : Taken) :
    fixed (State.adaptRequest s tk) = fixed s ∧ (State.adaptRequest s tk).adMem = s.adMem := by
  constructor
  · unfold State.adaptRequest
    repeat' first
      | with_reducible rfl
      | simp only [answer_keeps, setReq_keeps]
      | split
  · unfold State.adaptRequest
    repeat' first
      | with_reducible rfl
      | simp only [answer_keeps, setReq_keeps]
      | split

theorem installState_fixed (s : State) (slot : Nat) :
    fixed (State.installState s slot) = fixed s := by
  unfold State.installState
  repeat' first
    | with_reducible rfl
    | simp only [finish_keeps, setOpt_fixed, apply_ite fixed]
    | split
    | refine (foldl_fixed (fun _ _ => ?_) _ _).trans ?_

theorem installState_mem (s : State) (slot : Nat) (hm : Memory.wf s.adMem) :
    Memory.wf (State.installState s slot).adMem := by
  unfold State.installState
  repeat' first
    | assumption
    | with_reducible apply setOpt_mem
    | simp only [finish_keeps]
    | split
    | refine foldl_mem (fun _ _ _ => ?_) _ ?_
    | refine foldl_wf (fun _ _ _ => ?_) _ ?_
    | dsimp only

theorem stateReady_fixed (s : State) (slot : Nat) :
    fixed (State.stateReady s slot) = fixed s := by
  unfold State.stateReady
  repeat' first
    | with_reducible rfl
    | simp only [finishWhere_keeps, setDir_keeps, clearState_fixed, installState_fixed, apply_ite fixed, ite_self]
    | split

theorem stateReady_mem (s : State) (slot : Nat) (hm : Memory.wf s.adMem) :
    Memory.wf (State.stateReady s slot).adMem := by
  unfold State.stateReady
  repeat' first
    | assumption
    | with_reducible apply clearState_mem
    | with_reducible apply installState_mem
    | simp only [finishWhere_keeps, setDir_keeps]
    | split
    | dsimp only

theorem countStep_fixed (s : State) (h : Header) (stop : Nat) (g : Seg) :
    fixed (State.countStep s h stop g) = fixed s := by
  unfold State.countStep
  repeat' first
    | with_reducible rfl
    | simp only [setOpt_fixed, apply_ite fixed, ite_self]
    | split

theorem countStep_mem (s : State) (h : Header) (stop : Nat) (g : Seg) (hm : Memory.wf s.adMem) :
    Memory.wf (State.countStep s h stop g).adMem := by
  unfold State.countStep
  repeat' first
    | assumption
    | with_reducible apply setOpt_mem
    | split
    | dsimp only

theorem countSteps_fixed (s : State) (h : Header) (plan : List StopPlan) :
    fixed (State.countSteps s h plan) = fixed s := by
  simp only [State.countSteps, countStep_fixed, foldl_fixed, implies_true, apply_ite fixed, ite_self]

theorem countSteps_mem (s : State) (h : Header) (plan : List StopPlan) (hm : Memory.wf s.adMem) :
    Memory.wf (State.countSteps s h plan).adMem := by
  unfold State.countSteps
  repeat' first
    | assumption
    | with_reducible apply countStep_mem
    | split
    | refine foldl_mem (fun _ _ _ => ?_) _ ?_
    | refine foldl_wf (fun _ _ _ => ?_) _ ?_
    | dsimp only

theorem keepTier_keeps (s : State) (tick a n : Nat) :
    fixed (State.keepTier s tick a n) = fixed s ∧ (State.keepTier s tick a n).adMem = s.adMem := by
  constructor
  · simp only [State.keepTier, fixed_mk, apply_ite fixed, ite_self]
  · simp only [State.keepTier, apply_ite State.adMem, ite_self]

theorem putWagon_fixed (d : Dir) (c : Copy) (k : StepPlan) (p : Part) (s : State) (x : SteppedWagon) :
    fixed (State.putWagon d c k p s x) = fixed s := by
  simp only [State.putWagon, fixed_mk, keepTier_keeps]

theorem putWagon_mem (d : Dir) (c : Copy) (k : StepPlan) (p : Part) (s : State) (x : SteppedWagon) (hm : Memory.wf s.adMem) :
    Memory.wf (State.putWagon d c k p s x).adMem := by
  unfold State.putWagon
  repeat' first
    | assumption
    | refine memPutAll_wf ?_ _ _
    | simp only [keepTier_keeps]
    | split
    | dsimp only

theorem abandonStep_keeps (s : State) :
    fixed (State.abandonStep s) = fixed s ∧ (State.abandonStep s).adMem = s.adMem := by
  constructor
  · simp only [State.abandonStep, count_keeps, updTick_keeps]
  · simp only [State.abandonStep, count_keeps, updTick_keeps]

theorem optStep_fixed (x : Stop) (s : State) (g : Seg) : fixed (State.optStep x s g) = fixed s := by
  unfold State.optStep
  split
  · split
    · split
      · rfl
      · simp only [apply_ite fixed, abandonStep_keeps, updTick_keeps, count_keeps, fixed_mk,
          foldl_fixed (putWagon_fixed _ _ _ _), ite_self]
    · rfl
  · rfl

theorem optStep_mem (x : Stop) (s : State) (g : Seg) (hm : Memory.wf s.adMem) : Memory.wf (State.optStep x s g).adMem := by
  unfold State.optStep
  split
  · split
    · split
      · exact hm
      · split
        · exact hm
        · split
          · simpa only [abandonStep_keeps] using hm
          · dsimp only
            split
            · simpa only [updTick_keeps, count_keeps] using hm
            · simp only [updTick_keeps, count_keeps]
              exact foldl_mem (fun s w => putWagon_mem _ _ _ _ s w) _ hm
    · exact hm
  · exact hm

theorem optSteps_fixed (s : State) (x : Stop) :
    fixed (State.optSteps s x) = fixed s := by
  simp only [State.optSteps, optStep_fixed, foldl_fixed, implies_true, apply_ite fixed, ite_self]

theorem optSteps_mem (s : State) (x : Stop) (hm : Memory.wf s.adMem) :
    Memory.wf (State.optSteps s x).adMem := by
  unfold State.optSteps
  repeat' first
    | assumption
    | with_reducible apply optStep_mem
    | split
    | refine foldl_mem (fun _ _ _ => ?_) _ ?_
    | refine foldl_wf (fun _ _ _ => ?_) _ ?_
    | dsimp only

theorem abandonSteps_keeps (s : State) (p : StopPlan) :
    fixed (State.abandonSteps s p) = fixed s ∧ (State.abandonSteps s p).adMem = s.adMem := by
  constructor
  · unfold State.abandonSteps
    repeat' first
      | with_reducible rfl
      | simp only [abandonStep_keeps, apply_ite fixed, ite_self]
      | split
      | refine (foldl_fixed (fun _ _ => ?_) _ _).trans ?_
  · unfold State.abandonSteps
    repeat' first
      | with_reducible rfl
      | simp only [abandonStep_keeps, apply_ite State.adMem, ite_self]
      | split
      | refine (foldl_adMem (fun _ _ => ?_) _ _).trans ?_

theorem startWriteBack_keeps (s : State) (a : Nat) :
    fixed (State.startWriteBack s a) = fixed s ∧ (State.startWriteBack s a).adMem = s.adMem := by
  constructor
  · simp only [State.startWriteBack, fixed_mk, addWrite_keeps, apply_ite fixed, ite_self]
  · simp only [State.startWriteBack, addWrite_keeps, apply_ite State.adMem, ite_self]

theorem writeBackOf_keeps (s : State) (a : Nat) :
    fixed (State.writeBackOf s a) = fixed s ∧ (State.writeBackOf s a).adMem = s.adMem := by
  constructor
  · unfold State.writeBackOf
    repeat' first
      | with_reducible rfl
      | simp only [startWriteBack_keeps, apply_ite fixed]
      | split
  · unfold State.writeBackOf
    repeat' first
      | with_reducible rfl
      | simp only [startWriteBack_keeps, apply_ite State.adMem]
      | split

theorem writeBacks_keeps (s : State) :
    fixed (State.writeBacks s) = fixed s ∧ (State.writeBacks s).adMem = s.adMem := by
  constructor
  · simp only [State.writeBacks, writeBackOf_keeps, foldl_fixed, implies_true]
  · simp only [State.writeBacks, writeBackOf_keeps, foldl_adMem, implies_true]

/-! Machine/Convert.lean. -/

theorem convHeader_fixed (s : State) (base bodyOff target wagons : Nat) (parts : List Part) :
    fixed (State.convHeader s base bodyOff target wagons parts) = fixed s := by
  simp only [State.convHeader, fixed_mk]

theorem convHeader_mem (s : State) (base bodyOff target wagons : Nat) (parts : List Part) (hm : Memory.wf s.adMem) :
    Memory.wf (State.convHeader s base bodyOff target wagons parts).adMem := by
  unfold State.convHeader
  repeat' first
    | assumption
    | refine memPutAll_wf ?_ _ _
    | refine memPut_wf ?_ _ _
    | split
    | refine foldl_mem (fun _ _ _ => ?_) _ ?_
    | refine foldl_wf (fun _ _ _ => ?_) _ ?_
    | dsimp only

theorem keepFormer_fixed (s : State) (d : Dir) (c : Copy) :
    fixed (State.keepFormer s d c) = fixed s := by
  unfold State.keepFormer
  repeat' first
    | with_reducible rfl
    | simp only [fixed_mk]
    | split

theorem keepFormer_mem (s : State) (d : Dir) (c : Copy) (hm : Memory.wf s.adMem) :
    Memory.wf (State.keepFormer s d c).adMem := by
  unfold State.keepFormer
  repeat' first
    | assumption
    | refine memPutAll_wf ?_ _ _
    | split
    | dsimp only

theorem convertCopy_fixed (s : State) (d : Dir) (c : Copy) (target tier : Nat) :
    fixed (State.convertCopy s d c target tier) = fixed s := by
  simp only [State.convertCopy, fixed_mk, setDir_keeps, dropRuns_keeps, convHeader_fixed, keepFormer_fixed]

theorem convertCopy_mem (s : State) (d : Dir) (c : Copy) (target tier : Nat) (hm : Memory.wf s.adMem) :
    Memory.wf (State.convertCopy s d c target tier).adMem := by
  unfold State.convertCopy
  repeat' first
    | assumption
    | with_reducible apply convHeader_mem
    | with_reducible apply keepFormer_mem
    | refine memClear_wf ?_ _ _
    | refine memPutAll_wf ?_ _ _
    | simp only [setDir_keeps]
    | split
    | refine foldl_mem (fun _ _ _ => ?_) _ ?_
    | refine foldl_wf (fun _ _ _ => ?_) _ ?_
    | dsimp only

/-! Machine/Moves.lean. -/

theorem setMoving_keeps (s : State) (a : Nat) (dest : Option Word) :
    fixed (State.setMoving s a dest) = fixed s ∧ (State.setMoving s a dest).adMem = s.adMem := by
  constructor
  · simp only [State.setMoving, fixed_mk]
  · simp only [State.setMoving]

theorem startMove_keeps (s : State) (d : Dir) :
    fixed (State.startMove s d) = fixed s ∧ (State.startMove s d).adMem = s.adMem := by
  constructor
  · unfold State.startMove
    repeat' first
      | with_reducible rfl
      | simp only [fixed_mk, setDir_keeps, setMoving_keeps, apply_ite fixed]
      | split
  · unfold State.startMove
    repeat' first
      | with_reducible rfl
      | simp only [setDir_keeps, setMoving_keeps, apply_ite State.adMem]
      | split

theorem startMoves_keeps (s : State) :
    fixed (State.startMoves s) = fixed s ∧ (State.startMoves s).adMem = s.adMem := by
  constructor
  · simp only [State.startMoves, startMove_keeps, foldl_fixed, implies_true, apply_ite fixed, ite_self]
  · simp only [State.startMoves, startMove_keeps, foldl_adMem, implies_true, apply_ite State.adMem, ite_self]

theorem releaseDone_fixed (s : State) (slot : Nat) : fixed (s.releaseDone slot) = fixed s :=
  (startMoves_keeps _).1.trans (freeRegions_fixed s slot)

theorem releaseDone_mem (s : State) (slot : Nat) (hm : Memory.wf s.adMem) : Memory.wf (s.releaseDone slot).adMem := by
  simpa only [State.releaseDone, startMoves_keeps] using freeRegions_mem s slot hm

/-! Machine/Run.lean. -/

theorem updRun_keeps (s : State) (f : Run → Run) :
    fixed (State.updRun s f) = fixed s ∧ (State.updRun s f).adMem = s.adMem := by
  constructor
  · simp only [State.updRun, updTick_keeps]
  · simp only [State.updRun, updTick_keeps]

theorem emitRows_keeps (s : State) (stop n ports : Nat) :
    fixed (State.emitRows s stop n ports) = fixed s ∧ (State.emitRows s stop n ports).adMem = s.adMem := by
  constructor
  · unfold State.emitRows
    repeat' first
      | with_reducible rfl
      | simp only [updStop_keeps, emitRow_keeps, gatherStop_keeps, emitEmbed_keeps, foldl_fixed, implies_true,
        apply_ite fixed, ite_self]
      | split
      | refine (foldl_fixed (fun _ _ => ?_) _ _).trans ?_
  · unfold State.emitRows
    repeat' first
      | with_reducible rfl
      | simp only [updStop_keeps, emitRow_keeps, gatherStop_keeps, emitEmbed_keeps, foldl_adMem, implies_true,
        apply_ite State.adMem, ite_self]
      | split
      | refine (foldl_adMem (fun _ _ => ?_) _ _).trans ?_

theorem openStop_keeps (s : State) (stop : Nat) :
    fixed (State.openStop s stop) = fixed s ∧ (State.openStop s stop).adMem = s.adMem := by
  constructor
  · unfold State.openStop
    repeat' first
      | with_reducible rfl
      | simp only [setErr_keeps, updTick_keeps, apply_ite fixed, ite_self]
      | split
  · unfold State.openStop
    repeat' first
      | with_reducible rfl
      | simp only [setErr_keeps, updTick_keeps, apply_ite State.adMem, ite_self]
      | split

theorem cutStop_keeps (s : State) (x : Stop) :
    fixed (State.cutStop s x) = fixed s ∧ (State.cutStop s x).adMem = s.adMem := by
  constructor
  · simp only [State.cutStop, updTick_keeps, updStop_keeps, lateMask_keeps, endStop_keeps, takeTokens_keeps,
      apply_ite fixed, ite_self]
  · simp only [State.cutStop, updTick_keeps, updStop_keeps, lateMask_keeps, endStop_keeps, takeTokens_keeps,
      apply_ite State.adMem, ite_self]

theorem closeStop_keeps (s : State) (x : Stop) :
    fixed (State.closeStop s x) = fixed s ∧ (State.closeStop s x).adMem = s.adMem := by
  constructor
  · simp only [State.closeStop, errIf_keeps, updTick_keeps, updStop_keeps, pumpDone_keeps, endStop_keeps,
      finishHead_keeps, takeTokens_keeps, gatherStop_keeps, cutStop_keeps, apply_ite fixed, ite_self]
  · simp only [State.closeStop, errIf_keeps, updTick_keeps, updStop_keeps, pumpDone_keeps, endStop_keeps, finishHead_keeps,
      takeTokens_keeps, gatherStop_keeps, cutStop_keeps, apply_ite State.adMem, ite_self]

theorem openClosed_keeps (s : State) (stop : Nat) :
    fixed (State.openClosed s stop) = fixed s ∧ (State.openClosed s stop).adMem = s.adMem := by
  constructor
  · unfold State.openClosed
    repeat' first
      | with_reducible rfl
      | simp only [updTick_keeps, openStop_keeps, closeStop_keeps]
      | split
  · unfold State.openClosed
    repeat' first
      | with_reducible rfl
      | simp only [updTick_keeps, openStop_keeps, closeStop_keeps]
      | split

theorem openShut_keeps (s : State) (n : Nat) : fixed (s.openShut n) = fixed s ∧ (s.openShut n).adMem = s.adMem := by
  induction n generalizing s with
  | zero => exact ⟨rfl, rfl⟩
  | succ n ih =>
    unfold State.openShut
    split
    · exact ⟨rfl, rfl⟩
    · split
      · simp only [ih, openClosed_keeps, and_self]
      · exact ⟨rfl, rfl⟩

theorem ensureOpen_keeps (s : State) :
    fixed (State.ensureOpen s) = fixed s ∧ (State.ensureOpen s).adMem = s.adMem := by
  constructor
  · unfold State.ensureOpen
    repeat' first
      | with_reducible rfl
      | simp only [openStop_keeps, openShut_keeps, apply_ite fixed, ite_self]
      | split
  · unfold State.ensureOpen
    repeat' first
      | with_reducible rfl
      | simp only [openStop_keeps, openShut_keeps, apply_ite State.adMem, ite_self]
      | split

theorem admit_keeps (s : State) (c : ConsPlan) :
    fixed (State.admitGroup s c) = fixed s ∧ (State.admitGroup s c).adMem = s.adMem := by
  constructor
  · unfold State.admitGroup
    repeat' first
      | with_reducible rfl
      | simp only [updRun_keeps, apply_ite fixed, ite_self]
      | split
  · unfold State.admitGroup
    repeat' first
      | with_reducible rfl
      | simp only [updRun_keeps, apply_ite State.adMem, ite_self]
      | split

theorem passWait_keeps (s : State) (l : TLine) :
    fixed (State.passWait s l) = fixed s ∧ (State.passWait s l).adMem = s.adMem := by
  constructor
  · unfold State.passWait
    repeat' first
      | with_reducible rfl
      | simp only [fixed_mk, dropStale_keeps, updStop_keeps, updRun_keeps, admit_keeps]
      | split
  · unfold State.passWait
    repeat' first
      | with_reducible rfl
      | simp only [dropStale_keeps, updStop_keeps, updRun_keeps, admit_keeps]
      | split

theorem relieve_keeps (s : State) (l : TLine) :
    fixed (State.relieve s l) = fixed s ∧ (State.relieve s l).adMem = s.adMem := by
  constructor
  · unfold State.relieve
    repeat' first
      | with_reducible rfl
      | simp only [emitRows_keeps, apply_ite fixed]
      | split
  · unfold State.relieve
    repeat' first
      | with_reducible rfl
      | simp only [emitRows_keeps, apply_ite State.adMem]
      | split

theorem issueXch_keeps (s : State) (l : TLine) :
    fixed (State.issueXch s l) = fixed s ∧ (State.issueXch s l).adMem = s.adMem := by
  constructor
  · simp only [State.issueXch, sendCons_keeps, sendDigest_keeps, updRun_keeps, apply_ite fixed, ite_self]
  · simp only [State.issueXch, sendCons_keeps, sendDigest_keeps, updRun_keeps, apply_ite State.adMem, ite_self]

theorem issueAct_keeps (s : State) (l : TLine) (beats : Nat) :
    fixed (State.issueAct s l beats) = fixed s ∧ (State.issueAct s l beats).adMem = s.adMem := by
  constructor
  · unfold State.issueAct
    repeat' first
      | with_reducible rfl
      | simp only [lateMask_keeps, exitMaskOf_keeps, updRun_keeps, emitRows_keeps, apply_ite fixed, ite_self]
      | split
  · unfold State.issueAct
    repeat' first
      | with_reducible rfl
      | simp only [lateMask_keeps, exitMaskOf_keeps, updRun_keeps, emitRows_keeps, apply_ite State.adMem, ite_self]
      | split

theorem readWagon_keeps (s : State) (a : Nat) (at_ : Nat × Word × Nat) :
    fixed (State.readWagon s a at_) = fixed s ∧ (State.readWagon s a at_).adMem = s.adMem := by
  constructor
  · simp only [State.readWagon, addRead_keeps, apply_ite fixed, ite_self]
  · simp only [State.readWagon, addRead_keeps, apply_ite State.adMem, ite_self]

theorem takeFrame_keeps (s : State) (train group : Nat) (e : DWord) :
    fixed (State.takeFrame s train group e) = fixed s ∧ (State.takeFrame s train group e).adMem = s.adMem := by
  constructor
  · unfold State.takeFrame
    repeat' first
      | with_reducible rfl
      | simp only [fixed_mk, readWagon_keeps, apply_ite fixed, ite_self]
      | split
      | refine (foldl_fixed (fun _ _ => ?_) _ _).trans ?_
  · unfold State.takeFrame
    repeat' first
      | with_reducible rfl
      | simp only [readWagon_keeps, apply_ite State.adMem, ite_self]
      | split
      | refine (foldl_adMem (fun _ _ => ?_) _ _).trans ?_

theorem refetch_keeps (s : State) (train a : Nat) :
    fixed (State.refetch s train a) = fixed s ∧ (State.refetch s train a).adMem = s.adMem := by
  constructor
  · unfold State.refetch
    repeat' first
      | with_reducible rfl
      | simp only [fixed_mk, updRun_keeps, readWagon_keeps]
      | split
  · unfold State.refetch
    repeat' first
      | with_reducible rfl
      | simp only [updRun_keeps, readWagon_keeps]
      | split

theorem issueWriteBacks_keeps (s : State) (group : Nat) (as : List Nat) :
    fixed (State.issueWriteBacks s group as) = fixed s ∧ (State.issueWriteBacks s group as).adMem = s.adMem := by
  constructor
  · simp only [State.issueWriteBacks, fixed_mk, writeBackOf_keeps, updRun_keeps, foldl_fixed, implies_true, apply_ite fixed,
      ite_self]
  · simp only [State.issueWriteBacks, writeBackOf_keeps, updRun_keeps, foldl_adMem, implies_true, apply_ite State.adMem,
      ite_self]

theorem issueFetchSlot_keeps (s : State) (w beats : Nat) :
    fixed (State.issueFetchSlot s w beats) = fixed s ∧ (State.issueFetchSlot s w beats).adMem = s.adMem := by
  constructor
  · simp only [State.issueFetchSlot, updRun_keeps, takeFrame_keeps, issueWriteBacks_keeps, foldl_fixed, implies_true,
      apply_ite fixed, ite_self]
  · simp only [State.issueFetchSlot, updRun_keeps, takeFrame_keeps, issueWriteBacks_keeps, foldl_adMem, implies_true,
      apply_ite State.adMem, ite_self]

theorem issueFetch_keeps (s : State) (l : TLine) (beats : Nat) :
    fixed (State.issueFetch s l beats) = fixed s ∧ (State.issueFetch s l beats).adMem = s.adMem := by
  constructor
  · simp only [State.issueFetch, updRun_keeps, issueFetchSlot_keeps, foldl_fixed, implies_true]
  · simp only [State.issueFetch, updRun_keeps, issueFetchSlot_keeps, foldl_adMem, implies_true]

theorem issueTrains_keeps (s : State) (l : TLine) (beats : Nat) :
    fixed (State.issueTrains s l beats) = fixed s ∧ (State.issueTrains s l beats).adMem = s.adMem := by
  constructor
  · simp only [State.issueTrains, updRun_keeps]
  · simp only [State.issueTrains, updRun_keeps]

theorem issueLine_keeps (s : State) (l : TLine) :
    fixed (State.issueLine s l) = fixed s ∧ (State.issueLine s l).adMem = s.adMem := by
  constructor
  · simp only [State.issueLine, issueXch_keeps, issueAct_keeps, issueFetch_keeps, issueTrains_keeps]
  · simp only [State.issueLine, issueXch_keeps, issueAct_keeps, issueFetch_keeps, issueTrains_keeps]

theorem stopEnd_fixed (s : State) (stop : Nat) : ∀ t, s.stopEnd stop = some t → fixed t = fixed s := by
  intro t h
  unfold State.stopEnd at h
  split at h
  · cases h
    rfl
  · split at h
    · cases h
    · split at h
      · cases h
        rfl
      · split at h
        · cases h
        · split at h
          · dsimp only at h
            split at h
            · split at h
              · cases h
                exact (finishHead_keeps _).1
              · cases h
            · cases h
          · dsimp only at h
            split at h
            · cases h
            · split at h
              · cases h
                simp only [endStop_keeps, optSteps_fixed, emitRows_keeps]
              · cases h

theorem stopEnd_mem (s : State) (stop : Nat) (w : Memory.wf s.adMem) : ∀ t, s.stopEnd stop = some t → Memory.wf t.adMem := by
  intro t h
  unfold State.stopEnd at h
  split at h
  · cases h
    exact w
  · split at h
    · cases h
    · split at h
      · cases h
        exact w
      · split at h
        · cases h
        · split at h
          · dsimp only at h
            split at h
            · split at h
              · cases h
                simpa only [finishHead_keeps] using w
              · cases h
            · cases h
          · dsimp only at h
            split at h
            · cases h
            · split at h
              · cases h
                simp only [endStop_keeps]
                exact optSteps_mem _ _ (by simpa only [emitRows_keeps] using w)
              · cases h

theorem runLine_fixed (s : State) (l : TLine) (fetchDone credit : Bool) :
    ∀ t, s.runLine l fetchDone credit = some t → fixed t = fixed s := by
  intro t h
  unfold State.runLine at h
  split at h
  · cases h
  · split at h
    · cases h
      simp only [updRun_keeps, issueLine_keeps]
    · cases h
      simp only [updRun_keeps, issueLine_keeps]
    · split at h
      · cases h
        simp only [updRun_keeps, issueLine_keeps, passWait_keeps]
      · cases h
    · obtain ⟨u, hu, rfl⟩ := Option.map_eq_some_iff.1 h
      simp only [updRun_keeps, issueLine_keeps]
      exact stopEnd_fixed _ _ _ hu
    · cases h
      simp only [updRun_keeps, updStop_keeps, issueLine_keeps]
    · cases h
      simp only [updRun_keeps, issueLine_keeps]
    · cases h
      simp only [updRun_keeps, issueLine_keeps]

theorem runLine_mem (s : State) (l : TLine) (fetchDone credit : Bool) (w : Memory.wf s.adMem) :
    ∀ t, s.runLine l fetchDone credit = some t → Memory.wf t.adMem := by
  intro t h
  unfold State.runLine at h
  split at h
  · cases h
  · split at h
    · cases h
      simpa only [updRun_keeps, issueLine_keeps] using w
    · cases h
      simpa only [updRun_keeps, issueLine_keeps] using w
    · split at h
      · cases h
        simpa only [updRun_keeps, issueLine_keeps, passWait_keeps] using w
      · cases h
    · obtain ⟨u, hu, rfl⟩ := Option.map_eq_some_iff.1 h
      simp only [updRun_keeps, issueLine_keeps]
      exact stopEnd_mem _ _ w _ hu
    · cases h
      simpa only [updRun_keeps, updStop_keeps, issueLine_keeps] using w
    · cases h
      simpa only [updRun_keeps, issueLine_keeps] using w
    · cases h
      simpa only [updRun_keeps, issueLine_keeps] using w

theorem runLines_fixed (s : State) (fetchDone credit : Bool) (n : Nat) : fixed (s.runLines fetchDone credit n) = fixed s := by
  induction n generalizing s fetchDone credit with
  | zero => rfl
  | succ n ih =>
    unfold State.runLines
    split
    · rfl
    · split
      · rfl
      · split
        · exact (updRun_keeps _ _).1
        · split
          · exact (relieve_keeps _ _).1
          · rename_i h
            exact (ih _ _ _).trans ((runLine_fixed _ _ _ _ _ h).trans (relieve_keeps _ _).1)

theorem runLines_mem (s : State) (fetchDone credit : Bool) (n : Nat) (w : Memory.wf s.adMem) :
    Memory.wf (s.runLines fetchDone credit n).adMem := by
  induction n generalizing s fetchDone credit with
  | zero => exact w
  | succ n ih =>
    unfold State.runLines
    split
    · exact w
    · split
      · exact w
      · split
        · simpa only [updRun_keeps] using w
        · split
          · simpa only [relieve_keeps] using w
          · rename_i h
            exact ih _ _ _ (runLine_mem _ _ _ _ (by simpa only [relieve_keeps] using w) _ h)

theorem proceed_fixed (s : State) (fetchDone credit : Bool) :
    fixed (State.proceed s fetchDone credit) = fixed s := by
  simp only [State.proceed, ensureOpen_keeps, runLines_fixed]

theorem proceed_mem (s : State) (fetchDone credit : Bool) (hm : Memory.wf s.adMem) :
    Memory.wf (State.proceed s fetchDone credit).adMem := by
  unfold State.proceed
  repeat' first
    | assumption
    | with_reducible apply runLines_mem
    | simp only [ensureOpen_keeps]
    | split
    | dsimp only

/-! Machine/Tick.lean. -/

theorem retryReads_keeps (s : State) :
    fixed (State.retryReads s) = fixed s ∧ (State.retryReads s).adMem = s.adMem := by
  constructor
  · simp only [State.retryReads, sendRead_keeps, foldl_fixed, implies_true, apply_ite fixed, ite_self]
  · simp only [State.retryReads, sendRead_keeps, foldl_adMem, implies_true, apply_ite State.adMem, ite_self]

theorem takeDescs_keeps (s : State) (k n : Nat) (quiet : Bool) (left : Nat) (bs : List DescBytes) :
    fixed (s.takeDescs k n quiet left bs) = fixed s ∧ (s.takeDescs k n quiet left bs).adMem = s.adMem := by
  induction left generalizing s bs with
  | zero => exact ⟨rfl, rfl⟩
  | succ left ih =>
    cases bs with
    | nil => exact ⟨rfl, rfl⟩
    | cons b bs =>
      unfold State.takeDescs
      split
      · exact ⟨rfl, rfl⟩
      · split
        · simp only [count_keeps, setErr_keeps, and_self]
        · simp only [ih, setRing_keeps, fixed_mk, and_self]

theorem readRing_keeps (s : State) (k n : Nat) (quiet : Bool) (v : RingView) :
    fixed (State.readRing s k n quiet v) = fixed s ∧ (State.readRing s k n quiet v).adMem = s.adMem := by
  constructor
  · simp only [State.readRing, count_keeps, setErr_keeps, setRing_keeps, statusLine_keeps, unsolDrain_keeps,
      takeDescs_keeps, apply_ite fixed, ite_self]
  · simp only [State.readRing, count_keeps, setErr_keeps, setRing_keeps, statusLine_keeps, unsolDrain_keeps, takeDescs_keeps,
      apply_ite State.adMem, ite_self]

theorem doorbellRead_keeps (s : State) (quiet : Bool) (v : List RingView) :
    fixed (s.doorbellRead quiet v) = fixed s ∧ (s.doorbellRead quiet v).adMem = s.adMem := by
  unfold State.doorbellRead
  constructor
  · rw [(rejectUnknown_keeps _ _).1]
    refine (foldl_fixed (fun s k => ?_) _ _).trans (by simp only [retryReads_keeps, reissue_keeps, expireAll_keeps])
    split
    · exact (readRing_keeps ..).1
    · rfl
  · rw [(rejectUnknown_keeps _ _).2]
    refine (foldl_adMem (fun s k => ?_) _ _).trans (by simp only [retryReads_keeps, reissue_keeps, expireAll_keeps])
    split
    · exact (readRing_keeps ..).2
    · rfl

theorem lateLevel_keeps (s : State) :
    fixed (State.lateLevel s) = fixed s ∧ (State.lateLevel s).adMem = s.adMem := by
  constructor
  · simp only [State.lateLevel, updTick_keeps, apply_ite fixed, ite_self]
  · simp only [State.lateLevel, updTick_keeps, apply_ite State.adMem, ite_self]

theorem publish_keeps (s : State) :
    fixed (State.publish s) = fixed s ∧ (State.publish s).adMem = s.adMem := by
  constructor
  · simp only [State.publish, fixed_mk]
  · simp only [State.publish]

theorem enterIdle_fixed (s : State) :
    fixed (State.enterIdle s) = fixed s := by
  simp only [State.enterIdle, fixed_mk, updTick_keeps, dropPriors_fixed, flipsIdle_keeps, writeBacks_keeps,
    startMoves_keeps]

theorem enterIdle_mem (s : State) (hm : Memory.wf s.adMem) :
    Memory.wf (State.enterIdle s).adMem := by
  unfold State.enterIdle
  repeat' first
    | assumption
    | with_reducible apply dropPriors_mem
    | simp only [updTick_keeps, flipsIdle_keeps, writeBacks_keeps, startMoves_keeps]
    | split
    | dsimp only

theorem noResults_keeps (s : State) :
    fixed (State.noResults s) = fixed s ∧ (State.noResults s).adMem = s.adMem := by
  constructor
  · simp only [State.noResults, fixed_mk, apply_ite fixed, ite_self]
  · simp only [State.noResults, apply_ite State.adMem, ite_self]

theorem closeTick_keeps (s : State) :
    fixed (State.closeTick s) = fixed s ∧ (State.closeTick s).adMem = s.adMem := by
  constructor
  · simp only [State.closeTick, fixed_mk, resumeTraffic_keeps, histAdd_keeps, dropStale_keeps, updLine_keeps, updTick_keeps,
      countLate_keeps, fillPlans_keeps, publishGather_keeps, finishBuilds_keeps, startRows_keeps, publish_keeps,
      noResults_keeps, apply_ite fixed, ite_self]
  · simp only [State.closeTick, resumeTraffic_keeps, histAdd_keeps, dropStale_keeps, updLine_keeps, updTick_keeps,
      countLate_keeps, fillPlans_keeps, publishGather_keeps, finishBuilds_keeps, startRows_keeps, publish_keeps,
      noResults_keeps, apply_ite State.adMem, ite_self]

theorem finishWork_fixed (s : State) : fixed s.finishWork = fixed s := by
  simp only [State.finishWork, closeTick_keeps, enterIdle_fixed, apply_ite fixed, ite_self]

theorem finishWork_mem (s : State) (hm : Memory.wf s.adMem) : Memory.wf s.finishWork.adMem := by
  unfold State.finishWork
  split
  · simpa only [closeTick_keeps] using hm
  · exact enterIdle_mem _ (by simpa only [closeTick_keeps] using hm)

theorem settle_fixed (s : State) :
    fixed (State.settle s) = fixed s := by
  simp only [State.settle, finishWork_fixed, apply_ite fixed, ite_self]

theorem settle_mem (s : State) (hm : Memory.wf s.adMem) :
    Memory.wf (State.settle s).adMem := by
  unfold State.settle
  repeat' first
    | assumption
    | with_reducible apply finishWork_mem
    | split
    | dsimp only

theorem skipStops_fixed (s : State) :
    fixed (State.skipStops s) = fixed s := by
  unfold State.skipStops
  repeat' first
    | with_reducible rfl
    | simp only [setErr_keeps, updTick_keeps, holdAll_keeps, proceed_fixed, apply_ite fixed, ite_self]
    | split

theorem skipStops_mem (s : State) (hm : Memory.wf s.adMem) :
    Memory.wf (State.skipStops s).adMem := by
  unfold State.skipStops
  repeat' first
    | assumption
    | with_reducible apply proceed_mem
    | simp only [setErr_keeps, updTick_keeps, holdAll_keeps]
    | split
    | dsimp only

theorem cutTick_keeps (s : State) :
    fixed (State.cutTick s) = fixed s ∧ (State.cutTick s).adMem = s.adMem := by
  constructor
  · unfold State.cutTick
    repeat' first
      | with_reducible rfl
      | simp only [fixed_mk, updTick_keeps, pumpDone_keeps, leaveCons_keeps, holdAll_keeps, endHeads_keeps,
        abandonSteps_keeps, updRun_keeps, cutStop_keeps, openClosed_keeps, foldl_fixed, implies_true, apply_ite fixed, ite_self]
      | split
      | refine (foldl_fixed (fun _ _ => ?_) _ _).trans ?_
  · unfold State.cutTick
    repeat' first
      | with_reducible rfl
      | simp only [updTick_keeps, pumpDone_keeps, leaveCons_keeps, holdAll_keeps, endHeads_keeps,
        abandonSteps_keeps, updRun_keeps, cutStop_keeps, openClosed_keeps, foldl_adMem, implies_true, apply_ite State.adMem,
        ite_self]
      | split
      | refine (foldl_adMem (fun _ _ => ?_) _ _).trans ?_

theorem endTick_fixed (s : State) :
    fixed (State.endTick s) = fixed s := by
  simp only [State.endTick, finishWork_fixed, cutTick_keeps]

theorem endTick_mem (s : State) (hm : Memory.wf s.adMem) :
    Memory.wf (State.endTick s).adMem := by
  unfold State.endTick
  repeat' first
    | assumption
    | with_reducible apply finishWork_mem
    | simp only [cutTick_keeps]
    | split
    | dsimp only

theorem leaveIdle_keeps (s : State) :
    fixed (State.leaveIdle s) = fixed s ∧ (State.leaveIdle s).adMem = s.adMem := by
  constructor
  · simp only [State.leaveIdle, updTick_keeps]
  · simp only [State.leaveIdle, updTick_keeps]

theorem classify_fixed (s : State) (t : Nat) (v : List RingView) : fixed (s.classify t v) = fixed s := by
  simp only [State.classify, count_keeps, updTick_keeps, doorbellRead_keeps, settle_fixed, endTick_fixed, leaveIdle_keeps,
    apply_ite fixed, ite_self]

theorem classify_mem (s : State) (t : Nat) (v : List RingView) (hm : Memory.wf s.adMem) : Memory.wf (s.classify t v).adMem := by
  have hs : Memory.wf ((s.updTick fun k => { k with edge := .none }).settle).adMem :=
    settle_mem _ (by simpa only [updTick_keeps] using hm)
  unfold State.classify
  generalize (s.updTick fun k => { k with edge := .none }).settle = u at hs
  dsimp only
  split
  · split
    · exact endTick_mem _ (by simpa only [count_keeps] using hs)
    · simpa only [count_keeps] using hs
  · split
    · split
      · simp only [updTick_keeps, doorbellRead_keeps, leaveIdle_keeps]
        exact endTick_mem _ (by simpa only [updTick_keeps, count_keeps] using hs)
      · simpa only [updTick_keeps, count_keeps] using hs
    · simpa only [updTick_keeps, doorbellRead_keeps, leaveIdle_keeps] using hs

theorem edgeAt_kept (s : State) (t : Nat) (v : List RingView) :
    (fixed (State.edgeAt s t v)).kept = (fixed s).kept := by
  simp only [State.edgeAt, advance_keeps, count_keeps, updTick_keeps, settle_fixed, skipStops_fixed, classify_fixed,
    apply_ite fixed, ite_self]

theorem edgeAt_mem (s : State) (t : Nat) (v : List RingView) (hm : Memory.wf s.adMem) :
    Memory.wf (State.edgeAt s t v).adMem := by
  unfold State.edgeAt
  repeat' first
    | assumption
    | with_reducible apply settle_mem
    | with_reducible apply skipStops_mem
    | with_reducible apply classify_mem
    | simp only [updTick_keeps]
    | split
    | dsimp only

theorem buildCounts_fixed (s : State) (tt : Timetable) :
    fixed (State.buildCounts s tt) = fixed s := by
  simp only [State.buildCounts, useFree_keeps, count_keeps, errIf_keeps, countSteps_fixed]

theorem buildCounts_mem (s : State) (tt : Timetable) (hm : Memory.wf s.adMem) :
    Memory.wf (State.buildCounts s tt).adMem := by
  unfold State.buildCounts
  repeat' first
    | assumption
    | with_reducible apply countSteps_mem
    | simp only [errIf_keeps]
    | split
    | refine foldl_mem (fun _ _ _ => ?_) _ ?_
    | refine foldl_wf (fun _ _ _ => ?_) _ ?_
    | dsimp only

theorem beginTick_kept (s : State) (tt : Timetable)
  (next : Option Header) : (fixed (s.beginTick tt next)).kept = (fixed s).kept := by
  unfold State.beginTick
  rw [proceed_fixed]
  have h (xs : List (Word × Nat)) (l : Nat) (s : State) := foldl_carry (g := id)
    (f := fun (s : State) (v : Word × Nat) => s.addVisit l v.1 v.2) (fun s v => addVisit_keeps ..) xs s
  have u (xs : List Nat) (s : State) := foldl_carry (g := id)
    (f := fun (s : State) sl => s.updReq sl fun r => { r with noRoom := true }) (fun s v => updReq_keeps ..) xs s
  simp only [id] at h u
  dsimp only
  split
  · split
    · simp only [apply_ite fixed, holdAll_keeps, u, h, endCons_keeps, beginBuild_keeps,
        resumeTraffic_keeps,
        startMoves_keeps, dropStale_keeps, updLine_keeps, flipsDue_keeps,
        expireAll_keeps, releaseDue_keeps, commitsDue_fixed, kept_mk, updTick_kept, count_keeps, ite_self]
    · simp only [apply_ite fixed, h, endCons_keeps, beginBuild_keeps, resumeTraffic_keeps,
        startMoves_keeps, dropStale_keeps, updLine_keeps, flipsDue_keeps, expireAll_keeps,
        releaseDue_keeps, commitsDue_fixed, kept_mk, updTick_kept, count_keeps, ite_self]
  · simp only [apply_ite fixed, h, endCons_keeps, beginBuild_keeps, resumeTraffic_keeps,
      startMoves_keeps, dropStale_keeps, updLine_keeps, flipsDue_keeps, expireAll_keeps,
      releaseDue_keeps, commitsDue_fixed, kept_mk, updTick_kept, count_keeps, ite_self]

theorem beginTick_mem (s : State) (tt : Timetable) (next : Option Header) (hm : Memory.wf s.adMem) :
    Memory.wf (s.beginTick tt next).adMem := by
  unfold State.beginTick
  refine proceed_mem _ _ _ ?_
  have h (xs : List (Word × Nat)) (l : Nat) (s : State) := foldl_carry (g := id)
    (f := fun (s : State) (v : Word × Nat) => s.addVisit l v.1 v.2) (fun s v => addVisit_keeps ..) xs s
  have u (xs : List Nat) (s : State) := foldl_carry (g := id)
    (f := fun (s : State) sl => s.updReq sl fun r => { r with noRoom := true }) (fun s v => updReq_keeps ..) xs s
  simp only [id] at h u
  dsimp only
  split
  · split
    · simp only [apply_ite State.adMem, holdAll_keeps, u, h, endCons_keeps, beginBuild_keeps, resumeTraffic_keeps,
        startMoves_keeps, dropStale_keeps, updLine_keeps, flipsDue_keeps,
        expireAll_keeps, releaseDue_keeps, ite_self]
      exact commitsDue_mem _ _ (by simpa only [updTick_kept, count_keeps] using hm)
    · simp only [apply_ite State.adMem, h, endCons_keeps, beginBuild_keeps, resumeTraffic_keeps,
        startMoves_keeps, dropStale_keeps, updLine_keeps, flipsDue_keeps, expireAll_keeps, releaseDue_keeps, ite_self]
      exact commitsDue_mem _ _ (by simpa only [updTick_kept, count_keeps] using hm)
  · simp only [apply_ite State.adMem, h, endCons_keeps, beginBuild_keeps, resumeTraffic_keeps,
      startMoves_keeps, dropStale_keeps, updLine_keeps, flipsDue_keeps, expireAll_keeps, releaseDue_keeps, ite_self]
    exact commitsDue_mem _ _ (by simpa only [updTick_kept, count_keeps] using hm)

theorem useHeader_kept (s : State) (t : Nat) (lenient cold : Bool) (p : Payload) :
    (fixed (State.useHeader s t lenient cold p)).kept = (fixed s).kept := by
  unfold State.useHeader
  repeat' first
    | with_reducible rfl
    | simp only [kept_mk, errIf_keeps, beginBuild_keeps, updTick_keeps, beginTick_kept, apply_ite fixed,
      apply_ite Fixed.kept, ite_self]
    | split

theorem useHeader_mem (s : State) (t : Nat) (lenient cold : Bool) (p : Payload) (hm : Memory.wf s.adMem) :
    Memory.wf (State.useHeader s t lenient cold p).adMem := by
  unfold State.useHeader
  repeat' first
    | assumption
    | with_reducible apply beginTick_mem
    | simp only [errIf_keeps, beginBuild_keeps, updTick_keeps]
    | split
    | dsimp only

theorem headerIn_kept (s : State) (p : Payload) :
    (fixed (State.headerIn s p)).kept = (fixed s).kept := by
  unfold State.headerIn
  repeat' first
    | with_reducible rfl
    | simp only [setErr_keeps, updTick_keeps, useHeader_kept, apply_ite fixed, apply_ite Fixed.kept, ite_self]
    | split

theorem headerIn_mem (s : State) (p : Payload) (hm : Memory.wf s.adMem) :
    Memory.wf (State.headerIn s p).adMem := by
  unfold State.headerIn
  repeat' first
    | assumption
    | with_reducible apply useHeader_mem
    | simp only [setErr_keeps]
    | split
    | dsimp only

theorem holdFrames_keeps (s : State) (tt : Timetable) :
    fixed (State.holdFrames s tt) = fixed s ∧ (State.holdFrames s tt).adMem = s.adMem := by
  constructor
  · simp only [State.holdFrames, fixed_mk]
  · simp only [State.holdFrames]

theorem built_kept (s : State) (b : Built) : (fixed (s.built b)).kept = (fixed s).kept := by
  unfold State.built
  split
  · dsimp only
    split
    · simp only [beginTick_kept, holdFrames_keeps, buildCounts_fixed]
    · rfl
  · split
    · rfl
    · split
      · simp only [kept_mk, updTick_keeps, holdFrames_keeps, buildCounts_fixed]
      · rfl
  · rfl

theorem built_mem (s : State) (b : Built) (hm : Memory.wf s.adMem) : Memory.wf (s.built b).adMem := by
  unfold State.built
  split
  · dsimp only
    split
    · exact beginTick_mem _ _ _ (by simpa only [holdFrames_keeps] using buildCounts_mem _ _ hm)
    · exact hm
  · split
    · exact hm
    · split
      · simpa only [updTick_keeps, holdFrames_keeps] using buildCounts_mem _ _ hm
      · exact hm
  · exact hm

theorem takeFlit_keeps (s : State) (x : Stop) (port : Nat) (tag : FlitTag) (payload : Payload) :
    fixed (State.takeFlit s x port tag payload) = fixed s ∧ (State.takeFlit s x port tag payload).adMem = s.adMem := by
  constructor
  · simp only [State.takeFlit, setErr_keeps, updStop_keeps, apply_ite fixed, ite_self]
  · simp only [State.takeFlit, setErr_keeps, updStop_keeps, apply_ite State.adMem, ite_self]

/-! Machine/Specials.lean. -/

theorem swInstall_keeps (s : State) (b : DescBytes) (bytes : List Byte) :
    (fixed ((State.swInstall s b bytes).1)).kept = (fixed s).kept ∧ (State.swInstall s b bytes).1.adMem = s.adMem := by
  constructor
  · unfold State.swInstall
    repeat' first
      | with_reducible rfl
      | simp only [kept_mk]
      | split
  · unfold State.swInstall
    repeat' first
      | with_reducible rfl
      | simp only []
      | split

theorem loadSpecialReq_keeps (s : State) (image : Option (List Byte)) (tk : Taken) :
    (fixed (State.loadSpecialReq s image tk)).kept = (fixed s).kept ∧ (State.loadSpecialReq s image tk).adMem = s.adMem := by
  constructor
  · unfold State.loadSpecialReq
    repeat' first
      | with_reducible rfl
      | simp only [addRead_keeps, count_keeps, setErr_keeps, answer_keeps, park_keeps, swInstall_keeps,
        apply_ite fixed, apply_ite Fixed.kept]
      | split
  · unfold State.loadSpecialReq
    repeat' first
      | with_reducible rfl
      | simp only [addRead_keeps, count_keeps, setErr_keeps, answer_keeps, park_keeps, swInstall_keeps, apply_ite State.adMem]
      | split

theorem specialRead_keeps (s : State) (k n : Nat) (bytes : List Byte) :
    (fixed (State.specialRead s k n bytes)).kept = (fixed s).kept ∧ (State.specialRead s k n bytes).adMem = s.adMem := by
  constructor
  · unfold State.specialRead
    repeat' first
      | with_reducible rfl
      | simp only [finish_keeps, swInstall_keeps]
      | split
  · unfold State.specialRead
    repeat' first
      | with_reducible rfl
      | simp only [finish_keeps, swInstall_keeps]
      | split

theorem unloadSpecialReq_keeps (s : State) (tk : Taken) :
    (fixed (State.unloadSpecialReq s tk)).kept = (fixed s).kept ∧ (State.unloadSpecialReq s tk).adMem = s.adMem := by
  constructor
  · simp only [State.unloadSpecialReq, kept_mk, answer_keeps, apply_ite fixed, apply_ite Fixed.kept, ite_self]
  · simp only [State.unloadSpecialReq, answer_keeps, apply_ite State.adMem, ite_self]

/-! Machine/Links.lean. -/

theorem engineStop_kept (s : State) : (fixed s.engineStop).kept = (fixed s).kept := by
  simp only [State.engineStop, kept_mk, finishWhere_keeps, enterIdle_fixed, endTick_fixed, apply_ite fixed,
    apply_ite Fixed.kept, ite_self]

theorem engineStop_mem (s : State) (hm : Memory.wf s.adMem) : Memory.wf s.engineStop.adMem := by
  unfold State.engineStop
  split
  · exact hm
  · simp only [finishWhere_keeps]
    refine enterIdle_mem _ ?_
    dsimp only
    split
    · exact endTick_mem _ hm
    · exact hm

theorem trainErrAdd_keeps (s : State) (train parity reread : Nat) :
    fixed (State.trainErrAdd s train parity reread) = fixed s ∧ (State.trainErrAdd s train parity reread).adMem = s.adMem := by
  constructor
  · unfold State.trainErrAdd
    split
    · exact fixed_mk rfl rfl rfl (setAt_length _ _ _)
    · rfl
  · unfold State.trainErrAdd
    repeat' first
      | with_reducible rfl
      | simp only []
      | split

theorem dropRead_keeps (s : State) (id : Nat) :
    fixed (State.dropRead s id) = fixed s ∧ (State.dropRead s id).adMem = s.adMem := by
  constructor
  · simp only [State.dropRead, fixed_mk]
  · simp only [State.dropRead]

theorem readAgain_keeps (s : State) (r : FmRead) (a : Nat) :
    fixed (State.readAgain s r a) = fixed s ∧ (State.readAgain s r a).adMem = s.adMem := by
  constructor
  · simp only [State.readAgain, fixed_mk, sendRead_keeps, poisonObject_keeps, dropRead_keeps, apply_ite fixed, ite_self]
  · simp only [State.readAgain, sendRead_keeps, poisonObject_keeps, dropRead_keeps, apply_ite State.adMem, ite_self]

theorem failRead_keeps (s : State) (r : FmRead) :
    fixed (State.failRead s r) = fixed s ∧ (State.failRead s r).adMem = s.adMem := by
  constructor
  · unfold State.failRead
    repeat' first
      | with_reducible rfl
      | simp only [fixed_mk, count_keeps, setErr_keeps, finish_keeps, finishRows_keeps, failBuild_keeps, dropUps_keeps,
        dropRead_keeps, readAgain_keeps]
      | split
  · unfold State.failRead
    repeat' first
      | with_reducible rfl
      | simp only [count_keeps, setErr_keeps, finish_keeps, finishRows_keeps, failBuild_keeps, dropUps_keeps, dropRead_keeps,
        readAgain_keeps]
      | split

theorem failWrite_keeps (s : State) (id : Nat) :
    fixed (State.failWrite s id) = fixed s ∧ (State.failWrite s id).adMem = s.adMem := by
  constructor
  · simp only [State.failWrite, fixed_mk, count_keeps, setErr_keeps]
  · simp only [State.failWrite, count_keeps, setErr_keeps]

theorem failTransaction_keeps (s : State) (id : Nat) :
    fixed (State.failTransaction s id) = fixed s ∧ (State.failTransaction s id).adMem = s.adMem := by
  constructor
  · unfold State.failTransaction
    repeat' first
      | with_reducible rfl
      | simp only [failRead_keeps, failWrite_keeps, apply_ite fixed, ite_self]
      | split
  · unfold State.failTransaction
    repeat' first
      | with_reducible rfl
      | simp only [failRead_keeps, failWrite_keeps, apply_ite State.adMem, ite_self]
      | split

theorem writeDone_keeps (s : State) (id : Nat) :
    fixed (State.writeDone s id) = fixed s ∧ (State.writeDone s id).adMem = s.adMem := by
  constructor
  · simp only [State.writeDone, fixed_mk, ackWrite_keeps]
  · simp only [State.writeDone, ackWrite_keeps]

theorem badWagon_keeps (s : State) (r : FmRead) (a : Nat) :
    fixed (State.badWagon s r a) = fixed s ∧ (State.badWagon s r a).adMem = s.adMem := by
  constructor
  · unfold State.badWagon
    repeat' first
      | with_reducible rfl
      | simp only [count_keeps, trainErrAdd_keeps, readAgain_keeps, apply_ite fixed, ite_self]
      | split
  · unfold State.badWagon
    repeat' first
      | with_reducible rfl
      | simp only [count_keeps, trainErrAdd_keeps, readAgain_keeps, apply_ite State.adMem, ite_self]
      | split

theorem pageCopied_keeps (s : State) (slot idx : Nat) (bytes : List Byte) :
    fixed (State.pageCopied s slot idx bytes) = fixed s ∧ (State.pageCopied s slot idx bytes).adMem = s.adMem := by
  constructor
  · unfold State.pageCopied
    repeat' first
      | with_reducible rfl
      | simp only [addWrite_keeps]
      | split
  · unfold State.pageCopied
    repeat' first
      | with_reducible rfl
      | simp only [addWrite_keeps]
      | split

theorem readWhole_keeps (s : State) (r : FmRead) :
    (fixed (State.readWhole s r)).kept = (fixed s).kept ∧ (State.readWhole s r).adMem = s.adMem := by
  constructor
  · unfold State.readWhole
    repeat' first
      | with_reducible rfl
      | simp only [kept_mk, specialRead_keeps, dropRead_keeps, badWagon_keeps, pageCopied_keeps, apply_ite fixed,
        ite_self]
      | split
  · unfold State.readWhole
    repeat' first
      | with_reducible rfl
      | simp only [specialRead_keeps, dropRead_keeps, badWagon_keeps, pageCopied_keeps, apply_ite State.adMem, ite_self]
      | split

theorem takeAnswer_keeps (s : State) (port kind id : Nat) :
    fixed (State.takeAnswer s port kind id) = fixed s ∧ (State.takeAnswer s port kind id).adMem = s.adMem := by
  constructor
  · simp only [State.takeAnswer, takeRx_keeps]
  · simp only [State.takeAnswer, takeRx_keeps]

theorem readData_keeps (s : State) (id flit : Nat) (payload : Payload) :
    (fixed (State.readData s id flit payload)).kept = (fixed s).kept ∧ (State.readData s id flit payload).adMem = s.adMem := by
  constructor
  · unfold State.readData
    repeat' first
      | with_reducible rfl
      | simp only [kept_mk, resumeTraffic_keeps, readWhole_keeps, takeAnswer_keeps, apply_ite fixed, apply_ite Fixed.kept,
        ite_self]
      | split
  · unfold State.readData
    repeat' first
      | with_reducible rfl
      | simp only [resumeTraffic_keeps, readWhole_keeps, takeAnswer_keeps, apply_ite State.adMem, ite_self]
      | split

theorem portUp_keeps (s : State) :
    fixed (State.portUp s) = fixed s ∧ (State.portUp s).adMem = s.adMem := by
  constructor
  · simp only [State.portUp, resumeTraffic_keeps, unsolDrain_keeps]
  · simp only [State.portUp, resumeTraffic_keeps, unsolDrain_keeps]

theorem linkUp_keeps (s : State) (c : Nat) :
    fixed (State.linkUp s c) = fixed s ∧ (State.linkUp s c).adMem = s.adMem := by
  constructor
  · simp only [State.linkUp, setLink_keeps, pumpLink_keeps, updXch_keeps, portUp_keeps, apply_ite fixed, ite_self]
  · simp only [State.linkUp, setLink_keeps, pumpLink_keeps, updXch_keeps, portUp_keeps, apply_ite State.adMem, ite_self]

theorem movePort_keeps (s : State) (c : Nat) :
    fixed (State.movePort s c) = fixed s ∧ (State.movePort s c).adMem = s.adMem := by
  constructor
  · simp only [State.movePort, fixed_mk, sendReady_keeps, sendRead_keeps, foldl_fixed, implies_true]
  · simp only [State.movePort, sendReady_keeps, sendRead_keeps, foldl_adMem, implies_true]

theorem linkFatal_kept (s : State) (c : Nat) :
    (fixed (State.linkFatal s c)).kept = (fixed s).kept := by
  simp only [State.linkFatal, setLink_keeps, count_keeps, setErr_keeps, unsolEvent_keeps, loseThePartner_keeps,
    engineStop_kept, movePort_keeps, apply_ite fixed, apply_ite Fixed.kept, ite_self]

theorem linkFatal_mem (s : State) (c : Nat) (hm : Memory.wf s.adMem) :
    Memory.wf (State.linkFatal s c).adMem := by
  unfold State.linkFatal
  repeat' first
    | assumption
    | with_reducible apply engineStop_mem
    | simp only [setLink_keeps, count_keeps, setErr_keeps, unsolEvent_keeps, loseThePartner_keeps, movePort_keeps]
    | split
    | dsimp only

theorem resent_keeps (s : State) (c : Nat) :
    fixed (State.resent s c) = fixed s ∧ (State.resent s c).adMem = s.adMem := by
  constructor
  · simp only [State.resent, setLink_keeps, count_keeps]
  · simp only [State.resent, setLink_keeps, count_keeps]

theorem seqFails_kept (s : State) (c : Nat) (q : BitVec 8) :
    (fixed (State.seqFails s c q)).kept = (fixed s).kept := by
  simp only [State.seqFails, setLink_keeps, linkFatal_kept, resent_keeps, apply_ite fixed, apply_ite Fixed.kept,
    ite_self]

theorem seqFails_mem (s : State) (c : Nat) (q : BitVec 8) (hm : Memory.wf s.adMem) :
    Memory.wf (State.seqFails s c q).adMem := by
  unfold State.seqFails
  repeat' first
    | assumption
    | with_reducible apply linkFatal_mem
    | simp only []
    | split
    | dsimp only

theorem resetLink_keeps (s : State) (c : Nat) :
    fixed (State.resetLink s c) = fixed s ∧ (State.resetLink s c).adMem = s.adMem := by
  constructor
  · simp only [State.resetLink, setLink_keeps, updXch_keeps, apply_ite fixed, ite_self]
  · simp only [State.resetLink, setLink_keeps, updXch_keeps, apply_ite State.adMem, ite_self]

theorem portReset_keeps (s : State) (v : Word) :
    fixed (State.portReset s v) = fixed s ∧ (State.portReset s v).adMem = s.adMem := by
  constructor
  · simp only [State.portReset, pumpDone_keeps, resetLink_keeps, foldl_fixed, implies_true, apply_ite fixed, ite_self]
  · simp only [State.portReset, pumpDone_keeps, resetLink_keeps, foldl_adMem, implies_true, apply_ite State.adMem, ite_self]

/-! Machine/Shunt.lean. -/

theorem updateHeat_keeps (s : State) (l n : Nat) :
    fixed (State.updateHeat s l n) = fixed s ∧ (State.updateHeat s l n).adMem = s.adMem := by
  constructor
  · simp only [State.updateHeat, fixed_mk, updLine_keeps]
  · simp only [State.updateHeat, updLine_keeps]

theorem applyDecision_keeps (s : State) (n : Nat) (x : Dir × Copy × Charge) (dst : Nat) (conv : Option (Nat × Nat)) :
    fixed (State.applyDecision s n x dst conv) = fixed s ∧ (State.applyDecision s n x dst conv).adMem = s.adMem := by
  constructor
  · simp only [State.applyDecision, fixed_mk, setDir_keeps]
  · simp only [State.applyDecision, setDir_keeps]

theorem addDemote_keeps (n : Nat) (a : ShuntAcc) (x : Dir × Copy × Charge) (j : Nat) (conv : Option (Nat × Nat)) :
    fixed (addDemote n a x j conv).1 = fixed a.1 ∧ (addDemote n a x j conv).1.adMem = a.1.adMem := by
  simp only [addDemote, applyDecision_keeps, and_self]

theorem quotaDemote_keeps (n t k room : Nat) (a : ShuntAcc) :
    fixed (quotaDemote n t k room a).1 = fixed a.1 ∧ (quotaDemote n t k room a).1.adMem = a.1.adMem := by
  induction room generalizing a with
  | zero => exact ⟨rfl, rfl⟩
  | succ room ih =>
    unfold quotaDemote
    split
    · exact ⟨rfl, rfl⟩
    · split
      · exact ⟨rfl, rfl⟩
      · split
        · exact ⟨rfl, rfl⟩
        · simp only [ih, addDemote_keeps, and_self]

theorem coldDemote_keeps (n cap : Nat) (a : ShuntAcc) (h : Word) :
    fixed (coldDemote n cap a h).1 = fixed a.1 ∧ (coldDemote n cap a h).1.adMem = a.1.adMem := by
  unfold coldDemote
  split
  · exact ⟨rfl, rfl⟩
  · split
    · exact ⟨rfl, rfl⟩
    · split
      · exact addDemote_keeps ..
      · exact ⟨rfl, rfl⟩

theorem displace_keeps (n cap need : Nat) (x : Dir × Copy × Charge) (hs : List Word) (freed : Nat) (a : ShuntAcc) :
    ∀ b, displace n cap need x hs freed a = some b → fixed b.1 = fixed a.1 ∧ b.1.adMem = a.1.adMem := by
  induction hs generalizing freed a with
  | nil =>
    intro b hb
    unfold displace at hb
    split at hb
    · cases hb
      exact ⟨rfl, rfl⟩
    · cases hb
  | cons h hs ih =>
    intro b hb
    unfold displace at hb
    split at hb
    · cases hb
      exact ⟨rfl, rfl⟩
    · split at hb
      · cases hb
      · split at hb
        · exact ih _ _ _ hb
        · split at hb
          · have := ih _ _ _ hb
            simpa only [addDemote_keeps] using this
          · exact ih _ _ _ hb

theorem promote_keeps (n cap : Nat) (a : ShuntAcc) (h : Word) :
    fixed (promote n cap a h).1 = fixed a.1 ∧ (promote n cap a h).1.adMem = a.1.adMem := by
  unfold promote
  split
  · exact ⟨rfl, rfl⟩
  · split
    · exact ⟨rfl, rfl⟩
    · dsimp only
      split
      · rename_i b hb
        split at hb
        · have := displace_keeps _ _ _ _ _ _ _ _ hb
          simpa only [applyDecision_keeps] using this
        · cases hb
      · simp only [applyDecision_keeps, and_self]
      · exact ⟨rfl, rfl⟩

theorem widen_keeps (n cap : Nat) (a : ShuntAcc) (h : Word) :
    fixed (widen n cap a h).1 = fixed a.1 ∧ (widen n cap a h).1.adMem = a.1.adMem := by
  unfold widen
  split
  · exact ⟨rfl, rfl⟩
  · split
    · exact ⟨rfl, rfl⟩
    · split
      · split
        · simp only [applyDecision_keeps, and_self]
        · exact ⟨rfl, rfl⟩
      · exact ⟨rfl, rfl⟩

theorem decisionPoint_keeps (s : State) (l n : Nat) :
    fixed (s.decisionPoint l n) = fixed s ∧ (s.decisionPoint l n).adMem = s.adMem := by
  have q (xs : List (Nat × Nat)) (cap : Nat) (a : ShuntAcc) :=
    foldl_carry (g := Prod.fst) (f := fun (a : ShuntAcc) (x : Nat × Nat) => quotaDemote n x.1 x.2 (cap - a.2.length) a)
      (fun a x => quotaDemote_keeps ..) xs a
  have c (cap : Nat) (xs : List Word) (a : ShuntAcc) := foldl_carry (g := Prod.fst) (coldDemote_keeps n cap) xs a
  have p (cap : Nat) (xs : List Word) (a : ShuntAcc) := foldl_carry (g := Prod.fst) (promote_keeps n cap) xs a
  have w (cap : Nat) (xs : List Word) (a : ShuntAcc) := foldl_carry (g := Prod.fst) (widen_keeps n cap) xs a
  unfold State.decisionPoint
  constructor
  · simp only [fixed_mk, startMoves_keeps, apply_ite Prod.fst, apply_ite fixed, w, p, c, q, updateHeat_keeps, ite_self]
  · simp only [startMoves_keeps, apply_ite Prod.fst, apply_ite State.adMem, w, p, c, q, updateHeat_keeps, ite_self]

theorem resumeWriteBacks_keeps (s : State) :
    fixed (State.resumeWriteBacks s) = fixed s ∧ (State.resumeWriteBacks s).adMem = s.adMem := by
  constructor
  · simp only [State.resumeWriteBacks, writeBacks_keeps, apply_ite fixed, ite_self]
  · simp only [State.resumeWriteBacks, writeBacks_keeps, apply_ite State.adMem, ite_self]

theorem landRun_keeps (s : State) (r : TRun) :
    fixed (State.landRun s r) = fixed s ∧ (State.landRun s r).adMem = s.adMem := by
  constructor
  · simp only [State.landRun, fixed_mk, dropStale_keeps]
  · simp only [State.landRun, dropStale_keeps]

theorem remapRun_keeps (s : State) (a : Nat) :
    fixed (State.remapRun s a) = fixed s ∧ (State.remapRun s a).adMem = s.adMem := by
  constructor
  · unfold State.remapRun
    repeat' first
      | with_reducible rfl
      | simp only [fixed_mk, finishBuilds_keeps, startMoves_keeps, resumeWriteBacks_keeps, landRun_keeps, apply_ite fixed,
        ite_self]
      | split
  · unfold State.remapRun
    repeat' first
      | with_reducible rfl
      | simp only [finishBuilds_keeps, startMoves_keeps, resumeWriteBacks_keeps, landRun_keeps, apply_ite State.adMem, ite_self]
      | split

theorem remapConversion_fixed (s : State) (slot : Nat) :
    fixed (State.remapConversion s slot) = fixed s := by
  unfold State.remapConversion
  repeat' first
    | with_reducible rfl
    | simp only [fixed_mk, count_keeps, setDir_keeps, dropStale_keeps, finishBuilds_keeps, convertCopy_fixed, startMoves_keeps,
      resumeWriteBacks_keeps, apply_ite fixed, ite_self]
    | split

theorem remapConversion_mem (s : State) (slot : Nat) (hm : Memory.wf s.adMem) :
    Memory.wf (State.remapConversion s slot).adMem := by
  unfold State.remapConversion
  repeat' first
    | assumption
    | with_reducible apply convertCopy_mem
    | simp only [count_keeps, setDir_keeps, dropStale_keeps, finishBuilds_keeps, startMoves_keeps, resumeWriteBacks_keeps]
    | split
    | dsimp only

theorem tierTakes_keeps (s : State) (a : Nat) (again : Bool) :
    fixed (State.tierTakes s a again) = fixed s ∧ (State.tierTakes s a again).adMem = s.adMem := by
  constructor
  · simp only [State.tierTakes, fixed_mk]
  · simp only [State.tierTakes]

theorem freeFrames_keeps (s : State) (a : Nat) :
    fixed (State.freeFrames s a) = fixed s ∧ (State.freeFrames s a).adMem = s.adMem := by
  constructor
  · simp only [State.freeFrames, fixed_mk]
  · simp only [State.freeFrames]

theorem writeBackLands_keeps (s : State) (a : Nat) :
    fixed (State.writeBackLands s a) = fixed s ∧ (State.writeBackLands s a).adMem = s.adMem := by
  constructor
  · unfold State.writeBackLands
    repeat' first
      | with_reducible rfl
      | simp only [fixed_mk, startWriteBack_keeps, startMoves_keeps, resumeWriteBacks_keeps, tierTakes_keeps, freeFrames_keeps,
        apply_ite fixed, ite_self]
      | split
  · unfold State.writeBackLands
    repeat' first
      | with_reducible rfl
      | simp only [startWriteBack_keeps, startMoves_keeps, resumeWriteBacks_keeps, tierTakes_keeps, freeFrames_keeps,
        apply_ite State.adMem, ite_self]
      | split

theorem writePageEntry_keeps (s : State) (slot idx : Nat) (e : Bool × Nat) :
    fixed (State.writePageEntry s slot idx e) = fixed s ∧ (State.writePageEntry s slot idx e).adMem = s.adMem := by
  constructor
  · simp only [State.writePageEntry, addWrite_keeps]
  · simp only [State.writePageEntry, addWrite_keeps]

theorem startPageMove_keeps (s : State) (slot idx : Nat) (src : Bool × Nat) :
    fixed (State.startPageMove s slot idx src) = fixed s ∧ (State.startPageMove s slot idx src).adMem = s.adMem := by
  constructor
  · simp only [State.startPageMove, addRead_keeps]
  · simp only [State.startPageMove, addRead_keeps]

theorem pauseDone_keeps (s : State) (slot : Nat) :
    fixed (State.pauseDone s slot) = fixed s ∧ (State.pauseDone s slot).adMem = s.adMem := by
  constructor
  · unfold State.pauseDone
    repeat' first
      | with_reducible rfl
      | simp only [finishWhere_keeps, apply_ite fixed, ite_self]
      | split
  · unfold State.pauseDone
    repeat' first
      | with_reducible rfl
      | simp only [finishWhere_keeps, apply_ite State.adMem, ite_self]
      | split

theorem pageMoveLands_keeps (s : State) (slot idx : Nat) :
    fixed (State.pageMoveLands s slot idx) = fixed s ∧ (State.pageMoveLands s slot idx).adMem = s.adMem := by
  constructor
  · unfold State.pageMoveLands
    repeat' first
      | with_reducible rfl
      | simp only [fixed_mk, ackWrite_keeps, setReq_keeps, writePageEntry_keeps, startPageMove_keeps, pauseDone_keeps,
        apply_ite fixed, ite_self]
      | split
  · unfold State.pageMoveLands
    repeat' first
      | with_reducible rfl
      | simp only [ackWrite_keeps, setReq_keeps, writePageEntry_keeps, startPageMove_keeps, pauseDone_keeps,
        apply_ite State.adMem, ite_self]
      | split

theorem poisonOwner_keeps (s : State) (a : Nat) :
    fixed (State.poisonOwner s a) = fixed s ∧ (State.poisonOwner s a).adMem = s.adMem := by
  constructor
  · simp only [State.poisonOwner, poisonObject_keeps]
  · simp only [State.poisonOwner, poisonObject_keeps]

theorem crcMismatch_keeps (s : State) (a : Nat) (wagonCheck : Bool) (train rereads : Nat) (readable : Bool) :
    fixed (State.crcMismatch s a wagonCheck train rereads readable) = fixed s
      ∧ (State.crcMismatch s a wagonCheck train rereads readable).adMem = s.adMem := by
  constructor
  · simp only [State.crcMismatch, count_keeps, trainErrAdd_keeps, poisonOwner_keeps, apply_ite fixed, ite_self]
  · simp only [State.crcMismatch, count_keeps, trainErrAdd_keeps, poisonOwner_keeps, apply_ite State.adMem, ite_self]

theorem dependentsLate_keeps (s : State) (a : Nat) :
    fixed (State.dependentsLate s a) = fixed s ∧ (State.dependentsLate s a).adMem = s.adMem := by
  constructor
  · simp only [State.dependentsLate, updTick_keeps, failLate_keeps, apply_ite fixed, ite_self]
  · simp only [State.dependentsLate, updTick_keeps, failLate_keeps, apply_ite State.adMem, ite_self]

theorem parityError_fixed (s : State) (a train : Nat) (third : Bool) :
    fixed (State.parityError s a train third) = fixed s := by
  simp only [State.parityError, count_keeps, setErr_keeps, refetch_keeps, proceed_fixed, trainErrAdd_keeps, poisonOwner_keeps,
    dependentsLate_keeps, apply_ite fixed, ite_self]

theorem parityError_mem (s : State) (a train : Nat) (third : Bool) (hm : Memory.wf s.adMem) :
    Memory.wf (State.parityError s a train third).adMem := by
  unfold State.parityError
  repeat' first
    | assumption
    | with_reducible apply proceed_mem
    | simp only [count_keeps, setErr_keeps, refetch_keeps, trainErrAdd_keeps, poisonOwner_keeps, dependentsLate_keeps]
    | split
    | dsimp only

/-! Machine/Boundary.lean. -/

theorem writeList_keeps (s : State) (k : WKind) (base step : Nat) (rest entries : List Byte) (after : List Nat) :
    fixed (State.writeList s k base step rest entries after) = fixed s
      ∧ (State.writeList s k base step rest entries after).adMem = s.adMem := by
  constructor
  · simp only [State.writeList, addWrite_keeps]
  · simp only [State.writeList, addWrite_keeps]

theorem formBackward_keeps (s : State) (l n : Nat) :
    fixed (State.formBackward s l n) = fixed s ∧ (State.formBackward s l n).adMem = s.adMem := by
  constructor
  · simp only [State.formBackward, updReq_keeps, updLine_keeps, writeList_keeps, foldl_fixed, implies_true]
  · simp only [State.formBackward, updReq_keeps, updLine_keeps, writeList_keeps, foldl_adMem, implies_true]

theorem eachReq_keeps (s : State) (l : Nat) (p : Req → Bool) {f : State → Req → State}
    (hf : ∀ s r, fixed (f s r) = fixed s ∧ (f s r).adMem = s.adMem) :
    fixed (s.eachReq l p f) = fixed s ∧ (s.eachReq l p f).adMem = s.adMem :=
  foldl_carry (g := id) (fun s sl => by
    simp only [id]
    split
    · exact hf _ _
    · exact ⟨rfl, rfl⟩) _ s

theorem leaveAll_keeps (s : State) (l n : Nat) : fixed (s.leaveAll l n) = fixed s ∧ (s.leaveAll l n).adMem = s.adMem := by
  have a (s : State) := eachReq_keeps s l (·.endP) (f := State.freeReq) fun s r => freeReq_keeps s r
  have b := eachReq_keeps (s.eachReq l (·.endP) State.freeReq) l (·.cancelP)
    (f := fun s q => (s.freeReq q).queueFinal (finalOf q 0x30 n)) fun s q => by simp only [queueFinal_keeps, freeReq_keeps,
      and_self]
  exact ⟨b.1.trans (a s).1, b.2.trans (a s).2⟩

theorem enterPaused_keeps (s : State) (l n : Nat) : fixed (s.enterPaused l n) = fixed s ∧ (s.enterPaused l n).adMem = s.adMem :=
  eachReq_keeps s l _ fun s q => by simp only [pauseDone_keeps, setReq_keeps, fixed_mk, and_self]

theorem leaveResuming_keeps (s : State) (l : Nat) : fixed (s.leaveResuming l) = fixed s ∧ (s.leaveResuming l).adMem = s.adMem :=
  eachReq_keeps s l _ fun s q => by simp only [finishWhere_keeps, setReq_keeps, fixed_mk, and_self]

theorem drainTenant_keeps (s : State) (t : Nat) :
    fixed (State.drainTenant s t) = fixed s ∧ (State.drainTenant s t).adMem = s.adMem := by
  constructor
  · unfold State.drainTenant
    repeat' first
      | with_reducible rfl
      | simp only [finishWhere_keeps, setTenant_keeps, apply_ite fixed]
      | split
  · unfold State.drainTenant
    repeat' first
      | with_reducible rfl
      | simp only [finishWhere_keeps, setTenant_keeps, apply_ite State.adMem]
      | split

theorem drainTenants_keeps (s : State) :
    fixed (State.drainTenants s) = fixed s ∧ (State.drainTenants s).adMem = s.adMem := by
  constructor
  · simp only [State.drainTenants, drainTenant_keeps, foldl_fixed, implies_true]
  · simp only [State.drainTenants, drainTenant_keeps, foldl_adMem, implies_true]

theorem beginMoves_keeps (s : State) (q : Req) (dst : List Nat) :
    fixed (State.beginMoves s q dst) = fixed s ∧ (State.beginMoves s q dst).adMem = s.adMem := by
  constructor
  · simp only [State.beginMoves, setReq_keeps, startPageMove_keeps, foldl_fixed, implies_true, apply_ite fixed,
      ite_self]
  · simp only [State.beginMoves, setReq_keeps, startPageMove_keeps, foldl_adMem, implies_true, apply_ite State.adMem, ite_self]

theorem takePauses_keeps (s : State) (l n : Nat) : fixed (s.takePauses l n) = fixed s ∧ (s.takePauses l n).adMem = s.adMem :=
  eachReq_keeps s l _ fun s q => by
    dsimp only
    split
    · simp only [pauseDone_keeps, setReq_keeps, and_self]
    · split
      · simp only [beginMoves_keeps, fixed_mk, and_self]
      · exact count_keeps _ _ _

theorem takeResumes_keeps (s : State) (l : Nat) : fixed (s.takeResumes l) = fixed s ∧ (s.takeResumes l).adMem = s.adMem :=
  eachReq_keeps s l _ fun s q => by
    split
    · exact ⟨rfl, rfl⟩
    · split
      · simp only [finishWhere_keeps, setReq_keeps, and_self]
      · split
        · simp only [beginMoves_keeps, fixed_mk, and_self]
        · exact count_keeps _ _ _

theorem skip_keeps (a : Allot) (q : Req) (counted : Bool) :
    fixed (a.skip q counted).s = fixed a.s ∧ (a.skip q counted).s.adMem = a.s.adMem := by
  unfold Allot.skip
  simp only [setReq_keeps]
  split
  · exact count_keeps _ _ _
  · exact ⟨rfl, rfl⟩

theorem allotOne_keeps (limit chunk : Nat) (a : Allot) (slot : Nat) :
    fixed (allotOne limit chunk a slot).s = fixed a.s ∧ (allotOne limit chunk a slot).s.adMem = a.s.adMem := by
  unfold allotOne
  split
  · exact ⟨rfl, rfl⟩
  · dsimp only
    split
    · exact skip_keeps _ _ _
    · split
      · exact skip_keeps _ _ _
      · split
        · exact skip_keeps _ _ _
        · split
          · exact skip_keeps _ _ _
          · dsimp only
            have h (xs : List (Nat × Nat)) (k : Nat) (s : State) := foldl_carry (g := id)
              (f := fun (s : State) (x : Nat × Nat) => s.writePageEntry slot (k + x.2) (false, x.1))
              (fun s x => writePageEntry_keeps ..) xs s
            simp only [id] at h
            simp only [h, setReq_keeps, fixed_mk, and_self]

theorem writeManifest_keeps (s : State) (l step n : Nat) (rows : List MRow) :
    fixed (State.writeManifest s l step n rows) = fixed s ∧ (State.writeManifest s l step n rows).adMem = s.adMem := by
  constructor
  · simp only [State.writeManifest, fixed_mk, updLine_keeps, writeList_keeps]
  · simp only [State.writeManifest, updLine_keeps, writeList_keeps]

theorem measure_keeps (s : State) :
    fixed (State.measure s) = fixed s ∧ (State.measure s).adMem = s.adMem := by
  constructor
  · simp only [State.measure, fixed_mk]
  · simp only [State.measure]

theorem boundary_keeps (s : State) (l n : Nat) (first : Bool) (hdrs : List (Word × DescBytes)) :
    fixed (s.boundary l n first hdrs) = fixed s ∧ (s.boundary l n first hdrs).adMem = s.adMem := by
  have h (x y : Nat) (xs : List Nat) (a : Allot) := foldl_carry (g := Allot.s) (allotOne_keeps x y) xs a
  unfold State.boundary
  constructor
  · simp only [selectCache_keeps, apply_ite fixed, measure_keeps, decisionPoint_keeps, updTick_keeps, updLine_keeps,
      writeManifest_keeps, h,
      errIf_keeps, fixed_mk, raiseTokens_keeps,
      takeResumes_keeps, takePauses_keeps, drainTenants_keeps, leaveResuming_keeps, enterPaused_keeps, retryFinals_keeps,
      leaveAll_keeps, formBackward_keeps, ite_self]
  · simp only [selectCache_keeps, apply_ite State.adMem, measure_keeps, decisionPoint_keeps, updTick_keeps, updLine_keeps,
      writeManifest_keeps,
      h, errIf_keeps, raiseTokens_keeps,
      takeResumes_keeps, takePauses_keeps, drainTenants_keeps, leaveResuming_keeps, enterPaused_keeps, retryFinals_keeps,
      leaveAll_keeps, formBackward_keeps, ite_self]

/-! Machine/Logbook.lean. -/

theorem logSave_keeps (s : State) (reason : Nat) :
    fixed ((State.logSave s reason).1) = fixed s ∧ (State.logSave s reason).1.adMem = s.adMem := by
  constructor
  · unfold State.logSave
    repeat' first
      | with_reducible rfl
      | simp only [fixed_mk, addWrite_keeps, count_keeps]
      | split
  · unfold State.logSave
    repeat' first
      | with_reducible rfl
      | simp only [addWrite_keeps, count_keeps]
      | split

/-! Machine/Control.lean. -/

theorem negotiate_keeps (s : State) (tk : Taken) :
    (fixed (State.negotiate s tk)).kept = (fixed s).kept ∧ (State.negotiate s tk).adMem = s.adMem := by
  constructor
  · simp only [State.negotiate, kept_mk, answer_keeps, apply_ite fixed, apply_ite Fixed.kept,
      ite_self]
  · simp only [State.negotiate, answer_keeps, apply_ite State.adMem, ite_self]

theorem setScope_keeps (s : State) (i : ScopeId) (st : Scope) :
    (fixed (State.setScope s i st)).kept = (fixed s).kept ∧ (State.setScope s i st).adMem = s.adMem := by
  constructor
  · unfold State.setScope
    repeat' first
      | with_reducible rfl
      | simp only [kept_mk, setRing_keeps, statusLine_keeps, setTenant_keeps, apply_ite fixed, ite_self]
      | split
  · unfold State.setScope
    repeat' first
      | with_reducible rfl
      | simp only [setRing_keeps, statusLine_keeps, setTenant_keeps, apply_ite State.adMem, ite_self]
      | split

theorem startEngine_keeps (s : State) (hdrs : List (Word × DescBytes)) :
    (fixed (State.startEngine s hdrs)).kept = (fixed s).kept ∧ (State.startEngine s hdrs).adMem = s.adMem := by
  constructor
  · simp only [State.startEngine, kept_mk, finishRows_keeps, boundary_keeps, foldl_kept, implies_true,
      apply_ite fixed, ite_self]
  · simp only [State.startEngine, finishRows_keeps, boundary_keeps, foldl_adMem, implies_true,
      apply_ite State.adMem, ite_self]

theorem applyEnable_keeps (s : State) (i : ScopeId) (hdrs : List (Word × DescBytes)) :
    (fixed (State.applyEnable s i hdrs)).kept = (fixed s).kept ∧ (State.applyEnable s i hdrs).adMem = s.adMem := by
  constructor
  · unfold State.applyEnable
    repeat' first
      | with_reducible rfl
      | simp only [setScope_keeps, startEngine_keeps]
      | split
  · unfold State.applyEnable
    repeat' first
      | with_reducible rfl
      | simp only [setScope_keeps, startEngine_keeps]
      | split

theorem applyQuiesce_kept (s : State) (i : ScopeId) (n : Nat) :
    (fixed (State.applyQuiesce s i n)).kept = (fixed s).kept := by
  unfold State.applyQuiesce
  repeat' first
    | with_reducible rfl
    | simp only [kept_mk, updTick_keeps, enterIdle_fixed, setScope_keeps, apply_ite fixed, apply_ite Fixed.kept, ite_self]
    | split

theorem applyQuiesce_mem (s : State) (i : ScopeId) (n : Nat) (hm : Memory.wf s.adMem) :
    Memory.wf (State.applyQuiesce s i n).adMem := by
  unfold State.applyQuiesce
  repeat' first
    | assumption
    | with_reducible apply enterIdle_mem
    | simp only [updTick_keeps, setScope_keeps]
    | split
    | dsimp only

theorem enableReq_keeps (hdrs : List (Word × DescBytes)) (s : State) (tk : Taken) :
    (fixed (State.enableReq hdrs s tk)).kept = (fixed s).kept ∧ (State.enableReq hdrs s tk).adMem = s.adMem := by
  constructor
  · unfold State.enableReq
    repeat' first
      | with_reducible rfl
      | simp only [answer_keeps, park_keeps, setScope_keeps, applyEnable_keeps, apply_ite fixed, apply_ite Fixed.kept,
        ite_self]
      | split
  · unfold State.enableReq
    repeat' first
      | with_reducible rfl
      | simp only [answer_keeps, park_keeps, setScope_keeps, applyEnable_keeps, apply_ite State.adMem, ite_self]
      | split

theorem quiesceReq_kept (s : State) (tk : Taken) :
    (fixed (State.quiesceReq s tk)).kept = (fixed s).kept := by
  unfold State.quiesceReq
  repeat' first
    | with_reducible rfl
    | simp only [answer_keeps, park_keeps, applyQuiesce_kept]
    | split

theorem quiesceReq_mem (s : State) (tk : Taken) (hm : Memory.wf s.adMem) :
    Memory.wf (State.quiesceReq s tk).adMem := by
  unfold State.quiesceReq
  repeat' first
    | assumption
    | with_reducible apply applyQuiesce_mem
    | simp only [answer_keeps, park_keeps]
    | split
    | dsimp only

theorem finishDrain_keeps (s : State) (i : ScopeId) :
    (fixed (State.finishDrain s i)).kept = (fixed s).kept ∧ (State.finishDrain s i).adMem = s.adMem := by
  constructor
  · simp only [State.finishDrain, finishWhere_keeps, setScope_keeps, applyEnable_keeps, apply_ite fixed, apply_ite Fixed.kept,
      ite_self]
  · simp only [State.finishDrain, finishWhere_keeps, setScope_keeps, applyEnable_keeps, apply_ite State.adMem, ite_self]

theorem drainEngine_keeps (s : State) :
    (fixed (State.drainEngine s)).kept = (fixed s).kept ∧ (State.drainEngine s).adMem = s.adMem := by
  constructor
  · simp only [State.drainEngine, kept_mk, logSave_keeps, finishDrain_keeps, apply_ite fixed, apply_ite Fixed.kept, ite_self]
  · simp only [State.drainEngine, logSave_keeps, finishDrain_keeps, apply_ite State.adMem, ite_self]

theorem saveDone_keeps (s : State) :
    (fixed (State.saveDone s)).kept = (fixed s).kept ∧ (State.saveDone s).adMem = s.adMem := by
  constructor
  · simp only [State.saveDone, finishDrain_keeps, apply_ite fixed, apply_ite Fixed.kept, ite_self]
  · simp only [State.saveDone, finishDrain_keeps, apply_ite State.adMem, ite_self]

/-! Machine/Readback.lean. -/

theorem endCapture_keeps (s : State) (b : Readback) :
    fixed (State.endCapture s b) = fixed s ∧ (State.endCapture s b).adMem = s.adMem := by
  constructor
  · simp only [State.endCapture, fixed_mk]
  · simp only [State.endCapture]

theorem captureRead_keeps (s : State) :
    fixed (State.captureRead s) = fixed s ∧ (State.captureRead s).adMem = s.adMem := by
  constructor
  · simp only [State.captureRead, addRead_keeps, apply_ite fixed, ite_self]
  · simp only [State.captureRead, addRead_keeps, apply_ite State.adMem, ite_self]

theorem rbStart_keeps (s : State) :
    fixed (State.rbStart s) = fixed s ∧ (State.rbStart s).adMem = s.adMem := by
  constructor
  · unfold State.rbStart
    repeat' first
      | with_reducible rfl
      | simp only [fixed_mk, captureRead_keeps, apply_ite fixed]
      | split
  · unfold State.rbStart
    repeat' first
      | with_reducible rfl
      | simp only [captureRead_keeps, apply_ite State.adMem]
      | split

theorem rbAbort_keeps (s : State) :
    fixed (State.rbAbort s) = fixed s ∧ (State.rbAbort s).adMem = s.adMem := by
  constructor
  · simp only [State.rbAbort, endCapture_keeps, apply_ite fixed, ite_self]
  · simp only [State.rbAbort, endCapture_keeps, apply_ite State.adMem, ite_self]

/-! Machine/Snapshot.lean. -/

theorem snapshotReq_keeps (s : State) (tk : Taken) :
    fixed (State.snapshotReq s tk) = fixed s ∧ (State.snapshotReq s tk).adMem = s.adMem := by
  constructor
  · simp only [State.snapshotReq, fixed_mk, answer_keeps, park_keeps, apply_ite fixed, ite_self]
  · simp only [State.snapshotReq, answer_keeps, park_keeps, apply_ite State.adMem, ite_self]

theorem endSnap_keeps (s : State) (x : Snap) (a : Answer) :
    fixed (State.endSnap s x a) = fixed s ∧ (State.endSnap s x a).adMem = s.adMem := by
  constructor
  · unfold State.endSnap
    repeat' first
      | with_reducible rfl
      | simp only [fixed_mk, finish_keeps]
      | split
  · unfold State.endSnap
    repeat' first
      | with_reducible rfl
      | simp only [finish_keeps]
      | split

theorem writeSections_keeps (s : State) (dest : Nat) (xs : List (Nat × List Byte × Nat)) :
    fixed (s.writeSections dest xs) = fixed s ∧ (s.writeSections dest xs).adMem = s.adMem := by
  induction xs generalizing s with
  | nil => exact ⟨rfl, rfl⟩
  | cons x xs ih =>
    obtain ⟨i, bs, off⟩ := x
    unfold State.writeSections
    simp only [ih]
    split
    · exact ⟨rfl, rfl⟩
    · exact addWrite_keeps _ _ _ _ _

theorem takeSnap_keeps (s : State) (x : Snap) :
    fixed (State.takeSnap s x) = fixed s ∧ (State.takeSnap s x).adMem = s.adMem := by
  constructor
  · simp only [State.takeSnap, fixed_mk, addWrite_keeps, logSave_keeps, endSnap_keeps, writeSections_keeps,
      apply_ite fixed, ite_self]
  · simp only [State.takeSnap, addWrite_keeps, logSave_keeps, endSnap_keeps, writeSections_keeps,
      apply_ite State.adMem, ite_self]

/-! Machine/Power.lean. -/

theorem updPower_keeps (s : State) {f : Power → Power} (hf : (f s.power).halted = s.power.halted) :
    fixed (s.updPower f) = fixed s ∧ (s.updPower f).adMem = s.adMem :=
  ⟨fixed_mk hf rfl rfl rfl, rfl⟩

theorem passUs_keeps (s : State) :
    fixed (State.passUs s) = fixed s ∧ (State.passUs s).adMem = s.adMem := by
  constructor
  · simp only [State.passUs, count_keeps, histAdd_keeps, updPower_keeps, apply_ite fixed, ite_self]
  · simp only [State.passUs, count_keeps, histAdd_keeps, updPower_keeps, apply_ite State.adMem, ite_self]

theorem govern_keeps (s : State) : fixed s.govern = fixed s ∧ s.govern.adMem = s.adMem := by
  have h (t : State) (p : Power) (hp : p.halted = t.power.halted) := updPower_keeps t (f := fun _ => p) hp
  unfold State.govern
  dsimp only
  split
  · exact ⟨(h _ _ rfl).1.trans (count_keeps ..).1, (h _ _ rfl).2.trans (count_keeps ..).2⟩
  · split
    · exact ⟨(h _ _ rfl).1.trans (count_keeps ..).1, (h _ _ rfl).2.trans (count_keeps ..).2⟩
    · exact h _ _ rfl

theorem health_keeps (s : State) (was is : Bool) :
    fixed (State.health s was is) = fixed s ∧ (State.health s was is).adMem = s.adMem := by
  constructor
  · simp only [State.health, raise_keeps, apply_ite fixed, ite_self]
  · simp only [State.health, raise_keeps, apply_ite State.adMem, ite_self]

theorem record_keeps (s : State) (r : SensorRep) :
    fixed (State.record s r) = fixed s ∧ (State.record s r).adMem = s.adMem := by
  constructor
  · simp only [State.record, fixed_mk, updPower_keeps]
  · simp only [State.record, updPower_keeps]

theorem levels_keeps (s : State) :
    fixed (State.levels s) = fixed s ∧ (State.levels s).adMem = s.adMem := by
  constructor
  · simp only [State.levels, count_keeps, updPower_keeps, health_keeps, apply_ite fixed, ite_self]
  · simp only [State.levels, count_keeps, updPower_keeps, health_keeps, apply_ite State.adMem, ite_self]

theorem tripPin_keeps (s : State) (tj : Int) :
    fixed (State.tripPin s tj) = fixed s ∧ (State.tripPin s tj).adMem = s.adMem := by
  constructor
  · simp only [State.tripPin, updPower_keeps]
  · simp only [State.tripPin, updPower_keeps]

theorem resumeIssue_fixed (s : State) : fixed s.resumeIssue = fixed s := by
  have u (n : Nat) (s : State) := updPower_keeps s (f := fun p => { p with ramping := n }) rfl
  unfold State.resumeIssue
  simp only [apply_ite fixed, proceed_fixed, pumpDone_keeps, pumpLink_keeps, foldl_fixed, implies_true, u, ite_self]

theorem resumeIssue_mem (s : State) (hm : Memory.wf s.adMem) : Memory.wf s.resumeIssue.adMem := by
  have u (n : Nat) (s : State) := updPower_keeps s (f := fun p => { p with ramping := n }) rfl
  unfold State.resumeIssue
  dsimp only
  split
  · exact hm
  · split
    · exact proceed_mem _ _ _ (by simpa only [pumpDone_keeps, pumpLink_keeps, foldl_adMem, implies_true, u] using hm)
    · simpa only [pumpDone_keeps, pumpLink_keeps, foldl_adMem, implies_true, u] using hm

/-! Machine/CfgPort.lean. -/

theorem clearPend_keeps (s : State) (v : Word) :
    fixed (State.clearPend s v) = fixed s ∧ (State.clearPend s v).adMem = s.adMem := by
  constructor
  · simp only [State.clearPend, fixed_mk]
  · simp only [State.clearPend]

theorem clearErrs_keeps (s : State) (v : Word) :
    fixed (State.clearErrs s v) = fixed s ∧ (State.clearErrs s v).adMem = s.adMem := by
  constructor
  · simp only [State.clearErrs, fixed_mk]
  · simp only [State.clearErrs]

theorem writeCap_keeps (s : State) (v : Word) :
    (fixed (State.writeCap s v)).kept = (fixed s).kept ∧ (State.writeCap s v).adMem = s.adMem := by
  constructor
  · simp only [State.writeCap, setReg_keeps, updPower_keeps, health_keeps]
  · simp only [State.writeCap, setReg_keeps, updPower_keeps, health_keeps]

theorem writeKeyCtl_keeps (s : State) (v : Word) :
    (fixed (State.writeKeyCtl s v)).kept = (fixed s).kept ∧ (State.writeKeyCtl s v).adMem = s.adMem := by
  constructor
  · simp only [State.writeKeyCtl, setReg_keeps, apply_ite fixed, apply_ite Fixed.kept, ite_self]
  · simp only [State.writeKeyCtl, setReg_keeps, apply_ite State.adMem, ite_self]

theorem writeKey_keeps (s : State) (v : Word) :
    (fixed (State.writeKey s v)).kept = (fixed s).kept ∧ (State.writeKey s v).adMem = s.adMem := by
  constructor
  · simp only [State.writeKey, kept_mk, apply_ite fixed, apply_ite Fixed.kept, ite_self]
  · simp only [State.writeKey, apply_ite State.adMem, ite_self]

theorem fwStart_keeps (s : State) :
    fixed (State.fwStart s) = fixed s ∧ (State.fwStart s).adMem = s.adMem := by
  constructor
  · simp only [State.fwStart, fixed_mk, addRead_keeps, apply_ite fixed, ite_self]
  · simp only [State.fwStart, addRead_keeps, apply_ite State.adMem, ite_self]

theorem writeRingCfg_keeps (s : State) (k : Nat) (v : Word) :
    (fixed (State.writeRingCfg s k v)).kept = (fixed s).kept ∧ (State.writeRingCfg s k v).adMem = s.adMem := by
  constructor
  · simp only [State.writeRingCfg, setReg_keeps, setRing_keeps, statusLine_keeps, apply_ite fixed,
      apply_ite Fixed.kept, ite_self]
  · simp only [State.writeRingCfg, setReg_keeps, setRing_keeps, statusLine_keeps, apply_ite State.adMem, ite_self]

theorem writeRingReg_keeps (s : State) (k place off : Nat) (v : Word) :
    (fixed (State.writeRingReg s k place off v)).kept = (fixed s).kept
      ∧ (State.writeRingReg s k place off v).adMem = s.adMem := by
  constructor
  · simp only [State.writeRingReg, setReg_keeps, writeRingCfg_keeps, apply_ite fixed, apply_ite Fixed.kept, ite_self]
  · simp only [State.writeRingReg, setReg_keeps, writeRingCfg_keeps, apply_ite State.adMem, ite_self]

theorem writeRbCtl_keeps (s : State) (v : Word) :
    fixed (State.writeRbCtl s v) = fixed s ∧ (State.writeRbCtl s v).adMem = s.adMem := by
  constructor
  · simp only [State.writeRbCtl, rbStart_keeps, rbAbort_keeps, apply_ite fixed, ite_self]
  · simp only [State.writeRbCtl, rbStart_keeps, rbAbort_keeps, apply_ite State.adMem, ite_self]

theorem writeStored_keeps (s : State) (off : Nat) (v : Word) :
    (fixed (State.writeStored s off v)).kept = (fixed s).kept ∧ (State.writeStored s off v).adMem = s.adMem := by
  constructor
  · simp only [State.writeStored, setReg_keeps, errIrq_keeps, portUp_keeps, apply_ite fixed, apply_ite Fixed.kept, ite_self]
  · simp only [State.writeStored, setReg_keeps, errIrq_keeps, portUp_keeps, apply_ite State.adMem, ite_self]

theorem writeReg_keeps (s : State) (off : Nat) (v : Word) :
    (fixed (s.writeReg off v)).kept = (fixed s).kept ∧ (s.writeReg off v).adMem = s.adMem := by
  unfold State.writeReg
  constructor
  · cases ringOff off <;>
      simp only [apply_ite fixed, apply_ite Fixed.kept, writeRingReg_keeps, kept_mk, writeKey_keeps, writeKeyCtl_keeps,
        fwStart_keeps,
        startJoin_keeps, writeCap_keeps, clearErrs_keeps, clearPend_keeps, portReset_keeps, logSave_keeps, writeStored_keeps,
        writeRbCtl_keeps, ite_self]
  · cases ringOff off <;>
      simp only [apply_ite State.adMem, writeRingReg_keeps, writeKey_keeps, writeKeyCtl_keeps, fwStart_keeps, startJoin_keeps,
        writeCap_keeps, clearErrs_keeps, clearPend_keeps, portReset_keeps, logSave_keeps, writeStored_keeps, writeRbCtl_keeps,
        ite_self]

theorem readClear_keeps (s : State) (off : Nat) :
    fixed (State.readClear s off) = fixed s ∧ (State.readClear s off).adMem = s.adMem := by
  constructor
  · simp only [State.readClear, fixed_mk, setAt_length, setLink_keeps, updPower_keeps, apply_ite fixed, ite_self]
  · simp only [State.readClear, setLink_keeps, updPower_keeps, apply_ite State.adMem, ite_self]

/-! Machine/Reset.lean. -/

theorem configRegs_keeps (s : State) :
    (fixed (State.configRegs s)).kept = (fixed s).kept ∧ (State.configRegs s).adMem = s.adMem := by
  constructor
  · simp only [State.configRegs, setReg_keeps]
  · simp only [State.configRegs, setReg_keeps]

theorem dropWrites_keeps (s : State) (p : HostWrite → Bool) :
    fixed (State.dropWrites s p) = fixed s ∧ (State.dropWrites s p).adMem = s.adMem := by
  constructor
  · simp only [State.dropWrites, fixed_mk]
  · simp only [State.dropWrites]

theorem loseLinks_keeps (s : State) :
    fixed (State.loseLinks s) = fixed s ∧ (State.loseLinks s).adMem = s.adMem := by
  constructor
  · simp only [State.loseLinks, fixed_mk]
  · simp only [State.loseLinks]

theorem restartMoves_keeps (s : State) (q : Req) :
    fixed (State.restartMoves s q) = fixed s ∧ (State.restartMoves s q).adMem = s.adMem := by
  constructor
  · simp only [State.restartMoves, fixed_mk, setReq_keeps, startPageMove_keeps, foldl_fixed, implies_true, apply_ite fixed,
      ite_self]
  · simp only [State.restartMoves, setReq_keeps, startPageMove_keeps, foldl_adMem, implies_true, apply_ite State.adMem,
      ite_self]

theorem undoLine_keeps (s : State) (l : Nat) :
    fixed (State.undoLine s l) = fixed s ∧ (State.undoLine s l).adMem = s.adMem := by
  constructor
  · simp only [State.undoLine, updReq_keeps, updLine_keeps, dropWrites_keeps, foldl_fixed, implies_true, apply_ite fixed, ite_self]
  · simp only [State.undoLine, updReq_keeps, updLine_keeps, dropWrites_keeps, foldl_adMem, implies_true, apply_ite State.adMem, ite_self]

theorem undoHead_keeps (s : State) :
    fixed (State.undoHead s) = fixed s ∧ (State.undoHead s).adMem = s.adMem := by
  constructor <;> simp only [State.undoHead, undoLine_keeps]

theorem discardRows_keeps (s : State) :
    fixed (State.discardRows s) = fixed s ∧ (State.discardRows s).adMem = s.adMem := by
  constructor
  · simp only [State.discardRows, fixed_mk, syncPending_keeps, foldl_fixed, implies_true]
  · simp only [State.discardRows, syncPending_keeps, foldl_adMem, implies_true]

theorem losePlatforms_fixed (s : State) :
    fixed (State.losePlatforms s) = fixed s := by
  simp only [State.losePlatforms, fixed_mk, dropPriors_fixed]

theorem losePlatforms_mem (s : State) (hm : Memory.wf s.adMem) :
    Memory.wf (State.losePlatforms s).adMem := by
  unfold State.losePlatforms
  repeat' first
    | assumption
    | with_reducible apply dropPriors_mem
    | refine memPutAll_wf ?_ _ _
    | split
    | refine foldl_mem (fun _ _ _ => ?_) _ ?_
    | refine foldl_wf (fun _ _ _ => ?_) _ ?_
    | dsimp only

theorem warmReset_kept (s : State) :
    (fixed (State.warmReset s)).kept = (fixed s).kept := by
  simp only [State.warmReset, kept_mk, count_keeps, finishWhere_keeps, poisonObject_keeps, startMoves_keeps, dropWrites_keeps,
    loseLinks_keeps, restartMoves_keeps, undoHead_keeps, discardRows_keeps, losePlatforms_fixed, foldl_kept, implies_true]

theorem warmReset_mem (s : State) (hm : Memory.wf s.adMem) :
    Memory.wf (State.warmReset s).adMem := by
  unfold State.warmReset
  repeat' first
    | assumption
    | with_reducible apply losePlatforms_mem
    | simp only [count_keeps, finishWhere_keeps, poisonObject_keeps, startMoves_keeps, dropWrites_keeps, loseLinks_keeps,
      restartMoves_keeps, undoHead_keeps, discardRows_keeps]
    | split
    | refine foldl_mem (fun _ _ _ => ?_) _ ?_
    | refine foldl_wf (fun _ _ _ => ?_) _ ?_
    | dsimp only

end Sys2Proof.Laws
end

