-- ==== Sys2Proof/Laws/Calm.lean ====
section
/-! SUPPORT. What the operations of completions, interrupts, errors and counters touch: the traffic with the host (writes, links,
interrupts, rings, taken descriptors, the digest's record of them), the error bits, the logbook and the inputs of a build that
begins, and nothing else. `calm` is a state with all of that emptied; each operation leaves it. -/
namespace Sys2Proof.Laws
open Sys2Proof Sys2Proof.Machine

/-- A record update of the traffic. -/
theorem calm_mk {x : State}
    {errs : BitVec 17} {errFirst : Option Nat} {errTick : Word} {irqPend : BitVec 5} {complAt : Option Nat}
    {complDue : Bool} {tokenAt : Option Nat} {tokenDue : Bool} {rings : Vector Ring 8} {taken : List Taken}
    {unsol : List Unsol} {writes : List HostWrite} {nextId : Nat} {links : Vector Link 32} {digest : Digest}
    {log : Logbook} {inputs : Option Inputs} {free : Nat} :
    calm (State.mk
    x.pending x.now free x.build x.fuses x.powered x.rstN x.warmN x.wrapper x.hb x.tickAck x.stopDone x.regs x.keys
    x.budget x.shuntBw x.shuntCfg x.yardCfg x.manCfg x.exitCfg x.tableCfg x.negot x.fw x.reserve errs errFirst errTick
    irqPend complAt complDue tokenAt tokenDue x.engine x.quiesceAt x.trains rings taken unsol writes x.reads nextId links
    x.xch x.tick x.last x.lines inputs x.frames digest x.reqs x.gens x.opens x.finals x.used2 x.used4 x.dirs x.charges x.headRuns x.tmap
    x.stale x.tierOld x.tenants x.rowUps x.flips x.lastSeq x.specials x.trainErr x.cache x.fetched x.bands x.results x.snaps x.rb x.power log
    x.adMem) = calm x := rfl

/-- A fold of operations that leave the rest. -/
theorem foldl_calm {α : Type} {f : State → α → State} (hf : ∀ s a, calm (f s a) = calm s) (xs : List α) (s : State) :
    calm (xs.foldl f s) = calm s := by
  induction xs generalizing s with
  | nil => rfl
  | cons x xs ih => exact (ih _).trans (hf s x)

theorem setLink_calm (s : State) (c : Nat) (l : Link) : calm (State.setLink s c l) = calm s := by
  simp only [State.setLink, calm_mk]

theorem pumpLink_calm (s : State) (c : Nat) : calm (State.pumpLink s c) = calm s := by
  have one (s : State) (c : Nat) : calm (s.pumpOne c) = calm s := by
    simp only [State.pumpOne, setLink_calm, apply_ite calm, ite_self]
  simp only [State.pumpLink, one, apply_ite calm, ite_self]

theorem send_calm (s : State) (c : Nat) (fs : List Flit) : calm (State.send s c fs) = calm s := by
  simp only [State.send, pumpLink_calm, setLink_calm]

theorem sendWrite_calm (s : State) (w : HostWrite) : calm (s.sendWrite w).1 = calm s := by
  unfold State.sendWrite
  split
  · rfl
  · dsimp only
    split
    · exact send_calm _ _ _
    · rfl

theorem sendReady_calm (s : State) : calm s.sendReady = calm s := by
  have h (xs : List HostWrite) (a : State × List HostWrite) :
      calm (xs.foldl (fun (a : State × List HostWrite) w => ((a.1.sendWrite w).1, a.2 ++ [(a.1.sendWrite w).2])) a).1 = calm a.1 := by
    induction xs generalizing a with
    | nil => rfl
    | cons x xs ih => exact (ih _).trans (sendWrite_calm _ _)
  exact h s.writes (s, [])

theorem addWrite_calm (s : State) (k : WKind) (addr : Nat) (data : List Byte) (after : List Nat) : calm (State.addWrite s k addr data after) = calm s := by
  unfold State.addWrite
  repeat' first
    | with_reducible rfl
    | simp only [calm_mk, sendReady_calm]
    | split
    | refine (foldl_calm (fun _ _ => ?_) _ _).trans ?_

theorem count_calm (s : State) (c : Cnt) (n : Nat) : calm (State.count s c n) = calm s := by
  simp only [State.count, calm_mk]

theorem raise_calm (s : State) (src : Nat) : calm (State.raise s src) = calm s := by
  simp only [State.raise, calm_mk, addWrite_calm, apply_ite calm, ite_self]

theorem raiseCompl_calm (s : State) : calm (State.raiseCompl s) = calm s := by
  unfold State.raiseCompl
  repeat' first
    | with_reducible rfl
    | simp only [calm_mk, raise_calm, apply_ite calm, ite_self]
    | split

theorem raiseToken_calm (s : State) : calm (State.raiseToken s) = calm s := by
  unfold State.raiseToken
  repeat' first
    | with_reducible rfl
    | simp only [calm_mk, raise_calm, apply_ite calm, ite_self]
    | split

theorem due_calm (s : State) (src : Nat) : calm (State.due s src) = calm s := by
  simp only [State.due, raise_calm, raiseCompl_calm, raiseToken_calm, apply_ite calm, ite_self]

theorem errIrq_calm (s : State) : calm (State.errIrq s) = calm s := by
  simp only [State.errIrq, raise_calm, apply_ite calm, ite_self]

theorem setErr_calm (s : State) (e : Err) : calm (State.setErr s e) = calm s := by
  simp only [State.setErr, calm_mk, errIrq_calm]

theorem errIf_calm (s : State) (c : Bool) (e : Err) : calm (State.errIf s c e) = calm s := by
  simp only [State.errIf, setErr_calm, apply_ite calm, ite_self]

theorem releaseOnce_calm (s : State) : calm (State.releaseOnce s) = calm s := by
  simp only [State.releaseOnce, calm_mk, sendReady_calm, due_calm, foldl_calm, implies_true]

theorem ackWrite_calm (s : State) (id : Nat) : calm (State.ackWrite s id) = calm s := by
  simp only [State.ackWrite, calm_mk, releaseOnce_calm]

theorem reissue_calm (s : State) : calm (State.reissue s) = calm s := by
  simp only [State.reissue, calm_mk, releaseOnce_calm]

theorem raiseAfter_calm (s : State) (src : Nat) (after : List Nat) : calm (State.raiseAfter s src after) = calm s := by
  simp only [State.raiseAfter, calm_mk, releaseOnce_calm]

theorem setRing_calm (s : State) (k : Nat) (r : Ring) : calm (State.setRing s k r) = calm s := by
  simp only [State.setRing, calm_mk]

theorem statusLine_calm (s : State) (k : Nat) : calm (State.statusLine s k) = calm s := by
  simp only [State.statusLine, addWrite_calm]

theorem writeRecord_calm (s : State) (k : Nat) (data : List Byte) (resv : Nat) (srcs : List Nat) : calm (State.writeRecord s k data resv srcs) = calm s := by
  simp only [State.writeRecord, addWrite_calm, raiseAfter_calm, setRing_calm, statusLine_calm, foldl_calm, implies_true]

theorem finish_calm (s : State) (tk : Taken) (a : Answer) : calm (State.finish s tk a) = calm s := by
  simp only [State.finish, calm_mk, writeRecord_calm]

theorem sec1Add_calm (s : State) (tk : Taken) (status : Nat) (extra : List Byte) : calm (State.sec1Add s tk status extra) = calm s := by
  simp only [State.sec1Add, calm_mk, apply_ite calm, ite_self]

theorem doneAdd_calm (s : State) (tk : Taken) (status : Nat) : calm (State.doneAdd s tk status) = calm s := by
  simp only [State.doneAdd, calm_mk, apply_ite calm, ite_self]

theorem finishRows_calm (s : State) (tk : Taken) (a : Answer) : calm (State.finishRows s tk a) = calm s := by
  simp only [State.finishRows, doneAdd_calm, finish_calm]

theorem answer_calm (s : State) (tk : Taken) (a : Answer) : calm (State.answer s tk a) = calm s := by
  simp only [State.answer, finish_calm, doneAdd_calm, sec1Add_calm]

theorem park_calm (s : State) (tk : Taken) (p : Pend) : calm (State.park s tk p) = calm s := by
  simp only [State.park, calm_mk, sec1Add_calm]

theorem finishWhere_calm (s : State) (p : Pend → Bool) (a : Answer) : calm (State.finishWhere s p a) = calm s := by
  simp only [State.finishWhere, finish_calm, foldl_calm, implies_true]

theorem unsolWrite_calm (s : State) (u : Unsol) : calm (State.unsolWrite s u) = calm s := by
  simp only [State.unsolWrite, writeRecord_calm]

theorem unsolEvent_calm (s : State) (status r0 r1 : Nat) : calm (State.unsolEvent s status r0 r1) = calm s := by
  simp only [State.unsolEvent, calm_mk, count_calm, setErr_calm, unsolWrite_calm, apply_ite calm, ite_self]

theorem unsolDrain_calm (s : State) (us : List Unsol) : calm (s.unsolDrain us) = calm s := by
  induction us generalizing s with
  | nil => rfl
  | cons u us ih =>
    unfold State.unsolDrain
    split
    · simp only [ih, unsolWrite_calm]
    · rfl

theorem rejectUnknown_calm (s : State) (n : Nat) : calm (s.rejectUnknown n) = calm s := by
  induction n generalizing s with
  | zero => rfl
  | succ n ih =>
    unfold State.rejectUnknown
    split
    · split
      · simp only [ih, answer_calm]
      · rfl
    · rfl

theorem beginBuild_calm (s : State) : calm s.beginBuild = calm s := by
  unfold State.beginBuild
  split
  · split
    · rfl
    · simp only [calm_mk]
  · rfl

end Sys2Proof.Laws
end

