-- ==== Sys2Proof/Laws/Answers.lean ====
section
/-! SUPPORT. What completing a descriptor leaves behind: its record stands, it is taken no longer, and a later completion, status
line, error or interrupt takes nothing of that away. -/
namespace Sys2Proof.Laws
open Sys2Proof Sys2Proof.Machine

/-- Not the interrupt that follows a set of writes. -/
def real : WKind → Prop
  | .raise _ => False
  | _ => True

/-- Every write of `s` still stands in `t`, issued or not. -/
def Carries (s t : State) : Prop :=
  ∀ w ∈ s.writes, real w.kind → ∃ v ∈ t.writes, v.kind = w.kind ∧ v.addr = w.addr ∧ v.data = w.data

theorem Carries.refl (s : State) : Carries s s := fun w hw _ => ⟨w, hw, rfl, rfl, rfl⟩

theorem Carries.trans {s t u : State} (h : Carries s t) (k : Carries t u) : Carries s u := by
  intro w hw hr
  obtain ⟨v, hv, h1, h2, h3⟩ := h w hw hr
  obtain ⟨x, hx, k1, k2, k3⟩ := k v hv (h1 ▸ hr)
  exact ⟨x, hx, k1.trans h1, k2.trans h2, k3.trans h3⟩

theorem Carries.of_eq {s t : State} (h : t.writes = s.writes) : Carries s t := fun w hw _ => ⟨w, h ▸ hw, rfl, rfl, rfl⟩

theorem Carries.outstanding {s t : State} (h : Carries s t) {k : WKind} (hk : real k) {a : Nat} {d : List Byte}
    (o : s.outstanding k a d) : t.outstanding k a d := by
  intro p hp
  obtain ⟨w, hw, h1, h2, h3⟩ := o p hp
  obtain ⟨v, hv, k1, k2, k3⟩ := h w hw (h1 ▸ hk)
  exact ⟨v, hv, k1.trans h1, k2.trans h2, k3.trans h3⟩

/-- An operation that carries the writes and leaves the taken descriptors, and with it a fold of such operations. -/
def Gentle (s t : State) : Prop := Carries s t ∧ t.taken = s.taken

theorem Gentle.refl (s : State) : Gentle s s := ⟨Carries.refl s, rfl⟩

theorem Gentle.trans {s t u : State} (h : Gentle s t) (k : Gentle t u) : Gentle s u := ⟨h.1.trans k.1, k.2.trans h.2⟩

theorem Gentle.of_eq {s t : State} (h : t.writes = s.writes) (k : t.taken = s.taken) : Gentle s t := ⟨Carries.of_eq h, k⟩

/-- An update of other fields, then a gentle operation. -/
theorem Gentle.after {s t u : State} (k : Gentle t u) (h1 : t.writes = s.writes) (h2 : t.taken = s.taken) : Gentle s u :=
  (Gentle.of_eq h1 h2).trans k

theorem foldl_gentle {α : Type} {f : State → α → State} (hf : ∀ s a, Gentle s (f s a)) (xs : List α) (s : State) :
    Gentle s (xs.foldl f s) := by
  induction xs generalizing s with
  | nil => exact Gentle.refl s
  | cons x xs ih => exact (hf s x).trans (ih _)

theorem pumpLink_writes (s : State) (c : Nat) : (s.pumpLink c).writes = s.writes ∧ (s.pumpLink c).taken = s.taken := by
  have one (s : State) (c : Nat) : (s.pumpOne c).writes = s.writes ∧ (s.pumpOne c).taken = s.taken := by
    unfold State.pumpOne
    split <;> exact ⟨rfl, rfl⟩
  unfold State.pumpLink
  split
  · exact ⟨(one _ _).1.trans (one _ _).1, (one _ _).2.trans (one _ _).2⟩
  · exact one _ _

theorem send_writes (s : State) (c : Nat) (fs : List Flit) : (s.send c fs).writes = s.writes ∧ (s.send c fs).taken = s.taken :=
  pumpLink_writes _ c

theorem sendWrite_same (s : State) (w : HostWrite) :
    (s.sendWrite w).1.writes = s.writes ∧ (s.sendWrite w).1.taken = s.taken ∧ (s.sendWrite w).2.kind = w.kind
      ∧ (s.sendWrite w).2.addr = w.addr ∧ (s.sendWrite w).2.data = w.data ∧ (s.sendWrite w).2.id = w.id := by
  unfold State.sendWrite
  split
  · exact ⟨rfl, rfl, rfl, rfl, rfl, rfl⟩
  · dsimp only
    split
    · exact ⟨(send_writes ..).1, (send_writes ..).2, rfl, rfl, rfl, rfl⟩
    · exact ⟨rfl, rfl, rfl, rfl, rfl, rfl⟩

theorem sendReady_gentle (s : State) : Gentle s s.sendReady := by
  have h : ∀ (xs : List HostWrite) (a : State × List HostWrite),
      (∀ w ∈ xs, ∃ v ∈ (xs.foldl (fun (a : State × List HostWrite) w => ((a.1.sendWrite w).1, a.2 ++ [(a.1.sendWrite w).2])) a).2,
        v.kind = w.kind ∧ v.addr = w.addr ∧ v.data = w.data)
      ∧ (∀ w ∈ a.2, w ∈ (xs.foldl (fun (a : State × List HostWrite) w => ((a.1.sendWrite w).1, a.2 ++ [(a.1.sendWrite w).2])) a).2)
      ∧ (xs.foldl (fun (a : State × List HostWrite) w => ((a.1.sendWrite w).1, a.2 ++ [(a.1.sendWrite w).2])) a).1.taken = a.1.taken := by
    intro xs
    induction xs with
    | nil => intro a; exact ⟨fun _ h => absurd h (List.not_mem_nil), fun _ h => h, rfl⟩
    | cons x xs ih =>
      intro a
      obtain ⟨i1, i2, i3⟩ := ih ((a.1.sendWrite x).1, a.2 ++ [(a.1.sendWrite x).2])
      have hs := sendWrite_same a.1 x
      refine ⟨fun w hw => ?_, fun w hw => i2 w (List.mem_append_left _ hw), i3.trans hs.2.1⟩
      rcases List.mem_cons.1 hw with rfl | hw
      · exact ⟨_, i2 _ (List.mem_append_right _ (List.mem_singleton.2 rfl)), hs.2.2.1, hs.2.2.2.1, hs.2.2.2.2.1⟩
      · exact i1 w hw
  obtain ⟨h1, _, h3⟩ := h s.writes (s, [])
  exact ⟨fun w hw _ => h1 w hw, h3⟩

theorem addWrite_gentle (s : State) (k : WKind) (a : Nat) (d : List Byte) (after : List Nat) : Gentle s (s.addWrite k a d after) := by
  have h : ∀ (ps : List (Nat × List Byte)) (s : State), Gentle s (ps.foldl (fun (s : State) p =>
      { s with nextId := s.nextId + 1, writes := s.writes ++ [⟨s.nextId, k, p.1, p.2, after, false, false, 0⟩] }) s) :=
    foldl_gentle fun s p => ⟨fun w hw _ => ⟨w, List.mem_append_left _ hw, rfl, rfl, rfl⟩, rfl⟩
  exact (h _ s).trans (sendReady_gentle _)

theorem addWrite_outstanding (s : State) (k : WKind) (hk : real k) (a : Nat) (d : List Byte) (after : List Nat) :
    (s.addWrite k a d after).outstanding k a d := by
  have h : ∀ (ps : List (Nat × List Byte)) (s : State), ∀ p ∈ ps, ∃ w ∈ (ps.foldl (fun (s : State) p =>
      { s with nextId := s.nextId + 1, writes := s.writes ++ [⟨s.nextId, k, p.1, p.2, after, false, false, 0⟩] }) s).writes,
      w.kind = k ∧ w.addr = p.1 ∧ w.data = p.2 := by
    intro ps
    induction ps with
    | nil => intro _ _ h; exact absurd h (List.not_mem_nil)
    | cons x xs ih =>
      intro s p hp
      rcases List.mem_cons.1 hp with rfl | hp
      · have g := foldl_gentle (f := fun (s : State) (p : Nat × List Byte) =>
          { s with nextId := s.nextId + 1, writes := s.writes ++ [⟨s.nextId, k, p.1, p.2, after, false, false, 0⟩] })
          (fun s p => ⟨fun w hw _ => ⟨w, List.mem_append_left _ hw, rfl, rfl, rfl⟩, rfl⟩) xs
          { s with nextId := s.nextId + 1, writes := s.writes ++ [⟨s.nextId, k, p.1, p.2, after, false, false, 0⟩] }
        exact g.1 ⟨s.nextId, k, p.1, p.2, after, false, false, 0⟩ (List.mem_append_right _ (List.mem_singleton.2 rfl)) hk
      · exact ih _ p hp
  intro p hp
  obtain ⟨w, hw, h1, h2, h3⟩ := h _ s p hp
  obtain ⟨v, hv, k1, k2, k3⟩ := (sendReady_gentle _).1 w hw (h1 ▸ hk)
  exact ⟨v, hv, k1.trans h1, k2.trans h2, k3.trans h3⟩

theorem count_gentle (s : State) (c : Cnt) (n : Nat) : Gentle s (s.count c n) := Gentle.of_eq rfl rfl

theorem raise_gentle (s : State) (src : Nat) : Gentle s (s.raise src) := by
  unfold State.raise
  split
  · exact Gentle.refl s
  · dsimp only
    split
    · exact Gentle.after (addWrite_gentle _ _ _ _ _) rfl rfl
    · exact Gentle.of_eq rfl rfl

theorem raiseCompl_gentle (s : State) : Gentle s s.raiseCompl := by
  unfold State.raiseCompl
  split
  · split
    · exact Gentle.of_eq rfl rfl
    · exact Gentle.after (raise_gentle _ _) rfl rfl
  · exact Gentle.after (raise_gentle _ _) rfl rfl

theorem raiseToken_gentle (s : State) : Gentle s s.raiseToken := by
  unfold State.raiseToken
  split
  · split
    · exact Gentle.of_eq rfl rfl
    · exact Gentle.after (raise_gentle _ _) rfl rfl
  · exact Gentle.after (raise_gentle _ _) rfl rfl

theorem due_gentle (s : State) (src : Nat) : Gentle s (s.due src) := by
  unfold State.due
  split
  · exact raiseCompl_gentle s
  · split
    · exact raiseToken_gentle s
    · exact raise_gentle s src

theorem errIrq_gentle (s : State) : Gentle s s.errIrq := by
  unfold State.errIrq
  split
  · exact raise_gentle s 3
  · exact Gentle.refl s

theorem setErr_gentle (s : State) (e : Err) : Gentle s (s.setErr e) := Gentle.after (errIrq_gentle _) rfl rfl

theorem errIf_gentle (s : State) (c : Bool) (e : Err) : Gentle s (s.errIf c e) := by
  unfold State.errIf
  split
  · exact setErr_gentle s e
  · exact Gentle.refl s

theorem releaseOnce_gentle (s : State) : Gentle s s.releaseOnce := by
  unfold State.releaseOnce
  refine Gentle.trans ?_ (sendReady_gentle _)
  refine Gentle.trans ?_ (foldl_gentle due_gentle _ _)
  refine ⟨fun w hw hr => ⟨w, List.mem_filter.2 ⟨hw, ?_⟩, rfl, rfl, rfl⟩, rfl⟩
  show (!(w.after.isEmpty && _)) = true
  obtain ⟨_, k, _, _, _, _, _, _⟩ := w
  cases k <;> first | exact absurd hr id | simp only [Bool.and_false, Bool.not_false]

theorem raiseAfter_gentle (s : State) (src : Nat) (after : List Nat) : Gentle s (s.raiseAfter src after) :=
  by
  unfold State.raiseAfter
  refine Gentle.trans ?_ (releaseOnce_gentle _)
  exact ⟨fun w hw _ => ⟨w, List.mem_append_left _ hw, rfl, rfl, rfl⟩, rfl⟩

theorem setRing_gentle (s : State) (k : Nat) (r : Ring) : Gentle s (s.setRing k r) := Gentle.of_eq rfl rfl

theorem statusLine_gentle (s : State) (k : Nat) : Gentle s (s.statusLine k) := addWrite_gentle _ _ _ _ _

theorem writeRecord_gentle (s : State) (k : Nat) (data : List Byte) (resv : Nat) (srcs : List Nat) :
    Gentle s (s.writeRecord k data resv srcs) :=
  (((addWrite_gentle _ _ _ _ _).trans (setRing_gentle _ _ _)).trans (statusLine_gentle _ _)).trans
    (foldl_gentle (fun s src => raiseAfter_gentle s src (s.lastStatus k)) srcs _)

/-- A record written stands. -/
theorem writeRecord_outstanding (s : State) (k : Nat) (data : List Byte) (resv : Nat) (srcs : List Nat) :
    (s.writeRecord k data resv srcs).outstanding (.completion k)
      (s.addr64 (0x1048 + 0x20 * k) + 32 * ((s.ring k).cqTail.toNat % 2 ^ s.cqLog2 k)) data := by
  unfold State.writeRecord
  dsimp only
  refine ((foldl_gentle (fun s src => raiseAfter_gentle s src (s.lastStatus k)) srcs _).1).outstanding (k := .completion k) trivial ?_
  refine (statusLine_gentle _ k).1.outstanding (k := .completion k) trivial ?_
  refine (setRing_gentle _ k _).1.outstanding (k := .completion k) trivial ?_
  exact addWrite_outstanding _ (.completion k) trivial _ _ _

/-- A descriptor that completes leaves the taken ones. -/
theorem finish_taken (s : State) (tk : Taken) (a : Answer) :
    (s.finish tk a).taken = s.taken.filter fun t => !(t.ring = tk.ring && t.num = tk.num) :=
  (writeRecord_gentle _ _ _ _ _).2

theorem finish_carries (s : State) (tk : Taken) (a : Answer) : Carries s (s.finish tk a) := by
  have h : Carries s { s with taken := s.taken.filter fun t => !(t.ring = tk.ring && t.num = tk.num) } := Carries.of_eq rfl
  exact h.trans (writeRecord_gentle _ _ _ _ _).1

theorem finish_recorded (s : State) (tk : Taken) (a : Answer) :
    Recorded s (s.finish tk a) tk a (s.ring tk.ring).cqTail := writeRecord_outstanding _ _ _ _ _

theorem finish_answered (s : State) (tk : Taken) (a : Answer) : Answered s (s.finish tk a) tk a := by
  refine ⟨fun x hx => ?_, finish_recorded s tk a⟩
  rw [finish_taken] at hx
  exact fun ⟨h1, h2⟩ => by simpa [h1, h2] using (List.mem_filter.1 hx).2

theorem sec1Add_gentle (s : State) (tk : Taken) (st : Nat) (bs : List Byte) : Gentle s (s.sec1Add tk st bs) := by
  unfold State.sec1Add
  split
  · exact Gentle.of_eq rfl rfl
  · exact Gentle.refl s

theorem doneAdd_gentle (s : State) (tk : Taken) (st : Nat) : Gentle s (s.doneAdd tk st) := by
  unfold State.doneAdd
  split
  · exact Gentle.refl s
  · exact Gentle.of_eq rfl rfl

theorem answer_taken (s : State) (tk : Taken) (a : Answer) :
    (s.answer tk a).taken = s.taken.filter fun t => !(t.ring = tk.ring && t.num = tk.num) := by
  unfold State.answer
  rw [finish_taken, (doneAdd_gentle _ tk a.status).2, (sec1Add_gentle s tk a.status []).2]

theorem answer_carries (s : State) (tk : Taken) (a : Answer) : Carries s (s.answer tk a) :=
  ((sec1Add_gentle s tk a.status []).trans (doneAdd_gentle _ tk a.status)).1.trans (finish_carries _ tk a)

/-- The rings, the registers and the tick counter are those of `s`. -/
def Same (s t : State) : Prop := t.rings = s.rings ∧ t.regs = s.regs ∧ t.tick.count = s.tick.count

theorem Same.recorded {s s' t : State} (h : Same s s') {tk : Taken} {a : Answer} {c : Word} :
    Recorded s t tk a c ↔ Recorded s' t tk a c := by
  obtain ⟨_, h2, h3⟩ := h
  simp only [Recorded, State.addr64, State.cqLog2, State.rf, State.reg, State.tick32, h2, h3]

theorem Same.answered {s s' t : State} (h : Same s s') {tk : Taken} {a : Answer} : Answered s t tk a ↔ Answered s' t tk a := by
  have hr : s'.ring tk.ring = s.ring tk.ring := by simp only [State.ring, h.1]
  simp only [Answered, AnsweredAt, hr, h.recorded]

theorem answer_answered (s : State) (tk : Taken) (a : Answer) : Answered s (s.answer tk a) tk a := by
  have h1 : Same s (s.sec1Add tk a.status []) := by
    unfold State.sec1Add
    split <;> exact ⟨rfl, rfl, rfl⟩
  have h2 (s : State) : Same s (s.doneAdd tk a.status) := by
    unfold State.doneAdd
    split <;> exact ⟨rfl, rfl, rfl⟩
  exact h1.answered.2 ((h2 _).answered.2 (finish_answered _ tk a))

/-- What other descriptors' completions leave of a record. -/
theorem AnsweredAt.later {s t u : State} {tk : Taken} {a : Answer} {c : Word} (h : AnsweredAt s t tk a c) (hc : Carries t u)
    (ht : ∀ x ∈ u.taken, x ∈ t.taken) : AnsweredAt s u tk a c :=
  ⟨fun x hx => h.1 x (ht x hx), hc.outstanding (k := .completion tk.ring) trivial h.2⟩

theorem rejectUnknown_carries (s : State) (n : Nat) : Carries s (s.rejectUnknown n) := by
  induction n generalizing s with
  | zero => exact Carries.refl s
  | succ n ih =>
    unfold State.rejectUnknown
    split
    · split
      · exact (answer_carries _ _ _).trans (ih _)
      · exact Carries.refl s
    · exact Carries.refl s

theorem rejectUnknown_taken (s : State) (n : Nat) : ∀ x ∈ (s.rejectUnknown n).taken, x ∈ s.taken := by
  induction n generalizing s with
  | zero => exact fun _ h => h
  | succ n ih =>
    unfold State.rejectUnknown
    split
    · split
      · intro x hx
        have h := ih _ x hx
        rw [answer_taken] at h
        exact (List.mem_filter.1 h).1
      · exact fun _ h => h
    · exact fun _ h => h

/-- A descriptor that waits still waits after the descriptors that no format holds are refused. -/
theorem rejectUnknown_parked (s : State) (n : Nat) (tk : Taken) (p : Pend)
    (h : ∀ x ∈ s.taken, x.ring = tk.ring → x.num = tk.num → x.pend ≠ .unchecked) (hp : Parked s tk p) :
    Parked (s.rejectUnknown n) tk p := by
  induction n generalizing s with
  | zero => exact hp
  | succ n ih =>
    unfold State.rejectUnknown
    split
    · rename_i t ht
      split
      · have ht' : t ∈ s.taken := List.mem_of_find?_eq_some ht
        have hu : t.pend = .unchecked := by simpa using List.find?_some ht
        have hne : ¬ (tk.ring = t.ring ∧ tk.num = t.num) := fun e => h t ht' e.1.symm e.2.symm hu
        apply ih
        · intro x hx
          rw [answer_taken] at hx
          exact h x (List.mem_filter.1 hx).1
        · obtain ⟨x, hx, h1, h2, h3, h4⟩ := hp
          refine ⟨x, ?_, h1, h2, h3, h4⟩
          rw [answer_taken]
          refine List.mem_filter.2 ⟨hx, ?_⟩
          by_cases e : tk.ring = t.ring <;> simp_all
      · exact hp
    · exact hp

/-- A build that begins touches neither the writes nor the taken descriptors. -/
theorem beginBuild_gentle (s : State) : Gentle s s.beginBuild := by
  unfold State.beginBuild
  split
  · split
    · exact Gentle.refl s
    · exact Gentle.of_eq rfl rfl
  · exact Gentle.refl s

/-- A descriptor command that meets its descriptor. -/
theorem withDesc_meets {s : State} {form : DescBytes → Bool} {f : State → Taken → State} {tk : Taken} (hl : s.live = true)
    (hf : s.front = some tk) (hm : form tk.bytes = true) (hg : s.generalCheck tk.bytes = none) :
    s.withDesc form f = ((f s tk).rejectUnknown (f s tk).taken.length).beginBuild := by
  simp [State.withDesc, hl, hf, hm, hg]

/-- A descriptor that the general checks refuse. -/
theorem withDesc_refused {s : State} {form : DescBytes → Bool} {f : State → Taken → State} {tk : Taken} {a : Answer}
    (hl : s.live = true) (hf : s.front = some tk) (hm : form tk.bytes = true) (hg : s.generalCheck tk.bytes = some a) :
    s.withDesc form f = ((s.answer tk a).rejectUnknown (s.answer tk a).taken.length).beginBuild := by
  simp [State.withDesc, hl, hf, hm, hg]

/-- The end of a descriptor command whose own effect is `g` and then a completion. -/
theorem answer_end (s g : State) (tk : Taken) (a : Answer) (n : Nat) (h : Same s g) :
    Answered s ((g.answer tk a).rejectUnknown n).beginBuild tk a ∧ calm ((g.answer tk a).rejectUnknown n).beginBuild = calm g := by
  refine ⟨?_, ?_⟩
  · have k := beginBuild_gentle ((g.answer tk a).rejectUnknown n)
    refine AnsweredAt.later (h.answered.2 (answer_answered g tk a)) ((rejectUnknown_carries _ _).trans k.1) fun x hx => ?_
    exact rejectUnknown_taken _ _ x (k.2 ▸ hx)
  · rw [beginBuild_calm, rejectUnknown_calm, answer_calm]

/-- The end of a descriptor command whose own effect is `g` and then a wait for `p`. -/
theorem park_end (g : State) (tk : Taken) (p : Pend) (n : Nat) (hm : tk ∈ g.taken) (hp : p ≠ .unchecked) :
    Parked ((g.park tk p).rejectUnknown n).beginBuild tk p ∧ calm ((g.park tk p).rejectUnknown n).beginBuild = calm g := by
  have ht : (g.park tk p).taken = g.taken.map fun x => if x.ring = tk.ring && x.num = tk.num then { x with pend := p } else x := by
    simp only [State.park, updWhere, (sec1Add_gentle g tk 0xFF []).2]
  refine ⟨?_, by rw [beginBuild_calm, rejectUnknown_calm, park_calm]⟩
  simp only [Parked, (beginBuild_gentle _).2]
  apply rejectUnknown_parked
  · intro x hx h1 h2
    rw [ht] at hx
    obtain ⟨y, _, rfl⟩ := List.mem_map.1 hx
    split at h1 <;> rename_i hc
    · simpa [hc] using hp
    · rw [if_neg hc] at h2
      exact absurd (by simp [h1, h2]) hc
  · refine ⟨{ tk with pend := p }, ?_, rfl, rfl, rfl, rfl⟩
    rw [ht]
    exact List.mem_map.2 ⟨tk, hm, by simp⟩

/-- The descriptor in front was taken. -/
theorem front_mem {s : State} {tk : Taken} (h : s.front = some tk) : tk ∈ s.taken := List.mem_of_find?_eq_some h

/-- What a descriptor command that meets its descriptor answers. -/
theorem facing_run {s : State} {i : Instr} {tk : Taken} {form : DescBytes → Bool} {g : State → Taken → State} (h : Facing s i tk)
    (hd : descForm i = some form) (he : exec i s = .next (s.begin.withDesc form g)) :
    exec i s = .next ((g s.begin tk).rejectUnknown (g s.begin tk).taken.length).beginBuild := by
  obtain ⟨hl, hf, ⟨f, hi, hm⟩, hg⟩ := h
  obtain rfl : form = f := Option.some.inj (hd.symm.trans hi)
  rw [he]
  exact congrArg Host.Outcome.next (withDesc_meets (s := s.begin) (tk := tk) hl hf hm hg)

end Sys2Proof.Laws
end

