-- ==== Sys2Proof/Laws/State.lean ====
section
/-! SUPPORT. What each update of the state does to each of its main fields, and the reads of a register and of a counter after a
write. -/
namespace Sys2Proof.Laws
open Sys2Proof Sys2Proof.Machine

/-! begin. -/

@[simp] theorem begin_pending (s : State) : s.begin.pending = s.pending := rfl
@[simp] theorem begin_now (s : State) : s.begin.now = s.now := rfl
@[simp] theorem begin_free (s : State) : s.begin.free = s.free := rfl
@[simp] theorem begin_build (s : State) : s.begin.build = s.build := rfl
@[simp] theorem begin_fuses (s : State) : s.begin.fuses = s.fuses := rfl
@[simp] theorem begin_powered (s : State) : s.begin.powered = s.powered := rfl
@[simp] theorem begin_rstN (s : State) : s.begin.rstN = s.rstN := rfl
@[simp] theorem begin_warmN (s : State) : s.begin.warmN = s.warmN := rfl
@[simp] theorem begin_wrapper (s : State) : s.begin.wrapper = s.wrapper := rfl
@[simp] theorem begin_regs (s : State) : s.begin.regs = s.regs := rfl
@[simp] theorem begin_keys (s : State) : s.begin.keys = s.keys := rfl
@[simp] theorem begin_negot (s : State) : s.begin.negot = s.negot := rfl
@[simp] theorem begin_fw (s : State) : s.begin.fw = s.fw := rfl
@[simp] theorem begin_engine (s : State) : s.begin.engine = s.engine := rfl
@[simp] theorem begin_trains (s : State) : s.begin.trains = s.trains := rfl
@[simp] theorem begin_rings (s : State) : s.begin.rings = s.rings := rfl
@[simp] theorem begin_taken (s : State) : s.begin.taken = s.taken := rfl
@[simp] theorem begin_writes (s : State) : s.begin.writes = s.writes := rfl
@[simp] theorem begin_reads (s : State) : s.begin.reads = s.reads := rfl
@[simp] theorem begin_links (s : State) : s.begin.links = s.links := rfl
@[simp] theorem begin_xch (s : State) : s.begin.xch = s.xch := rfl
@[simp] theorem begin_tick (s : State) : s.begin.tick = s.tick := rfl
@[simp] theorem begin_lines (s : State) : s.begin.lines = s.lines := rfl
@[simp] theorem begin_inputs (s : State) : s.begin.inputs = s.inputs := rfl
@[simp] theorem begin_frames (s : State) : s.begin.frames = s.frames := rfl
@[simp] theorem begin_digest (s : State) : s.begin.digest = s.digest := rfl
@[simp] theorem begin_reqs (s : State) : s.begin.reqs = s.reqs := rfl
@[simp] theorem begin_dirs (s : State) : s.begin.dirs = s.dirs := rfl
@[simp] theorem begin_charges (s : State) : s.begin.charges = s.charges := rfl
@[simp] theorem begin_tmap (s : State) : s.begin.tmap = s.tmap := rfl
@[simp] theorem begin_stale (s : State) : s.begin.stale = s.stale := rfl
@[simp] theorem begin_tierOld (s : State) : s.begin.tierOld = s.tierOld := rfl
@[simp] theorem begin_tenants (s : State) : s.begin.tenants = s.tenants := rfl
@[simp] theorem begin_snaps (s : State) : s.begin.snaps = s.snaps := rfl
@[simp] theorem begin_rb (s : State) : s.begin.rb = s.rb := rfl
@[simp] theorem begin_power (s : State) : s.begin.power = s.power := rfl
@[simp] theorem begin_log (s : State) : s.begin.log = s.log := rfl
@[simp] theorem begin_adMem (s : State) : s.begin.adMem = s.adMem := rfl
@[simp] theorem begin_errs (s : State) : s.begin.errs = s.errs := rfl
@[simp] theorem begin_irqPend (s : State) : s.begin.irqPend = s.irqPend := rfl

/-! advance. -/

@[simp] theorem advance_pending (s : State) (t : Nat) : (s.advance t).pending = s.pending := rfl
@[simp] theorem advance_now (s : State) (t : Nat) : (s.advance t).now = max s.now t := rfl
@[simp] theorem advance_free (s : State) (t : Nat) : (s.advance t).free = s.free := rfl
@[simp] theorem advance_build (s : State) (t : Nat) : (s.advance t).build = s.build := rfl
@[simp] theorem advance_fuses (s : State) (t : Nat) : (s.advance t).fuses = s.fuses := rfl
@[simp] theorem advance_powered (s : State) (t : Nat) : (s.advance t).powered = s.powered := rfl
@[simp] theorem advance_rstN (s : State) (t : Nat) : (s.advance t).rstN = s.rstN := rfl
@[simp] theorem advance_warmN (s : State) (t : Nat) : (s.advance t).warmN = s.warmN := rfl
@[simp] theorem advance_wrapper (s : State) (t : Nat) : (s.advance t).wrapper = s.wrapper := rfl
@[simp] theorem advance_regs (s : State) (t : Nat) : (s.advance t).regs = s.regs := rfl
@[simp] theorem advance_keys (s : State) (t : Nat) : (s.advance t).keys = s.keys := rfl
@[simp] theorem advance_negot (s : State) (t : Nat) : (s.advance t).negot = s.negot := rfl
@[simp] theorem advance_fw (s : State) (t : Nat) : (s.advance t).fw = s.fw := rfl
@[simp] theorem advance_engine (s : State) (t : Nat) : (s.advance t).engine = s.engine := rfl
@[simp] theorem advance_trains (s : State) (t : Nat) : (s.advance t).trains = s.trains := rfl
@[simp] theorem advance_rings (s : State) (t : Nat) : (s.advance t).rings = s.rings := rfl
@[simp] theorem advance_taken (s : State) (t : Nat) : (s.advance t).taken = s.taken := rfl
@[simp] theorem advance_writes (s : State) (t : Nat) : (s.advance t).writes = s.writes := rfl
@[simp] theorem advance_reads (s : State) (t : Nat) : (s.advance t).reads = s.reads := rfl
@[simp] theorem advance_links (s : State) (t : Nat) : (s.advance t).links = s.links := rfl
@[simp] theorem advance_xch (s : State) (t : Nat) : (s.advance t).xch = s.xch := rfl
@[simp] theorem advance_tick (s : State) (t : Nat) : (s.advance t).tick = s.tick := rfl
@[simp] theorem advance_lines (s : State) (t : Nat) : (s.advance t).lines = s.lines := rfl
@[simp] theorem advance_inputs (s : State) (t : Nat) : (s.advance t).inputs = s.inputs := rfl
@[simp] theorem advance_frames (s : State) (t : Nat) : (s.advance t).frames = s.frames := rfl
@[simp] theorem advance_digest (s : State) (t : Nat) : (s.advance t).digest = s.digest := rfl
@[simp] theorem advance_reqs (s : State) (t : Nat) : (s.advance t).reqs = s.reqs := rfl
@[simp] theorem advance_dirs (s : State) (t : Nat) : (s.advance t).dirs = s.dirs := rfl
@[simp] theorem advance_charges (s : State) (t : Nat) : (s.advance t).charges = s.charges := rfl
@[simp] theorem advance_tmap (s : State) (t : Nat) : (s.advance t).tmap = s.tmap := rfl
@[simp] theorem advance_stale (s : State) (t : Nat) : (s.advance t).stale = s.stale := rfl
@[simp] theorem advance_tierOld (s : State) (t : Nat) : (s.advance t).tierOld = s.tierOld := rfl
@[simp] theorem advance_tenants (s : State) (t : Nat) : (s.advance t).tenants = s.tenants := rfl
@[simp] theorem advance_snaps (s : State) (t : Nat) : (s.advance t).snaps = s.snaps := rfl
@[simp] theorem advance_rb (s : State) (t : Nat) : (s.advance t).rb = s.rb := rfl
@[simp] theorem advance_power (s : State) (t : Nat) : (s.advance t).power = s.power := rfl
@[simp] theorem advance_log (s : State) (t : Nat) : (s.advance t).log = s.log := rfl
@[simp] theorem advance_adMem (s : State) (t : Nat) : (s.advance t).adMem = s.adMem := rfl
@[simp] theorem advance_errs (s : State) (t : Nat) : (s.advance t).errs = s.errs := rfl
@[simp] theorem advance_irqPend (s : State) (t : Nat) : (s.advance t).irqPend = s.irqPend := rfl

/-! useFree. -/

@[simp] theorem useFree_pending (s : State) : s.useFree.pending = s.pending := rfl
@[simp] theorem useFree_now (s : State) : s.useFree.now = s.now := rfl
@[simp] theorem useFree_free (s : State) : s.useFree.free = s.free + 1 := rfl
@[simp] theorem useFree_build (s : State) : s.useFree.build = s.build := rfl
@[simp] theorem useFree_fuses (s : State) : s.useFree.fuses = s.fuses := rfl
@[simp] theorem useFree_powered (s : State) : s.useFree.powered = s.powered := rfl
@[simp] theorem useFree_rstN (s : State) : s.useFree.rstN = s.rstN := rfl
@[simp] theorem useFree_warmN (s : State) : s.useFree.warmN = s.warmN := rfl
@[simp] theorem useFree_wrapper (s : State) : s.useFree.wrapper = s.wrapper := rfl
@[simp] theorem useFree_regs (s : State) : s.useFree.regs = s.regs := rfl
@[simp] theorem useFree_keys (s : State) : s.useFree.keys = s.keys := rfl
@[simp] theorem useFree_negot (s : State) : s.useFree.negot = s.negot := rfl
@[simp] theorem useFree_fw (s : State) : s.useFree.fw = s.fw := rfl
@[simp] theorem useFree_engine (s : State) : s.useFree.engine = s.engine := rfl
@[simp] theorem useFree_trains (s : State) : s.useFree.trains = s.trains := rfl
@[simp] theorem useFree_rings (s : State) : s.useFree.rings = s.rings := rfl
@[simp] theorem useFree_taken (s : State) : s.useFree.taken = s.taken := rfl
@[simp] theorem useFree_writes (s : State) : s.useFree.writes = s.writes := rfl
@[simp] theorem useFree_reads (s : State) : s.useFree.reads = s.reads := rfl
@[simp] theorem useFree_links (s : State) : s.useFree.links = s.links := rfl
@[simp] theorem useFree_xch (s : State) : s.useFree.xch = s.xch := rfl
@[simp] theorem useFree_tick (s : State) : s.useFree.tick = s.tick := rfl
@[simp] theorem useFree_lines (s : State) : s.useFree.lines = s.lines := rfl
@[simp] theorem useFree_inputs (s : State) : s.useFree.inputs = s.inputs := rfl
@[simp] theorem useFree_frames (s : State) : s.useFree.frames = s.frames := rfl
@[simp] theorem useFree_digest (s : State) : s.useFree.digest = s.digest := rfl
@[simp] theorem useFree_reqs (s : State) : s.useFree.reqs = s.reqs := rfl
@[simp] theorem useFree_dirs (s : State) : s.useFree.dirs = s.dirs := rfl
@[simp] theorem useFree_charges (s : State) : s.useFree.charges = s.charges := rfl
@[simp] theorem useFree_tmap (s : State) : s.useFree.tmap = s.tmap := rfl
@[simp] theorem useFree_stale (s : State) : s.useFree.stale = s.stale := rfl
@[simp] theorem useFree_tierOld (s : State) : s.useFree.tierOld = s.tierOld := rfl
@[simp] theorem useFree_tenants (s : State) : s.useFree.tenants = s.tenants := rfl
@[simp] theorem useFree_snaps (s : State) : s.useFree.snaps = s.snaps := rfl
@[simp] theorem useFree_rb (s : State) : s.useFree.rb = s.rb := rfl
@[simp] theorem useFree_power (s : State) : s.useFree.power = s.power := rfl
@[simp] theorem useFree_log (s : State) : s.useFree.log = s.log := rfl
@[simp] theorem useFree_adMem (s : State) : s.useFree.adMem = s.adMem := rfl
@[simp] theorem useFree_errs (s : State) : s.useFree.errs = s.errs := rfl
@[simp] theorem useFree_irqPend (s : State) : s.useFree.irqPend = s.irqPend := rfl

/-! count. -/

@[simp] theorem count_pending (s : State) (c : Cnt) (n : Nat) : (s.count c n).pending = s.pending := rfl
@[simp] theorem count_now (s : State) (c : Cnt) (n : Nat) : (s.count c n).now = s.now := rfl
@[simp] theorem count_free (s : State) (c : Cnt) (n : Nat) : (s.count c n).free = s.free := rfl
@[simp] theorem count_build (s : State) (c : Cnt) (n : Nat) : (s.count c n).build = s.build := rfl
@[simp] theorem count_fuses (s : State) (c : Cnt) (n : Nat) : (s.count c n).fuses = s.fuses := rfl
@[simp] theorem count_powered (s : State) (c : Cnt) (n : Nat) : (s.count c n).powered = s.powered := rfl
@[simp] theorem count_rstN (s : State) (c : Cnt) (n : Nat) : (s.count c n).rstN = s.rstN := rfl
@[simp] theorem count_warmN (s : State) (c : Cnt) (n : Nat) : (s.count c n).warmN = s.warmN := rfl
@[simp] theorem count_wrapper (s : State) (c : Cnt) (n : Nat) : (s.count c n).wrapper = s.wrapper := rfl
@[simp] theorem count_regs (s : State) (c : Cnt) (n : Nat) : (s.count c n).regs = s.regs := rfl
@[simp] theorem count_keys (s : State) (c : Cnt) (n : Nat) : (s.count c n).keys = s.keys := rfl
@[simp] theorem count_negot (s : State) (c : Cnt) (n : Nat) : (s.count c n).negot = s.negot := rfl
@[simp] theorem count_fw (s : State) (c : Cnt) (n : Nat) : (s.count c n).fw = s.fw := rfl
@[simp] theorem count_engine (s : State) (c : Cnt) (n : Nat) : (s.count c n).engine = s.engine := rfl
@[simp] theorem count_trains (s : State) (c : Cnt) (n : Nat) : (s.count c n).trains = s.trains := rfl
@[simp] theorem count_rings (s : State) (c : Cnt) (n : Nat) : (s.count c n).rings = s.rings := rfl
@[simp] theorem count_taken (s : State) (c : Cnt) (n : Nat) : (s.count c n).taken = s.taken := rfl
@[simp] theorem count_writes (s : State) (c : Cnt) (n : Nat) : (s.count c n).writes = s.writes := rfl
@[simp] theorem count_reads (s : State) (c : Cnt) (n : Nat) : (s.count c n).reads = s.reads := rfl
@[simp] theorem count_links (s : State) (c : Cnt) (n : Nat) : (s.count c n).links = s.links := rfl
@[simp] theorem count_xch (s : State) (c : Cnt) (n : Nat) : (s.count c n).xch = s.xch := rfl
@[simp] theorem count_tick (s : State) (c : Cnt) (n : Nat) : (s.count c n).tick = s.tick := rfl
@[simp] theorem count_lines (s : State) (c : Cnt) (n : Nat) : (s.count c n).lines = s.lines := rfl
@[simp] theorem count_inputs (s : State) (c : Cnt) (n : Nat) : (s.count c n).inputs = s.inputs := rfl
@[simp] theorem count_frames (s : State) (c : Cnt) (n : Nat) : (s.count c n).frames = s.frames := rfl
@[simp] theorem count_digest (s : State) (c : Cnt) (n : Nat) : (s.count c n).digest = s.digest := rfl
@[simp] theorem count_reqs (s : State) (c : Cnt) (n : Nat) : (s.count c n).reqs = s.reqs := rfl
@[simp] theorem count_dirs (s : State) (c : Cnt) (n : Nat) : (s.count c n).dirs = s.dirs := rfl
@[simp] theorem count_charges (s : State) (c : Cnt) (n : Nat) : (s.count c n).charges = s.charges := rfl
@[simp] theorem count_tmap (s : State) (c : Cnt) (n : Nat) : (s.count c n).tmap = s.tmap := rfl
@[simp] theorem count_stale (s : State) (c : Cnt) (n : Nat) : (s.count c n).stale = s.stale := rfl
@[simp] theorem count_tierOld (s : State) (c : Cnt) (n : Nat) : (s.count c n).tierOld = s.tierOld := rfl
@[simp] theorem count_tenants (s : State) (c : Cnt) (n : Nat) : (s.count c n).tenants = s.tenants := rfl
@[simp] theorem count_snaps (s : State) (c : Cnt) (n : Nat) : (s.count c n).snaps = s.snaps := rfl
@[simp] theorem count_rb (s : State) (c : Cnt) (n : Nat) : (s.count c n).rb = s.rb := rfl
@[simp] theorem count_power (s : State) (c : Cnt) (n : Nat) : (s.count c n).power = s.power := rfl
@[simp] theorem count_adMem (s : State) (c : Cnt) (n : Nat) : (s.count c n).adMem = s.adMem := rfl
@[simp] theorem count_errs (s : State) (c : Cnt) (n : Nat) : (s.count c n).errs = s.errs := rfl
@[simp] theorem count_irqPend (s : State) (c : Cnt) (n : Nat) : (s.count c n).irqPend = s.irqPend := rfl

/-! setReg. -/

@[simp] theorem setReg_pending (s : State) (a : Nat) (v : Word) : (s.setReg a v).pending = s.pending := rfl
@[simp] theorem setReg_now (s : State) (a : Nat) (v : Word) : (s.setReg a v).now = s.now := rfl
@[simp] theorem setReg_free (s : State) (a : Nat) (v : Word) : (s.setReg a v).free = s.free := rfl
@[simp] theorem setReg_build (s : State) (a : Nat) (v : Word) : (s.setReg a v).build = s.build := rfl
@[simp] theorem setReg_fuses (s : State) (a : Nat) (v : Word) : (s.setReg a v).fuses = s.fuses := rfl
@[simp] theorem setReg_powered (s : State) (a : Nat) (v : Word) : (s.setReg a v).powered = s.powered := rfl
@[simp] theorem setReg_rstN (s : State) (a : Nat) (v : Word) : (s.setReg a v).rstN = s.rstN := rfl
@[simp] theorem setReg_warmN (s : State) (a : Nat) (v : Word) : (s.setReg a v).warmN = s.warmN := rfl
@[simp] theorem setReg_wrapper (s : State) (a : Nat) (v : Word) : (s.setReg a v).wrapper = s.wrapper := rfl
@[simp] theorem setReg_keys (s : State) (a : Nat) (v : Word) : (s.setReg a v).keys = s.keys := rfl
@[simp] theorem setReg_negot (s : State) (a : Nat) (v : Word) : (s.setReg a v).negot = s.negot := rfl
@[simp] theorem setReg_fw (s : State) (a : Nat) (v : Word) : (s.setReg a v).fw = s.fw := rfl
@[simp] theorem setReg_engine (s : State) (a : Nat) (v : Word) : (s.setReg a v).engine = s.engine := rfl
@[simp] theorem setReg_trains (s : State) (a : Nat) (v : Word) : (s.setReg a v).trains = s.trains := rfl
@[simp] theorem setReg_rings (s : State) (a : Nat) (v : Word) : (s.setReg a v).rings = s.rings := rfl
@[simp] theorem setReg_taken (s : State) (a : Nat) (v : Word) : (s.setReg a v).taken = s.taken := rfl
@[simp] theorem setReg_writes (s : State) (a : Nat) (v : Word) : (s.setReg a v).writes = s.writes := rfl
@[simp] theorem setReg_reads (s : State) (a : Nat) (v : Word) : (s.setReg a v).reads = s.reads := rfl
@[simp] theorem setReg_links (s : State) (a : Nat) (v : Word) : (s.setReg a v).links = s.links := rfl
@[simp] theorem setReg_xch (s : State) (a : Nat) (v : Word) : (s.setReg a v).xch = s.xch := rfl
@[simp] theorem setReg_tick (s : State) (a : Nat) (v : Word) : (s.setReg a v).tick = s.tick := rfl
@[simp] theorem setReg_lines (s : State) (a : Nat) (v : Word) : (s.setReg a v).lines = s.lines := rfl
@[simp] theorem setReg_inputs (s : State) (a : Nat) (v : Word) : (s.setReg a v).inputs = s.inputs := rfl
@[simp] theorem setReg_frames (s : State) (a : Nat) (v : Word) : (s.setReg a v).frames = s.frames := rfl
@[simp] theorem setReg_digest (s : State) (a : Nat) (v : Word) : (s.setReg a v).digest = s.digest := rfl
@[simp] theorem setReg_reqs (s : State) (a : Nat) (v : Word) : (s.setReg a v).reqs = s.reqs := rfl
@[simp] theorem setReg_dirs (s : State) (a : Nat) (v : Word) : (s.setReg a v).dirs = s.dirs := rfl
@[simp] theorem setReg_charges (s : State) (a : Nat) (v : Word) : (s.setReg a v).charges = s.charges := rfl
@[simp] theorem setReg_tmap (s : State) (a : Nat) (v : Word) : (s.setReg a v).tmap = s.tmap := rfl
@[simp] theorem setReg_stale (s : State) (a : Nat) (v : Word) : (s.setReg a v).stale = s.stale := rfl
@[simp] theorem setReg_tierOld (s : State) (a : Nat) (v : Word) : (s.setReg a v).tierOld = s.tierOld := rfl
@[simp] theorem setReg_tenants (s : State) (a : Nat) (v : Word) : (s.setReg a v).tenants = s.tenants := rfl
@[simp] theorem setReg_snaps (s : State) (a : Nat) (v : Word) : (s.setReg a v).snaps = s.snaps := rfl
@[simp] theorem setReg_rb (s : State) (a : Nat) (v : Word) : (s.setReg a v).rb = s.rb := rfl
@[simp] theorem setReg_power (s : State) (a : Nat) (v : Word) : (s.setReg a v).power = s.power := rfl
@[simp] theorem setReg_log (s : State) (a : Nat) (v : Word) : (s.setReg a v).log = s.log := rfl
@[simp] theorem setReg_adMem (s : State) (a : Nat) (v : Word) : (s.setReg a v).adMem = s.adMem := rfl
@[simp] theorem setReg_errs (s : State) (a : Nat) (v : Word) : (s.setReg a v).errs = s.errs := rfl
@[simp] theorem setReg_irqPend (s : State) (a : Nat) (v : Word) : (s.setReg a v).irqPend = s.irqPend := rfl

/-! setLink. -/

@[simp] theorem setLink_pending (s : State) (c : Nat) (l : Link) : (s.setLink c l).pending = s.pending := rfl
@[simp] theorem setLink_now (s : State) (c : Nat) (l : Link) : (s.setLink c l).now = s.now := rfl
@[simp] theorem setLink_free (s : State) (c : Nat) (l : Link) : (s.setLink c l).free = s.free := rfl
@[simp] theorem setLink_build (s : State) (c : Nat) (l : Link) : (s.setLink c l).build = s.build := rfl
@[simp] theorem setLink_fuses (s : State) (c : Nat) (l : Link) : (s.setLink c l).fuses = s.fuses := rfl
@[simp] theorem setLink_powered (s : State) (c : Nat) (l : Link) : (s.setLink c l).powered = s.powered := rfl
@[simp] theorem setLink_rstN (s : State) (c : Nat) (l : Link) : (s.setLink c l).rstN = s.rstN := rfl
@[simp] theorem setLink_warmN (s : State) (c : Nat) (l : Link) : (s.setLink c l).warmN = s.warmN := rfl
@[simp] theorem setLink_wrapper (s : State) (c : Nat) (l : Link) : (s.setLink c l).wrapper = s.wrapper := rfl
@[simp] theorem setLink_regs (s : State) (c : Nat) (l : Link) : (s.setLink c l).regs = s.regs := rfl
@[simp] theorem setLink_keys (s : State) (c : Nat) (l : Link) : (s.setLink c l).keys = s.keys := rfl
@[simp] theorem setLink_negot (s : State) (c : Nat) (l : Link) : (s.setLink c l).negot = s.negot := rfl
@[simp] theorem setLink_fw (s : State) (c : Nat) (l : Link) : (s.setLink c l).fw = s.fw := rfl
@[simp] theorem setLink_engine (s : State) (c : Nat) (l : Link) : (s.setLink c l).engine = s.engine := rfl
@[simp] theorem setLink_trains (s : State) (c : Nat) (l : Link) : (s.setLink c l).trains = s.trains := rfl
@[simp] theorem setLink_rings (s : State) (c : Nat) (l : Link) : (s.setLink c l).rings = s.rings := rfl
@[simp] theorem setLink_taken (s : State) (c : Nat) (l : Link) : (s.setLink c l).taken = s.taken := rfl
@[simp] theorem setLink_writes (s : State) (c : Nat) (l : Link) : (s.setLink c l).writes = s.writes := rfl
@[simp] theorem setLink_reads (s : State) (c : Nat) (l : Link) : (s.setLink c l).reads = s.reads := rfl
@[simp] theorem setLink_links (s : State) (c : Nat) (l : Link) : (s.setLink c l).links = s.links.setIfInBounds c l := rfl
@[simp] theorem setLink_xch (s : State) (c : Nat) (l : Link) : (s.setLink c l).xch = s.xch := rfl
@[simp] theorem setLink_tick (s : State) (c : Nat) (l : Link) : (s.setLink c l).tick = s.tick := rfl
@[simp] theorem setLink_lines (s : State) (c : Nat) (l : Link) : (s.setLink c l).lines = s.lines := rfl
@[simp] theorem setLink_inputs (s : State) (c : Nat) (l : Link) : (s.setLink c l).inputs = s.inputs := rfl
@[simp] theorem setLink_frames (s : State) (c : Nat) (l : Link) : (s.setLink c l).frames = s.frames := rfl
@[simp] theorem setLink_digest (s : State) (c : Nat) (l : Link) : (s.setLink c l).digest = s.digest := rfl
@[simp] theorem setLink_reqs (s : State) (c : Nat) (l : Link) : (s.setLink c l).reqs = s.reqs := rfl
@[simp] theorem setLink_dirs (s : State) (c : Nat) (l : Link) : (s.setLink c l).dirs = s.dirs := rfl
@[simp] theorem setLink_charges (s : State) (c : Nat) (l : Link) : (s.setLink c l).charges = s.charges := rfl
@[simp] theorem setLink_tmap (s : State) (c : Nat) (l : Link) : (s.setLink c l).tmap = s.tmap := rfl
@[simp] theorem setLink_stale (s : State) (c : Nat) (l : Link) : (s.setLink c l).stale = s.stale := rfl
@[simp] theorem setLink_tierOld (s : State) (c : Nat) (l : Link) : (s.setLink c l).tierOld = s.tierOld := rfl
@[simp] theorem setLink_tenants (s : State) (c : Nat) (l : Link) : (s.setLink c l).tenants = s.tenants := rfl
@[simp] theorem setLink_snaps (s : State) (c : Nat) (l : Link) : (s.setLink c l).snaps = s.snaps := rfl
@[simp] theorem setLink_rb (s : State) (c : Nat) (l : Link) : (s.setLink c l).rb = s.rb := rfl
@[simp] theorem setLink_power (s : State) (c : Nat) (l : Link) : (s.setLink c l).power = s.power := rfl
@[simp] theorem setLink_log (s : State) (c : Nat) (l : Link) : (s.setLink c l).log = s.log := rfl
@[simp] theorem setLink_adMem (s : State) (c : Nat) (l : Link) : (s.setLink c l).adMem = s.adMem := rfl
@[simp] theorem setLink_errs (s : State) (c : Nat) (l : Link) : (s.setLink c l).errs = s.errs := rfl
@[simp] theorem setLink_irqPend (s : State) (c : Nat) (l : Link) : (s.setLink c l).irqPend = s.irqPend := rfl

/-! setRing. -/

@[simp] theorem setRing_pending (s : State) (k : Nat) (r : Ring) : (s.setRing k r).pending = s.pending := rfl
@[simp] theorem setRing_now (s : State) (k : Nat) (r : Ring) : (s.setRing k r).now = s.now := rfl
@[simp] theorem setRing_free (s : State) (k : Nat) (r : Ring) : (s.setRing k r).free = s.free := rfl
@[simp] theorem setRing_build (s : State) (k : Nat) (r : Ring) : (s.setRing k r).build = s.build := rfl
@[simp] theorem setRing_fuses (s : State) (k : Nat) (r : Ring) : (s.setRing k r).fuses = s.fuses := rfl
@[simp] theorem setRing_powered (s : State) (k : Nat) (r : Ring) : (s.setRing k r).powered = s.powered := rfl
@[simp] theorem setRing_rstN (s : State) (k : Nat) (r : Ring) : (s.setRing k r).rstN = s.rstN := rfl
@[simp] theorem setRing_warmN (s : State) (k : Nat) (r : Ring) : (s.setRing k r).warmN = s.warmN := rfl
@[simp] theorem setRing_wrapper (s : State) (k : Nat) (r : Ring) : (s.setRing k r).wrapper = s.wrapper := rfl
@[simp] theorem setRing_regs (s : State) (k : Nat) (r : Ring) : (s.setRing k r).regs = s.regs := rfl
@[simp] theorem setRing_keys (s : State) (k : Nat) (r : Ring) : (s.setRing k r).keys = s.keys := rfl
@[simp] theorem setRing_negot (s : State) (k : Nat) (r : Ring) : (s.setRing k r).negot = s.negot := rfl
@[simp] theorem setRing_fw (s : State) (k : Nat) (r : Ring) : (s.setRing k r).fw = s.fw := rfl
@[simp] theorem setRing_engine (s : State) (k : Nat) (r : Ring) : (s.setRing k r).engine = s.engine := rfl
@[simp] theorem setRing_trains (s : State) (k : Nat) (r : Ring) : (s.setRing k r).trains = s.trains := rfl
@[simp] theorem setRing_rings (s : State) (k : Nat) (r : Ring) : (s.setRing k r).rings = s.rings.setIfInBounds k r := rfl
@[simp] theorem setRing_taken (s : State) (k : Nat) (r : Ring) : (s.setRing k r).taken = s.taken := rfl
@[simp] theorem setRing_writes (s : State) (k : Nat) (r : Ring) : (s.setRing k r).writes = s.writes := rfl
@[simp] theorem setRing_reads (s : State) (k : Nat) (r : Ring) : (s.setRing k r).reads = s.reads := rfl
@[simp] theorem setRing_links (s : State) (k : Nat) (r : Ring) : (s.setRing k r).links = s.links := rfl
@[simp] theorem setRing_xch (s : State) (k : Nat) (r : Ring) : (s.setRing k r).xch = s.xch := rfl
@[simp] theorem setRing_tick (s : State) (k : Nat) (r : Ring) : (s.setRing k r).tick = s.tick := rfl
@[simp] theorem setRing_lines (s : State) (k : Nat) (r : Ring) : (s.setRing k r).lines = s.lines := rfl
@[simp] theorem setRing_inputs (s : State) (k : Nat) (r : Ring) : (s.setRing k r).inputs = s.inputs := rfl
@[simp] theorem setRing_frames (s : State) (k : Nat) (r : Ring) : (s.setRing k r).frames = s.frames := rfl
@[simp] theorem setRing_digest (s : State) (k : Nat) (r : Ring) : (s.setRing k r).digest = s.digest := rfl
@[simp] theorem setRing_reqs (s : State) (k : Nat) (r : Ring) : (s.setRing k r).reqs = s.reqs := rfl
@[simp] theorem setRing_dirs (s : State) (k : Nat) (r : Ring) : (s.setRing k r).dirs = s.dirs := rfl
@[simp] theorem setRing_charges (s : State) (k : Nat) (r : Ring) : (s.setRing k r).charges = s.charges := rfl
@[simp] theorem setRing_tmap (s : State) (k : Nat) (r : Ring) : (s.setRing k r).tmap = s.tmap := rfl
@[simp] theorem setRing_stale (s : State) (k : Nat) (r : Ring) : (s.setRing k r).stale = s.stale := rfl
@[simp] theorem setRing_tierOld (s : State) (k : Nat) (r : Ring) : (s.setRing k r).tierOld = s.tierOld := rfl
@[simp] theorem setRing_tenants (s : State) (k : Nat) (r : Ring) : (s.setRing k r).tenants = s.tenants := rfl
@[simp] theorem setRing_snaps (s : State) (k : Nat) (r : Ring) : (s.setRing k r).snaps = s.snaps := rfl
@[simp] theorem setRing_rb (s : State) (k : Nat) (r : Ring) : (s.setRing k r).rb = s.rb := rfl
@[simp] theorem setRing_power (s : State) (k : Nat) (r : Ring) : (s.setRing k r).power = s.power := rfl
@[simp] theorem setRing_log (s : State) (k : Nat) (r : Ring) : (s.setRing k r).log = s.log := rfl
@[simp] theorem setRing_adMem (s : State) (k : Nat) (r : Ring) : (s.setRing k r).adMem = s.adMem := rfl
@[simp] theorem setRing_errs (s : State) (k : Nat) (r : Ring) : (s.setRing k r).errs = s.errs := rfl
@[simp] theorem setRing_irqPend (s : State) (k : Nat) (r : Ring) : (s.setRing k r).irqPend = s.irqPend := rfl

/-! setReq. -/

@[simp] theorem setReq_pending (s : State) (r : Req) : (s.setReq r).pending = s.pending := rfl
@[simp] theorem setReq_now (s : State) (r : Req) : (s.setReq r).now = s.now := rfl
@[simp] theorem setReq_free (s : State) (r : Req) : (s.setReq r).free = s.free := rfl
@[simp] theorem setReq_build (s : State) (r : Req) : (s.setReq r).build = s.build := rfl
@[simp] theorem setReq_fuses (s : State) (r : Req) : (s.setReq r).fuses = s.fuses := rfl
@[simp] theorem setReq_powered (s : State) (r : Req) : (s.setReq r).powered = s.powered := rfl
@[simp] theorem setReq_rstN (s : State) (r : Req) : (s.setReq r).rstN = s.rstN := rfl
@[simp] theorem setReq_warmN (s : State) (r : Req) : (s.setReq r).warmN = s.warmN := rfl
@[simp] theorem setReq_wrapper (s : State) (r : Req) : (s.setReq r).wrapper = s.wrapper := rfl
@[simp] theorem setReq_regs (s : State) (r : Req) : (s.setReq r).regs = s.regs := rfl
@[simp] theorem setReq_keys (s : State) (r : Req) : (s.setReq r).keys = s.keys := rfl
@[simp] theorem setReq_negot (s : State) (r : Req) : (s.setReq r).negot = s.negot := rfl
@[simp] theorem setReq_fw (s : State) (r : Req) : (s.setReq r).fw = s.fw := rfl
@[simp] theorem setReq_engine (s : State) (r : Req) : (s.setReq r).engine = s.engine := rfl
@[simp] theorem setReq_trains (s : State) (r : Req) : (s.setReq r).trains = s.trains := rfl
@[simp] theorem setReq_rings (s : State) (r : Req) : (s.setReq r).rings = s.rings := rfl
@[simp] theorem setReq_taken (s : State) (r : Req) : (s.setReq r).taken = s.taken := rfl
@[simp] theorem setReq_writes (s : State) (r : Req) : (s.setReq r).writes = s.writes := rfl
@[simp] theorem setReq_reads (s : State) (r : Req) : (s.setReq r).reads = s.reads := rfl
@[simp] theorem setReq_links (s : State) (r : Req) : (s.setReq r).links = s.links := rfl
@[simp] theorem setReq_xch (s : State) (r : Req) : (s.setReq r).xch = s.xch := rfl
@[simp] theorem setReq_tick (s : State) (r : Req) : (s.setReq r).tick = s.tick := rfl
@[simp] theorem setReq_lines (s : State) (r : Req) : (s.setReq r).lines = s.lines := rfl
@[simp] theorem setReq_inputs (s : State) (r : Req) : (s.setReq r).inputs = s.inputs := rfl
@[simp] theorem setReq_frames (s : State) (r : Req) : (s.setReq r).frames = s.frames := rfl
@[simp] theorem setReq_digest (s : State) (r : Req) : (s.setReq r).digest = s.digest := rfl
@[simp] theorem setReq_reqs (s : State) (r : Req) : (s.setReq r).reqs = putKey Req.slot r s.reqs := rfl
@[simp] theorem setReq_dirs (s : State) (r : Req) : (s.setReq r).dirs = s.dirs := rfl
@[simp] theorem setReq_charges (s : State) (r : Req) : (s.setReq r).charges = s.charges := rfl
@[simp] theorem setReq_tmap (s : State) (r : Req) : (s.setReq r).tmap = s.tmap := rfl
@[simp] theorem setReq_stale (s : State) (r : Req) : (s.setReq r).stale = s.stale := rfl
@[simp] theorem setReq_tierOld (s : State) (r : Req) : (s.setReq r).tierOld = s.tierOld := rfl
@[simp] theorem setReq_tenants (s : State) (r : Req) : (s.setReq r).tenants = s.tenants := rfl
@[simp] theorem setReq_snaps (s : State) (r : Req) : (s.setReq r).snaps = s.snaps := rfl
@[simp] theorem setReq_rb (s : State) (r : Req) : (s.setReq r).rb = s.rb := rfl
@[simp] theorem setReq_power (s : State) (r : Req) : (s.setReq r).power = s.power := rfl
@[simp] theorem setReq_log (s : State) (r : Req) : (s.setReq r).log = s.log := rfl
@[simp] theorem setReq_adMem (s : State) (r : Req) : (s.setReq r).adMem = s.adMem := rfl
@[simp] theorem setReq_errs (s : State) (r : Req) : (s.setReq r).errs = s.errs := rfl
@[simp] theorem setReq_irqPend (s : State) (r : Req) : (s.setReq r).irqPend = s.irqPend := rfl

/-! setDir. -/

@[simp] theorem setDir_pending (s : State) (d : Dir) : (s.setDir d).pending = s.pending := rfl
@[simp] theorem setDir_now (s : State) (d : Dir) : (s.setDir d).now = s.now := rfl
@[simp] theorem setDir_free (s : State) (d : Dir) : (s.setDir d).free = s.free := rfl
@[simp] theorem setDir_build (s : State) (d : Dir) : (s.setDir d).build = s.build := rfl
@[simp] theorem setDir_fuses (s : State) (d : Dir) : (s.setDir d).fuses = s.fuses := rfl
@[simp] theorem setDir_powered (s : State) (d : Dir) : (s.setDir d).powered = s.powered := rfl
@[simp] theorem setDir_rstN (s : State) (d : Dir) : (s.setDir d).rstN = s.rstN := rfl
@[simp] theorem setDir_warmN (s : State) (d : Dir) : (s.setDir d).warmN = s.warmN := rfl
@[simp] theorem setDir_wrapper (s : State) (d : Dir) : (s.setDir d).wrapper = s.wrapper := rfl
@[simp] theorem setDir_regs (s : State) (d : Dir) : (s.setDir d).regs = s.regs := rfl
@[simp] theorem setDir_keys (s : State) (d : Dir) : (s.setDir d).keys = s.keys := rfl
@[simp] theorem setDir_negot (s : State) (d : Dir) : (s.setDir d).negot = s.negot := rfl
@[simp] theorem setDir_fw (s : State) (d : Dir) : (s.setDir d).fw = s.fw := rfl
@[simp] theorem setDir_engine (s : State) (d : Dir) : (s.setDir d).engine = s.engine := rfl
@[simp] theorem setDir_trains (s : State) (d : Dir) : (s.setDir d).trains = s.trains := rfl
@[simp] theorem setDir_rings (s : State) (d : Dir) : (s.setDir d).rings = s.rings := rfl
@[simp] theorem setDir_taken (s : State) (d : Dir) : (s.setDir d).taken = s.taken := rfl
@[simp] theorem setDir_writes (s : State) (d : Dir) : (s.setDir d).writes = s.writes := rfl
@[simp] theorem setDir_reads (s : State) (d : Dir) : (s.setDir d).reads = s.reads := rfl
@[simp] theorem setDir_links (s : State) (d : Dir) : (s.setDir d).links = s.links := rfl
@[simp] theorem setDir_xch (s : State) (d : Dir) : (s.setDir d).xch = s.xch := rfl
@[simp] theorem setDir_tick (s : State) (d : Dir) : (s.setDir d).tick = s.tick := rfl
@[simp] theorem setDir_lines (s : State) (d : Dir) : (s.setDir d).lines = s.lines := rfl
@[simp] theorem setDir_inputs (s : State) (d : Dir) : (s.setDir d).inputs = s.inputs := rfl
@[simp] theorem setDir_frames (s : State) (d : Dir) : (s.setDir d).frames = s.frames := rfl
@[simp] theorem setDir_digest (s : State) (d : Dir) : (s.setDir d).digest = s.digest := rfl
@[simp] theorem setDir_reqs (s : State) (d : Dir) : (s.setDir d).reqs = s.reqs := rfl
@[simp] theorem setDir_dirs (s : State) (d : Dir) : (s.setDir d).dirs = putKey Dir.slot d s.dirs := rfl
@[simp] theorem setDir_charges (s : State) (d : Dir) : (s.setDir d).charges = s.charges := rfl
@[simp] theorem setDir_tmap (s : State) (d : Dir) : (s.setDir d).tmap = s.tmap := rfl
@[simp] theorem setDir_stale (s : State) (d : Dir) : (s.setDir d).stale = s.stale := rfl
@[simp] theorem setDir_tierOld (s : State) (d : Dir) : (s.setDir d).tierOld = s.tierOld := rfl
@[simp] theorem setDir_tenants (s : State) (d : Dir) : (s.setDir d).tenants = s.tenants := rfl
@[simp] theorem setDir_snaps (s : State) (d : Dir) : (s.setDir d).snaps = s.snaps := rfl
@[simp] theorem setDir_rb (s : State) (d : Dir) : (s.setDir d).rb = s.rb := rfl
@[simp] theorem setDir_power (s : State) (d : Dir) : (s.setDir d).power = s.power := rfl
@[simp] theorem setDir_log (s : State) (d : Dir) : (s.setDir d).log = s.log := rfl
@[simp] theorem setDir_adMem (s : State) (d : Dir) : (s.setDir d).adMem = s.adMem := rfl
@[simp] theorem setDir_errs (s : State) (d : Dir) : (s.setDir d).errs = s.errs := rfl
@[simp] theorem setDir_irqPend (s : State) (d : Dir) : (s.setDir d).irqPend = s.irqPend := rfl

/-! setTenant. -/

@[simp] theorem setTenant_pending (s : State) (t : Tenant) : (s.setTenant t).pending = s.pending := rfl
@[simp] theorem setTenant_now (s : State) (t : Tenant) : (s.setTenant t).now = s.now := rfl
@[simp] theorem setTenant_free (s : State) (t : Tenant) : (s.setTenant t).free = s.free := rfl
@[simp] theorem setTenant_build (s : State) (t : Tenant) : (s.setTenant t).build = s.build := rfl
@[simp] theorem setTenant_fuses (s : State) (t : Tenant) : (s.setTenant t).fuses = s.fuses := rfl
@[simp] theorem setTenant_powered (s : State) (t : Tenant) : (s.setTenant t).powered = s.powered := rfl
@[simp] theorem setTenant_rstN (s : State) (t : Tenant) : (s.setTenant t).rstN = s.rstN := rfl
@[simp] theorem setTenant_warmN (s : State) (t : Tenant) : (s.setTenant t).warmN = s.warmN := rfl
@[simp] theorem setTenant_wrapper (s : State) (t : Tenant) : (s.setTenant t).wrapper = s.wrapper := rfl
@[simp] theorem setTenant_regs (s : State) (t : Tenant) : (s.setTenant t).regs = s.regs := rfl
@[simp] theorem setTenant_keys (s : State) (t : Tenant) : (s.setTenant t).keys = s.keys := rfl
@[simp] theorem setTenant_negot (s : State) (t : Tenant) : (s.setTenant t).negot = s.negot := rfl
@[simp] theorem setTenant_fw (s : State) (t : Tenant) : (s.setTenant t).fw = s.fw := rfl
@[simp] theorem setTenant_engine (s : State) (t : Tenant) : (s.setTenant t).engine = s.engine := rfl
@[simp] theorem setTenant_trains (s : State) (t : Tenant) : (s.setTenant t).trains = s.trains := rfl
@[simp] theorem setTenant_rings (s : State) (t : Tenant) : (s.setTenant t).rings = s.rings := rfl
@[simp] theorem setTenant_taken (s : State) (t : Tenant) : (s.setTenant t).taken = s.taken := rfl
@[simp] theorem setTenant_writes (s : State) (t : Tenant) : (s.setTenant t).writes = s.writes := rfl
@[simp] theorem setTenant_reads (s : State) (t : Tenant) : (s.setTenant t).reads = s.reads := rfl
@[simp] theorem setTenant_links (s : State) (t : Tenant) : (s.setTenant t).links = s.links := rfl
@[simp] theorem setTenant_xch (s : State) (t : Tenant) : (s.setTenant t).xch = s.xch := rfl
@[simp] theorem setTenant_tick (s : State) (t : Tenant) : (s.setTenant t).tick = s.tick := rfl
@[simp] theorem setTenant_lines (s : State) (t : Tenant) : (s.setTenant t).lines = s.lines := rfl
@[simp] theorem setTenant_inputs (s : State) (t : Tenant) : (s.setTenant t).inputs = s.inputs := rfl
@[simp] theorem setTenant_frames (s : State) (t : Tenant) : (s.setTenant t).frames = s.frames := rfl
@[simp] theorem setTenant_digest (s : State) (t : Tenant) : (s.setTenant t).digest = s.digest := rfl
@[simp] theorem setTenant_reqs (s : State) (t : Tenant) : (s.setTenant t).reqs = s.reqs := rfl
@[simp] theorem setTenant_dirs (s : State) (t : Tenant) : (s.setTenant t).dirs = s.dirs := rfl
@[simp] theorem setTenant_charges (s : State) (t : Tenant) : (s.setTenant t).charges = s.charges := rfl
@[simp] theorem setTenant_tmap (s : State) (t : Tenant) : (s.setTenant t).tmap = s.tmap := rfl
@[simp] theorem setTenant_stale (s : State) (t : Tenant) : (s.setTenant t).stale = s.stale := rfl
@[simp] theorem setTenant_tierOld (s : State) (t : Tenant) : (s.setTenant t).tierOld = s.tierOld := rfl
@[simp] theorem setTenant_tenants (s : State) (t : Tenant) : (s.setTenant t).tenants = putKey Tenant.id t s.tenants := rfl
@[simp] theorem setTenant_snaps (s : State) (t : Tenant) : (s.setTenant t).snaps = s.snaps := rfl
@[simp] theorem setTenant_rb (s : State) (t : Tenant) : (s.setTenant t).rb = s.rb := rfl
@[simp] theorem setTenant_power (s : State) (t : Tenant) : (s.setTenant t).power = s.power := rfl
@[simp] theorem setTenant_log (s : State) (t : Tenant) : (s.setTenant t).log = s.log := rfl
@[simp] theorem setTenant_adMem (s : State) (t : Tenant) : (s.setTenant t).adMem = s.adMem := rfl
@[simp] theorem setTenant_errs (s : State) (t : Tenant) : (s.setTenant t).errs = s.errs := rfl
@[simp] theorem setTenant_irqPend (s : State) (t : Tenant) : (s.setTenant t).irqPend = s.irqPend := rfl

/-! updTick. -/

@[simp] theorem updTick_pending (s : State) (f : TickSt → TickSt) : (s.updTick f).pending = s.pending := rfl
@[simp] theorem updTick_now (s : State) (f : TickSt → TickSt) : (s.updTick f).now = s.now := rfl
@[simp] theorem updTick_free (s : State) (f : TickSt → TickSt) : (s.updTick f).free = s.free := rfl
@[simp] theorem updTick_build (s : State) (f : TickSt → TickSt) : (s.updTick f).build = s.build := rfl
@[simp] theorem updTick_fuses (s : State) (f : TickSt → TickSt) : (s.updTick f).fuses = s.fuses := rfl
@[simp] theorem updTick_powered (s : State) (f : TickSt → TickSt) : (s.updTick f).powered = s.powered := rfl
@[simp] theorem updTick_rstN (s : State) (f : TickSt → TickSt) : (s.updTick f).rstN = s.rstN := rfl
@[simp] theorem updTick_warmN (s : State) (f : TickSt → TickSt) : (s.updTick f).warmN = s.warmN := rfl
@[simp] theorem updTick_wrapper (s : State) (f : TickSt → TickSt) : (s.updTick f).wrapper = s.wrapper := rfl
@[simp] theorem updTick_regs (s : State) (f : TickSt → TickSt) : (s.updTick f).regs = s.regs := rfl
@[simp] theorem updTick_keys (s : State) (f : TickSt → TickSt) : (s.updTick f).keys = s.keys := rfl
@[simp] theorem updTick_negot (s : State) (f : TickSt → TickSt) : (s.updTick f).negot = s.negot := rfl
@[simp] theorem updTick_fw (s : State) (f : TickSt → TickSt) : (s.updTick f).fw = s.fw := rfl
@[simp] theorem updTick_engine (s : State) (f : TickSt → TickSt) : (s.updTick f).engine = s.engine := rfl
@[simp] theorem updTick_trains (s : State) (f : TickSt → TickSt) : (s.updTick f).trains = s.trains := rfl
@[simp] theorem updTick_rings (s : State) (f : TickSt → TickSt) : (s.updTick f).rings = s.rings := rfl
@[simp] theorem updTick_taken (s : State) (f : TickSt → TickSt) : (s.updTick f).taken = s.taken := rfl
@[simp] theorem updTick_writes (s : State) (f : TickSt → TickSt) : (s.updTick f).writes = s.writes := rfl
@[simp] theorem updTick_reads (s : State) (f : TickSt → TickSt) : (s.updTick f).reads = s.reads := rfl
@[simp] theorem updTick_links (s : State) (f : TickSt → TickSt) : (s.updTick f).links = s.links := rfl
@[simp] theorem updTick_xch (s : State) (f : TickSt → TickSt) : (s.updTick f).xch = s.xch := rfl
@[simp] theorem updTick_tick (s : State) (f : TickSt → TickSt) : (s.updTick f).tick = f s.tick := rfl
@[simp] theorem updTick_lines (s : State) (f : TickSt → TickSt) : (s.updTick f).lines = s.lines := rfl
@[simp] theorem updTick_inputs (s : State) (f : TickSt → TickSt) : (s.updTick f).inputs = s.inputs := rfl
@[simp] theorem updTick_frames (s : State) (f : TickSt → TickSt) : (s.updTick f).frames = s.frames := rfl
@[simp] theorem updTick_digest (s : State) (f : TickSt → TickSt) : (s.updTick f).digest = s.digest := rfl
@[simp] theorem updTick_reqs (s : State) (f : TickSt → TickSt) : (s.updTick f).reqs = s.reqs := rfl
@[simp] theorem updTick_dirs (s : State) (f : TickSt → TickSt) : (s.updTick f).dirs = s.dirs := rfl
@[simp] theorem updTick_charges (s : State) (f : TickSt → TickSt) : (s.updTick f).charges = s.charges := rfl
@[simp] theorem updTick_tmap (s : State) (f : TickSt → TickSt) : (s.updTick f).tmap = s.tmap := rfl
@[simp] theorem updTick_stale (s : State) (f : TickSt → TickSt) : (s.updTick f).stale = s.stale := rfl
@[simp] theorem updTick_tierOld (s : State) (f : TickSt → TickSt) : (s.updTick f).tierOld = s.tierOld := rfl
@[simp] theorem updTick_tenants (s : State) (f : TickSt → TickSt) : (s.updTick f).tenants = s.tenants := rfl
@[simp] theorem updTick_snaps (s : State) (f : TickSt → TickSt) : (s.updTick f).snaps = s.snaps := rfl
@[simp] theorem updTick_rb (s : State) (f : TickSt → TickSt) : (s.updTick f).rb = s.rb := rfl
@[simp] theorem updTick_power (s : State) (f : TickSt → TickSt) : (s.updTick f).power = s.power := rfl
@[simp] theorem updTick_log (s : State) (f : TickSt → TickSt) : (s.updTick f).log = s.log := rfl
@[simp] theorem updTick_adMem (s : State) (f : TickSt → TickSt) : (s.updTick f).adMem = s.adMem := rfl
@[simp] theorem updTick_errs (s : State) (f : TickSt → TickSt) : (s.updTick f).errs = s.errs := rfl
@[simp] theorem updTick_irqPend (s : State) (f : TickSt → TickSt) : (s.updTick f).irqPend = s.irqPend := rfl

/-! updXch. -/

@[simp] theorem updXch_pending (s : State) (f : Xch → Xch) : (s.updXch f).pending = s.pending := rfl
@[simp] theorem updXch_now (s : State) (f : Xch → Xch) : (s.updXch f).now = s.now := rfl
@[simp] theorem updXch_free (s : State) (f : Xch → Xch) : (s.updXch f).free = s.free := rfl
@[simp] theorem updXch_build (s : State) (f : Xch → Xch) : (s.updXch f).build = s.build := rfl
@[simp] theorem updXch_fuses (s : State) (f : Xch → Xch) : (s.updXch f).fuses = s.fuses := rfl
@[simp] theorem updXch_powered (s : State) (f : Xch → Xch) : (s.updXch f).powered = s.powered := rfl
@[simp] theorem updXch_rstN (s : State) (f : Xch → Xch) : (s.updXch f).rstN = s.rstN := rfl
@[simp] theorem updXch_warmN (s : State) (f : Xch → Xch) : (s.updXch f).warmN = s.warmN := rfl
@[simp] theorem updXch_wrapper (s : State) (f : Xch → Xch) : (s.updXch f).wrapper = s.wrapper := rfl
@[simp] theorem updXch_regs (s : State) (f : Xch → Xch) : (s.updXch f).regs = s.regs := rfl
@[simp] theorem updXch_keys (s : State) (f : Xch → Xch) : (s.updXch f).keys = s.keys := rfl
@[simp] theorem updXch_negot (s : State) (f : Xch → Xch) : (s.updXch f).negot = s.negot := rfl
@[simp] theorem updXch_fw (s : State) (f : Xch → Xch) : (s.updXch f).fw = s.fw := rfl
@[simp] theorem updXch_engine (s : State) (f : Xch → Xch) : (s.updXch f).engine = s.engine := rfl
@[simp] theorem updXch_trains (s : State) (f : Xch → Xch) : (s.updXch f).trains = s.trains := rfl
@[simp] theorem updXch_rings (s : State) (f : Xch → Xch) : (s.updXch f).rings = s.rings := rfl
@[simp] theorem updXch_taken (s : State) (f : Xch → Xch) : (s.updXch f).taken = s.taken := rfl
@[simp] theorem updXch_writes (s : State) (f : Xch → Xch) : (s.updXch f).writes = s.writes := rfl
@[simp] theorem updXch_reads (s : State) (f : Xch → Xch) : (s.updXch f).reads = s.reads := rfl
@[simp] theorem updXch_links (s : State) (f : Xch → Xch) : (s.updXch f).links = s.links := rfl
@[simp] theorem updXch_xch (s : State) (f : Xch → Xch) : (s.updXch f).xch = f s.xch := rfl
@[simp] theorem updXch_tick (s : State) (f : Xch → Xch) : (s.updXch f).tick = s.tick := rfl
@[simp] theorem updXch_lines (s : State) (f : Xch → Xch) : (s.updXch f).lines = s.lines := rfl
@[simp] theorem updXch_inputs (s : State) (f : Xch → Xch) : (s.updXch f).inputs = s.inputs := rfl
@[simp] theorem updXch_frames (s : State) (f : Xch → Xch) : (s.updXch f).frames = s.frames := rfl
@[simp] theorem updXch_digest (s : State) (f : Xch → Xch) : (s.updXch f).digest = s.digest := rfl
@[simp] theorem updXch_reqs (s : State) (f : Xch → Xch) : (s.updXch f).reqs = s.reqs := rfl
@[simp] theorem updXch_dirs (s : State) (f : Xch → Xch) : (s.updXch f).dirs = s.dirs := rfl
@[simp] theorem updXch_charges (s : State) (f : Xch → Xch) : (s.updXch f).charges = s.charges := rfl
@[simp] theorem updXch_tmap (s : State) (f : Xch → Xch) : (s.updXch f).tmap = s.tmap := rfl
@[simp] theorem updXch_stale (s : State) (f : Xch → Xch) : (s.updXch f).stale = s.stale := rfl
@[simp] theorem updXch_tierOld (s : State) (f : Xch → Xch) : (s.updXch f).tierOld = s.tierOld := rfl
@[simp] theorem updXch_tenants (s : State) (f : Xch → Xch) : (s.updXch f).tenants = s.tenants := rfl
@[simp] theorem updXch_snaps (s : State) (f : Xch → Xch) : (s.updXch f).snaps = s.snaps := rfl
@[simp] theorem updXch_rb (s : State) (f : Xch → Xch) : (s.updXch f).rb = s.rb := rfl
@[simp] theorem updXch_power (s : State) (f : Xch → Xch) : (s.updXch f).power = s.power := rfl
@[simp] theorem updXch_log (s : State) (f : Xch → Xch) : (s.updXch f).log = s.log := rfl
@[simp] theorem updXch_adMem (s : State) (f : Xch → Xch) : (s.updXch f).adMem = s.adMem := rfl
@[simp] theorem updXch_errs (s : State) (f : Xch → Xch) : (s.updXch f).errs = s.errs := rfl
@[simp] theorem updXch_irqPend (s : State) (f : Xch → Xch) : (s.updXch f).irqPend = s.irqPend := rfl

/-! updPower. -/

@[simp] theorem updPower_pending (s : State) (f : Power → Power) : (s.updPower f).pending = s.pending := rfl
@[simp] theorem updPower_now (s : State) (f : Power → Power) : (s.updPower f).now = s.now := rfl
@[simp] theorem updPower_free (s : State) (f : Power → Power) : (s.updPower f).free = s.free := rfl
@[simp] theorem updPower_build (s : State) (f : Power → Power) : (s.updPower f).build = s.build := rfl
@[simp] theorem updPower_fuses (s : State) (f : Power → Power) : (s.updPower f).fuses = s.fuses := rfl
@[simp] theorem updPower_powered (s : State) (f : Power → Power) : (s.updPower f).powered = s.powered := rfl
@[simp] theorem updPower_rstN (s : State) (f : Power → Power) : (s.updPower f).rstN = s.rstN := rfl
@[simp] theorem updPower_warmN (s : State) (f : Power → Power) : (s.updPower f).warmN = s.warmN := rfl
@[simp] theorem updPower_wrapper (s : State) (f : Power → Power) : (s.updPower f).wrapper = s.wrapper := rfl
@[simp] theorem updPower_regs (s : State) (f : Power → Power) : (s.updPower f).regs = s.regs := rfl
@[simp] theorem updPower_keys (s : State) (f : Power → Power) : (s.updPower f).keys = s.keys := rfl
@[simp] theorem updPower_negot (s : State) (f : Power → Power) : (s.updPower f).negot = s.negot := rfl
@[simp] theorem updPower_fw (s : State) (f : Power → Power) : (s.updPower f).fw = s.fw := rfl
@[simp] theorem updPower_engine (s : State) (f : Power → Power) : (s.updPower f).engine = s.engine := rfl
@[simp] theorem updPower_trains (s : State) (f : Power → Power) : (s.updPower f).trains = s.trains := rfl
@[simp] theorem updPower_rings (s : State) (f : Power → Power) : (s.updPower f).rings = s.rings := rfl
@[simp] theorem updPower_taken (s : State) (f : Power → Power) : (s.updPower f).taken = s.taken := rfl
@[simp] theorem updPower_writes (s : State) (f : Power → Power) : (s.updPower f).writes = s.writes := rfl
@[simp] theorem updPower_reads (s : State) (f : Power → Power) : (s.updPower f).reads = s.reads := rfl
@[simp] theorem updPower_links (s : State) (f : Power → Power) : (s.updPower f).links = s.links := rfl
@[simp] theorem updPower_xch (s : State) (f : Power → Power) : (s.updPower f).xch = s.xch := rfl
@[simp] theorem updPower_tick (s : State) (f : Power → Power) : (s.updPower f).tick = s.tick := rfl
@[simp] theorem updPower_lines (s : State) (f : Power → Power) : (s.updPower f).lines = s.lines := rfl
@[simp] theorem updPower_inputs (s : State) (f : Power → Power) : (s.updPower f).inputs = s.inputs := rfl
@[simp] theorem updPower_frames (s : State) (f : Power → Power) : (s.updPower f).frames = s.frames := rfl
@[simp] theorem updPower_digest (s : State) (f : Power → Power) : (s.updPower f).digest = s.digest := rfl
@[simp] theorem updPower_reqs (s : State) (f : Power → Power) : (s.updPower f).reqs = s.reqs := rfl
@[simp] theorem updPower_dirs (s : State) (f : Power → Power) : (s.updPower f).dirs = s.dirs := rfl
@[simp] theorem updPower_charges (s : State) (f : Power → Power) : (s.updPower f).charges = s.charges := rfl
@[simp] theorem updPower_tmap (s : State) (f : Power → Power) : (s.updPower f).tmap = s.tmap := rfl
@[simp] theorem updPower_stale (s : State) (f : Power → Power) : (s.updPower f).stale = s.stale := rfl
@[simp] theorem updPower_tierOld (s : State) (f : Power → Power) : (s.updPower f).tierOld = s.tierOld := rfl
@[simp] theorem updPower_tenants (s : State) (f : Power → Power) : (s.updPower f).tenants = s.tenants := rfl
@[simp] theorem updPower_snaps (s : State) (f : Power → Power) : (s.updPower f).snaps = s.snaps := rfl
@[simp] theorem updPower_rb (s : State) (f : Power → Power) : (s.updPower f).rb = s.rb := rfl
@[simp] theorem updPower_power (s : State) (f : Power → Power) : (s.updPower f).power = f s.power := rfl
@[simp] theorem updPower_log (s : State) (f : Power → Power) : (s.updPower f).log = s.log := rfl
@[simp] theorem updPower_adMem (s : State) (f : Power → Power) : (s.updPower f).adMem = s.adMem := rfl
@[simp] theorem updPower_errs (s : State) (f : Power → Power) : (s.updPower f).errs = s.errs := rfl
@[simp] theorem updPower_irqPend (s : State) (f : Power → Power) : (s.updPower f).irqPend = s.irqPend := rfl

/-! updLine. -/

@[simp] theorem updLine_pending (s : State) (l : Nat) (f : LineSt → LineSt) : (s.updLine l f).pending = s.pending := rfl
@[simp] theorem updLine_now (s : State) (l : Nat) (f : LineSt → LineSt) : (s.updLine l f).now = s.now := rfl
@[simp] theorem updLine_free (s : State) (l : Nat) (f : LineSt → LineSt) : (s.updLine l f).free = s.free := rfl
@[simp] theorem updLine_build (s : State) (l : Nat) (f : LineSt → LineSt) : (s.updLine l f).build = s.build := rfl
@[simp] theorem updLine_fuses (s : State) (l : Nat) (f : LineSt → LineSt) : (s.updLine l f).fuses = s.fuses := rfl
@[simp] theorem updLine_powered (s : State) (l : Nat) (f : LineSt → LineSt) : (s.updLine l f).powered = s.powered := rfl
@[simp] theorem updLine_rstN (s : State) (l : Nat) (f : LineSt → LineSt) : (s.updLine l f).rstN = s.rstN := rfl
@[simp] theorem updLine_warmN (s : State) (l : Nat) (f : LineSt → LineSt) : (s.updLine l f).warmN = s.warmN := rfl
@[simp] theorem updLine_wrapper (s : State) (l : Nat) (f : LineSt → LineSt) : (s.updLine l f).wrapper = s.wrapper := rfl
@[simp] theorem updLine_regs (s : State) (l : Nat) (f : LineSt → LineSt) : (s.updLine l f).regs = s.regs := rfl
@[simp] theorem updLine_keys (s : State) (l : Nat) (f : LineSt → LineSt) : (s.updLine l f).keys = s.keys := rfl
@[simp] theorem updLine_negot (s : State) (l : Nat) (f : LineSt → LineSt) : (s.updLine l f).negot = s.negot := rfl
@[simp] theorem updLine_fw (s : State) (l : Nat) (f : LineSt → LineSt) : (s.updLine l f).fw = s.fw := rfl
@[simp] theorem updLine_engine (s : State) (l : Nat) (f : LineSt → LineSt) : (s.updLine l f).engine = s.engine := rfl
@[simp] theorem updLine_trains (s : State) (l : Nat) (f : LineSt → LineSt) : (s.updLine l f).trains = s.trains := rfl
@[simp] theorem updLine_rings (s : State) (l : Nat) (f : LineSt → LineSt) : (s.updLine l f).rings = s.rings := rfl
@[simp] theorem updLine_taken (s : State) (l : Nat) (f : LineSt → LineSt) : (s.updLine l f).taken = s.taken := rfl
@[simp] theorem updLine_writes (s : State) (l : Nat) (f : LineSt → LineSt) : (s.updLine l f).writes = s.writes := rfl
@[simp] theorem updLine_reads (s : State) (l : Nat) (f : LineSt → LineSt) : (s.updLine l f).reads = s.reads := rfl
@[simp] theorem updLine_links (s : State) (l : Nat) (f : LineSt → LineSt) : (s.updLine l f).links = s.links := rfl
@[simp] theorem updLine_xch (s : State) (l : Nat) (f : LineSt → LineSt) : (s.updLine l f).xch = s.xch := rfl
@[simp] theorem updLine_tick (s : State) (l : Nat) (f : LineSt → LineSt) : (s.updLine l f).tick = s.tick := rfl
@[simp] theorem updLine_lines (s : State) (l : Nat) (f : LineSt → LineSt) : (s.updLine l f).lines = s.lines.setIfInBounds l (f (s.line l)) := rfl
@[simp] theorem updLine_inputs (s : State) (l : Nat) (f : LineSt → LineSt) : (s.updLine l f).inputs = s.inputs := rfl
@[simp] theorem updLine_frames (s : State) (l : Nat) (f : LineSt → LineSt) : (s.updLine l f).frames = s.frames := rfl
@[simp] theorem updLine_digest (s : State) (l : Nat) (f : LineSt → LineSt) : (s.updLine l f).digest = s.digest := rfl
@[simp] theorem updLine_reqs (s : State) (l : Nat) (f : LineSt → LineSt) : (s.updLine l f).reqs = s.reqs := rfl
@[simp] theorem updLine_dirs (s : State) (l : Nat) (f : LineSt → LineSt) : (s.updLine l f).dirs = s.dirs := rfl
@[simp] theorem updLine_charges (s : State) (l : Nat) (f : LineSt → LineSt) : (s.updLine l f).charges = s.charges := rfl
@[simp] theorem updLine_tmap (s : State) (l : Nat) (f : LineSt → LineSt) : (s.updLine l f).tmap = s.tmap := rfl
@[simp] theorem updLine_stale (s : State) (l : Nat) (f : LineSt → LineSt) : (s.updLine l f).stale = s.stale := rfl
@[simp] theorem updLine_tierOld (s : State) (l : Nat) (f : LineSt → LineSt) : (s.updLine l f).tierOld = s.tierOld := rfl
@[simp] theorem updLine_tenants (s : State) (l : Nat) (f : LineSt → LineSt) : (s.updLine l f).tenants = s.tenants := rfl
@[simp] theorem updLine_snaps (s : State) (l : Nat) (f : LineSt → LineSt) : (s.updLine l f).snaps = s.snaps := rfl
@[simp] theorem updLine_rb (s : State) (l : Nat) (f : LineSt → LineSt) : (s.updLine l f).rb = s.rb := rfl
@[simp] theorem updLine_power (s : State) (l : Nat) (f : LineSt → LineSt) : (s.updLine l f).power = s.power := rfl
@[simp] theorem updLine_log (s : State) (l : Nat) (f : LineSt → LineSt) : (s.updLine l f).log = s.log := rfl
@[simp] theorem updLine_adMem (s : State) (l : Nat) (f : LineSt → LineSt) : (s.updLine l f).adMem = s.adMem := rfl
@[simp] theorem updLine_errs (s : State) (l : Nat) (f : LineSt → LineSt) : (s.updLine l f).errs = s.errs := rfl
@[simp] theorem updLine_irqPend (s : State) (l : Nat) (f : LineSt → LineSt) : (s.updLine l f).irqPend = s.irqPend := rfl

/-! Registers. -/

/-- A register write leaves every other register. -/
theorem reg_setReg_ne (s : State) {a b : Nat} (v : Word) (h : b ≠ a) : (s.setReg a v).reg b = s.reg b := by
  have go : ∀ l : List (Nat × Word), ((l.map fun r => if r.1 = a then (a, v) else r).find? fun r => r.1 = b).map (·.2)
      = (l.find? fun r => r.1 = b).map (·.2) := by
    intro l
    induction l with
    | nil => rfl
    | cons x xs ih =>
      simp only [List.map_cons, List.find?_cons]
      by_cases hx : x.1 = a
      · have h1 : (a = b) = False := eq_false fun e => h e.symm
        have h2 : (x.1 = b) = False := eq_false fun e => h (e.symm.trans hx)
        simp only [hx, if_true, h1, decide_false]
        simpa only using ih
      · simp only [hx, if_false]
        split <;> simp_all
  simp only [State.reg, State.setReg, go]

/-- A register that exists reads what was written. -/
theorem reg_setReg (s : State) {a : Nat} (v : Word) (h : a ∈ s.regs.map (·.1)) : (s.setReg a v).reg a = v := by
  have go : ∀ l : List (Nat × Word), a ∈ l.map (·.1) →
      ((l.map fun r => if r.1 = a then (a, v) else r).find? fun r => r.1 = a).map (·.2) = some v := by
    intro l
    induction l with
    | nil => intro h; cases h
    | cons x xs ih =>
      intro h
      simp only [List.map_cons, List.find?_cons]
      by_cases hx : x.1 = a
      · simp [hx]
      · simp only [hx, if_false, decide_false]
        exact ih (by simpa [Ne.symm hx] using h)
  simp only [State.reg, State.setReg, go _ h, Option.getD_some]

/-- A register write makes no register and takes none away. -/
theorem setReg_offsets (s : State) (a : Nat) (v : Word) : (s.setReg a v).regs.map (·.1) = s.regs.map (·.1) := by
  simp only [State.setReg, List.map_map]
  refine List.map_congr_left fun r _ => ?_
  simp only [Function.comp]
  split <;> simp_all

/-! Counters. -/

theorem idx_inj {c d : Cnt} (h : c.idx = d.idx) : c = d := by
  cases c <;> cases d <;> first | rfl | exact absurd h (by decide)

theorem idx_lt (c : Cnt) : c.idx < 64 := by cases c <;> decide

/-- Counting raises one counter, saturating, and no other (R575). -/
theorem cntVal_count (s : State) (c d : Cnt) (n : Nat) :
    (s.count c n).cntVal d = if c = d then min (s.cntVal d + n) (2 ^ 64 - 1) else s.cntVal d := by
  simp only [State.count, State.cntVal, Vector.toList_setIfInBounds, List.getD_eq_getElem?_getD, List.getElem?_set]
  by_cases h : c = d
  · subst h
    simp only [if_true, Vector.length_toList, idx_lt c, satAdd64, Option.getD_some, BitVec.toNat_ofNat]
    omega
  · have : c.idx ≠ d.idx := fun e => h (idx_inj e)
    simp only [this, if_false, h]

end Sys2Proof.Laws
end

