-- ==== Sys2Proof/WellFormed.lean ====
section
/-! DEFINITION. Well-formed commands: the operands that the block's pins, fields and registers can carry. A meaning answers on
every operand; these checks say which of them the hardware can present. -/
namespace Sys2Proof

/-- A STOP_ID that names a stop (R489). -/
def isStop (stop : Nat) : Bool := decide (stop < 6)
/-- A line (R12). -/
def isLine (line : Nat) : Bool := decide (line < 2)
/-- A ring (R451). -/
def isRing (k : Nat) : Bool := decide (k < 8)
/-- A port code of IX7-512 (R505). -/
def isPort (p : Nat) : Bool := decide (p < 5) || (decide (16 ≤ p) && decide (p < 32))
/-- A CFG word offset (R494, R588). -/
def isOff (off : Nat) : Bool := decide (off < 2 ^ 20) && decide (off % 4 = 0)
/-- A request slot (R388). -/
def isSlot (slot : Nat) : Bool := decide (slot < 2 ^ 12)
/-- A directory slot (R226). -/
def isDirSlot (slot : Nat) : Bool := decide (slot < 2 ^ 18)
/-- An address of the adapter space (R229). -/
def isAdAddr (a : Nat) : Bool := decide (a < 2 ^ 48)
/-- What a doorbell read brings back: at most one view for each ring (R453). -/
def isViews (v : List RingView) : Bool := decide (v.length ≤ 8)

/-- A scope that the two bits of a descriptor's SCOPE and its target can name (R480). -/
def ScopeId.wf : ScopeId → Bool
  | .engine => true
  | .ring k => isRing k
  | .tenant t => decide (t < 2 ^ 16)
  | .train t => decide (t < 32)

/-- A sensor report within the widths of its registers (R582, R583). -/
def SensorRep.wf (r : SensorRep) : Bool :=
  decide (-32768 ≤ r.tj) && decide (r.tj < 32768) && decide (r.vddIx < 65536) && decide (r.vddDep < 65536) && decide (r.vddIo < 65536)

/-- An instruction the wrapper has for this family; a cluster number is below the 512 of IX7-512 (R2, R536). -/
def WrapperInstr.wf : WrapperInstr → Bool
  | .fuseProg c => decide (c < 512)
  | .bypass | .extest | .intest | .memTest => true

/-- The well-formed commands. -/
def Instr.wf : Instr → Bool
  | .tickEdge _ v => isViews v
  | .heldEdgeRelease v => isViews v
  | .strictOverrunStart v => isViews v
  | .tickHeader _ _ => true
  | .tickHeaderTimeout => true
  | .idleTimeout => true
  | .quiesceEdgeTimeout => true
  | .timetableBuild _ b => decide (b.lines.length ≤ 131072)
  | .stopOpen stop => decide (stop < 8)
  | .stopClose => true
  | .stopDataFlit port _ _ => decide (port < 2)
  | .timetableWaitRelease _ _ => true
  | .tickWorkDone _ => true
  | .xchReturnedFlit _ _ => true
  | .consignmentComplete num => decide (num < 2 ^ 16)
  | .digestCompare => true
  | .routingPlacement stop _ => isStop stop
  | .ringHeaderRead hdrs => hdrs.all fun h => isSlot h.1
  | .headDecision _ _ => true
  | .tokenIrqHoldoffExpiry => true
  | .stepBoundary line _ => isLine line
  | .ttlExpiry slot _ => isSlot slot
  | .pageMoveLanded slot _ => isSlot slot
  | .runMoveRemap addr => isAdAddr addr
  | .conversionRemap slot => isDirSlot slot
  | .writeBackLanded addr => isAdAddr addr
  | .depotCrcMismatch addr _ _ _ _ => isAdAddr addr
  | .platformParityError addr _ _ => isAdAddr addr
  | .loadBuildComplete slot _ => isDirSlot slot
  | .releaseComplete slot => isDirSlot slot
  | .rowUpdateWritten ring _ _ => isRing ring
  | .adaptStateReady slot => isDirSlot slot
  | .quiesceDrainDone scope => scope.wf
  | .nop => true
  | .negotiate => true
  | .enableEngine _ => true
  | .enableRing => true
  | .enableTenant => true
  | .enableTrain => true
  | .quiesceEngine => true
  | .quiesceRing => true
  | .quiesceTenant => true
  | .quiesceTrain => true
  | .snapshot => true
  | .snapshotLogbook => true
  | .snapshotCapturePoint => true
  | .snapshotWritesDone => true
  | .openRequest _ => true
  | .cancel => true
  | .pause => true
  | .resume => true
  | .setSampling => true
  | .loadAdapter => true
  | .tableLoad => true
  | .swapAdapterStage => true
  | .swapAdapterCommit => true
  | .retireAdapter => true
  | .setQuota => true
  | .tableRowUpdate => true
  | .adaptEnableAdapter => true
  | .adaptEnableRequest => true
  | .loadSpecial _ => true
  | .unloadSpecial => true
  | .linkInit port _ _ => isPort port
  | .flitReceive port _ _ => isPort port
  | .ackReceive port _ _ _ => isPort port
  | .replayTimeout port => isPort port
  | .fmReadData _ _ _ => true
  | .fmReadError _ => true
  | .fmWriteAck _ _ => true
  | .fmTimeout _ => true
  | .partnerLost => true
  | .join => true
  | .joinComplete => true
  | .joinTimeout => true
  | .portReset _ => true
  | .dbWake v => isViews v
  | .ringCfgValid k _ => isRing k
  | .tickCountLoRead => true
  | .rcFieldRead off => isOff off
  | .errStatusClear _ => true
  | .irqPendClear _ => true
  | .complHoldoffExpiry => true
  | .pwrCapWrite _ => true
  | .pubkeyLock _ => true
  | .fwLoad => true
  | .fwLoadDone _ => true
  | .logSave => true
  | .logRestore half0 half1 => decide (half0.length = 2048) && decide (half1.length = 2048)
  | .rbStart => true
  | .rbAbort => true
  | .rbCaptureDone _ _ _ _ => true
  | .registerWrite off _ => isOff off
  | .rstNAssert => true
  | .rstNRelease => true
  | .reserveInitDone => true
  | .warmRstN => true
  | .throttleAssert => true
  | .throttleRelease => true
  | .governorWindow _ => true
  | .sensorReport r => r.wf
  | .pThermUpdate => true
  | .droop => true
  | .droopClear => true
  | .supplyHalt => true
  | .internalHalt => true
  | .heartbeat => true
  | .tickBudgetExpiry _ => true
  | .linkInitResend port => isPort port
  | .cacheFillDone slot _ => isDirSlot slot
  | .powerLoss => true
  | .powerUp => true
  | .wrapperInstruction i => i.wf

end Sys2Proof
end

