-- ==== Sys2Proof/Tests/Slice0.lean ====
section
/-! SUPPORT. Tests of single steps, with expected values worked out from the rules named, and for each statement a witness: concrete
states and operands that meet its hypotheses, clause by clause. -/
namespace Sys2Proof.Tests
open Sys2Proof Sys2Proof.Machine

set_option Elab.async false

/-! Small states. -/

/-- The state after a command. -/
def after (c : Instr) (s : State) : State := match exec c s with | .next t => t | _ => s
/-- The block in operation: the engine ENABLED, the firmware running, the newest versions in force. -/
def up : State := { State.reset with engine := .enabled, fw := (3, 1, 0), reserve := true, negot := [3, 2, 2, 2] }
/-- The block in operation with the engine QUIESCED. -/
def quiet : State := { up with engine := .quiesced }
/-- RST_N low. -/
def low : State := State.inReset
/-- The rails out of range. -/
def dark : State := { State.inReset with powered := false }
/-- Halted, its cause SUPPLY. -/
def halted : State := { up with power := { up.power with halted := some .supply } }
/-- With other power figures. -/
def pow (f : Power → Power) (s : State) : State := { s with power := f s.power }
/-- With another tick. -/
def tck (f : TickSt → TickSt) (s : State) : State := { s with tick := f s.tick }
/-- With a register's word. -/
def rset (off : Nat) (v : Word) (s : State) : State := s.setReg off v
/-- A descriptor of format 3: fields (byte, bit, length, value). -/
def dsc (op : Nat) (fs : List (Nat × Nat × Nat × Nat)) : DescBytes :=
  BitVec.ofNat 512 (packN ((8 * 0, 8, op) :: (8 * 2, 8, 3) :: fs.map fun f => (8 * f.1 + f.2.1, f.2.2.1, f.2.2.2)))
/-- A descriptor taken from ring `k` as its number 5 at the read of tick 7. -/
def tkn (k : Nat) (b : DescBytes) (p : Pend := .unchecked) : Taken := ⟨k, 5, b, 7, false, 0, 0, p⟩
/-- A state whose one taken descriptor is `b`, on ring 1. -/
def fac (b : DescBytes) (s : State) : State := { s with taken := [tkn 1 b] }
/-- The status of the completion that a step wrote on ring `k`, as its record carries it (R462). -/
def statusOn (k : Nat) (t : State) : Option Nat := (t.writes.find? fun w => w.kind == .completion k).map fun w => bytesAt w.data 1 1
/-- Status and detail. -/
def answerOn (k : Nat) (t : State) : Option (Nat × Nat) :=
  (t.writes.find? fun w => w.kind == .completion k).map fun w => (bytesAt w.data 1 1, bytesAt w.data 12 4)
/-- A doorbell view. -/
def view0 : RingView := ⟨true, 0, 0, 0, []⟩

/-! Well-formed commands. -/

/-- A term that each check of Instr.wf refuses. -/
theorem test_ill_formed : ([.tickEdge 0 (List.replicate 9 view0), .heldEdgeRelease (List.replicate 9 view0),
    .strictOverrunStart (List.replicate 9 view0), .stopOpen 8, .stopDataFlit 2 0 0, .consignmentComplete 65536, .routingPlacement 6 0,
    .ringHeaderRead [(4096, 0)], .stepBoundary 2 [], .ttlExpiry 4096 0, .pageMoveLanded 4096 0, .runMoveRemap (2 ^ 48),
    .conversionRemap (2 ^ 18), .writeBackLanded (2 ^ 48), .depotCrcMismatch (2 ^ 48) true 0 1 true, .platformParityError (2 ^ 48) 0 false,
    .loadBuildComplete (2 ^ 18) [], .releaseComplete (2 ^ 18), .rowUpdateWritten 8 0 [], .adaptStateReady (2 ^ 18),
    .quiesceDrainDone (.ring 8), .quiesceDrainDone (.tenant 65536), .quiesceDrainDone (.train 32), .linkInit 5 0 0, .linkInit 32 0 0,
    .flitReceive 15 0 0, .ackReceive 5 0 false false, .replayTimeout 32, .dbWake (List.replicate 9 view0), .ringCfgValid 8 0,
    .rcFieldRead 0x6005, .rcFieldRead (2 ^ 20), .logRestore [] [], .registerWrite 0x2002 0, .registerWrite (2 ^ 20) 0,
    .sensorReport ⟨32768, 0, 0, 0, 0, 0, 0, 0⟩, .sensorReport ⟨0, 0, 65536, 0, 0, 0, 0, 0⟩, .sensorReport ⟨0, 0, 0, 65536, 0, 0, 0, 0⟩,
    .sensorReport ⟨0, 0, 0, 0, 65536, 0, 0, 0⟩, .sensorReport ⟨-32769, 0, 0, 0, 0, 0, 0, 0⟩, .linkInitResend 15, .cacheFillDone (2 ^ 18) 0,
    .wrapperInstruction (.fuseProg 512)] : List Instr).all (fun i => !i.wf) = true := by decide +kernel
theorem test_ill_formed_lines : ∀ ls : List TLine, ls.length = 131073 → (Instr.timetableBuild 0 ⟨ls, [], [], [], []⟩).wf = false := by
  intro ls h; simp [Instr.wf, h]
/-- Operands at the ends of their ranges. -/
theorem test_well_formed : ([.tickEdge 0 (List.replicate 8 view0), .stopOpen 7, .stopDataFlit 1 0 0, .linkInit 4 0 0, .linkInit 16 0 0,
    .linkInit 31 0 0, .stepBoundary 1 [], .runMoveRemap (2 ^ 48 - 1), .conversionRemap (2 ^ 18 - 1), .quiesceDrainDone (.tenant 65535),
    .quiesceDrainDone (.train 31), .ringCfgValid 7 0, .rcFieldRead 0x6004, .registerWrite 0xFFFFC 0,
    .sensorReport ⟨-32768, 0, 65535, 65535, 65535, 0, 0, 0⟩, .wrapperInstruction (.fuseProg 511)] : List Instr).all Instr.wf = true := by
  decide +kernel

/-! The machine as a whole. -/

theorem test_step_front : step { up with pending := [.pThermUpdate, .nop] } = exec .pThermUpdate { up with pending := [.nop] } := rfl
theorem wit_QueueStands : up.pending = [] ∧ ∃ t, exec .heartbeat { up with pending := [.nop] } = .next t ∧ t.pending = [.nop] :=
  ⟨rfl, _, rfl, rfl⟩
theorem wit_OnlyTheWrapperStops : (up.powered = true ∧ WrapperInstr.extest ≠ .bypass ∧ up.rstN = true)
    ∧ exec (.wrapperInstruction .extest) up = .fault .wrapperInOperation
    ∧ (let s := { low with wrapper := .memTest }; (s.powered = true ∧ s.rstN = false ∧ s.wrapper ≠ .bypass)
        ∧ exec .rstNRelease s = .fault .wrapperInOperation)
    ∧ exec (.wrapperInstruction .extest) low = .next { low with wrapper := .extest } :=
  ⟨by decide, rfl, ⟨by decide, rfl⟩, rfl⟩
theorem wit_MemoryStaysCanonical : let s := { up with adMem := [(5, 1), (9, 2)], pending := [.heartbeat] }
    Memory.wf s.adMem ∧ ∃ t, step s = .next t ∧ t.adMem = [(5, 1), (9, 2)] := ⟨by decide, _, rfl, rfl⟩
theorem wit_OnlyResetEndsHalt : halted.power.halted = some .supply ∧ (∃ t, exec .warmRstN halted = .next t ∧ t.power.halted = some .supply)
    ∧ ∃ t, exec .rstNAssert halted = .next t ∧ t.power.halted = none := ⟨rfl, ⟨_, rfl, rfl⟩, _, rfl, rfl⟩
theorem wit_TickCounterMovesAtAck : (∃ t, exec .heartbeat up = .next t ∧ t.tick.count = 0)
    ∧ ∃ t, exec .rstNAssert (tck (fun k => { k with count := 9 }) up) = .next t ∧ t.tick.count = 0 := ⟨⟨_, rfl, rfl⟩, _, rfl, rfl⟩
theorem wit_SoftwareStateChanges : (∃ t, exec (.pubkeyLock 0x10001) up = .next t ∧ fld (t.reg 0x0188) 16 1 = 1)
    ∧ (∃ t, exec .rstNAssert up = .next t ∧ t.negot = [0, 0, 0, 0])
    ∧ ∃ t, exec (.wrapperInstruction (.fuseProg 3)) low = .next t ∧ t.fuses = [3] := ⟨⟨_, rfl, by decide +kernel⟩, ⟨_, rfl, rfl⟩, _, rfl, rfl⟩
theorem wit_RegisterFilesStand : let s := { up with pending := [.registerWrite 0x0104 5] }
    (s.regs.map (·.1) = resetRegs.map (·.1) ∧ s.keys.length = 16 ∧ (∀ k ∈ s.keys, k.length = 8)
      ∧ s.trains.length = 32 ∧ s.trainErr.length = 32) ∧ ∃ t, step s = .next t ∧ t.reg 0x0104 = 5 :=
  ⟨by decide +kernel, _, rfl, by decide +kernel⟩

/-! Resets, power and the test wrapper. -/

theorem wit_ResetsAndRails : up.powered = true ∧ dark.powered = false ∧ State.reset.cfgReady = true
    ∧ (low.powered = true ∧ low.rstN = false) ∧ (up.powered = true ∧ WrapperInstr.bypass = .bypass) := by decide
/-- R541, R563: RST_N clears the firmware's state and leaves THERM_TRIP_N; a lost rail takes it. -/
theorem test_rst_n_assert : let t := after .rstNAssert (pow (fun p => { p with trip := true }) up)
    (t.fw, t.engine, t.rstN, t.power.trip) = ((0, 0, 0), Scope.quiesced, false, true) := by decide +kernel
theorem test_power_loss : let t := after .powerLoss (pow (fun p => { p with trip := true }) up)
    (t.powered, t.rstN, t.power.trip) = (false, false, false) := by decide +kernel
theorem test_power_up : let t := after .powerUp dark; (t.powered, t.rstN, t.cfgReady) = (true, false, false) := by decide +kernel
/-- R275, R549: the registers that depend on the configuration; R540: the links. IX7-128 has 4 fabric ports. -/
theorem test_rst_n_release : let t := after .rstNRelease { low with build := .ix128 }
    (t.reg 0x5034, (t.link 4).st, t.cntVal .coldReset, t.cfgReady) = (0x0064000F, LinkSt.init, 1, true) := by decide +kernel
theorem test_reserve_init : (after .reserveInitDone State.reset).reserve = true := by decide +kernel
/-- R573: a fuse is not undone, and one that the configuration lacks is not there. -/
theorem test_fuse : (after (.wrapperInstruction (.fuseProg 1)) { low with fuses := [4] }).fuses = [1, 4]
    ∧ (after (.wrapperInstruction (.fuseProg 200)) { low with build := .ix128 }).fuses = [] := by decide +kernel
theorem wit_ReleaseOfReset : low.powered = true ∧ low.rstN = false ∧ low.wrapper = .bypass
    ∧ low.regs.map (·.1) = resetRegs.map (·.1) := by decide +kernel
theorem wit_ResetLeaves : up.powered = true ∧ up.wrapper = .bypass := by decide
/-- R545: WARM_RST_N quiesces the engine, keeps the tick counter and the registers, and counts. -/
theorem test_warm_reset : let t := after .warmRstN (rset 0x2008 5 (tck (fun k => { k with count := 9 }) up))
    (t.engine, t.tick.count, t.reg 0x2008, t.cntVal .warmReset) = (Scope.quiesced, 9, 5, 1) := by decide +kernel

/-! Power, thermal limits and health. -/

theorem wit_PausesOfIssue : let thr := pow (fun p => { p with throttle := true }) up
    let drp := pow (fun p => { p with droop := true }) up
    let both := pow (fun p => { p with throttle := true, droop := true }) up
    (up.live = true ∧ up.power.throttle = false ∧ up.power.droop = false) ∧ (thr.live = true ∧ thr.power.throttle = true ∧ thr.power.droop = false)
    ∧ (drp.live = true ∧ drp.power.droop = true ∧ drp.power.throttle = false) ∧ (both.live = true ∧ both.power.throttle = true ∧ both.power.droop = true)
    ∧ (let s := tck (fun k => { k with active := true }) up; s.live = true ∧ s.power.throttle = false ∧ s.tick.active = true) := by decide
theorem test_throttle : let t := after .throttleAssert (tck (fun k => { k with active := true }) up)
    (t.paused, t.tick.late, t.cntVal .throttle) = (true, true, 1) := by decide +kernel
/-- R559: the ramp takes PWR_RAMP.RAMP, 4 µs at reset. -/
theorem test_throttle_release : let t := after .throttleRelease (after .throttleAssert up)
    (t.paused, t.power.ramping) = (false, 4) := by decide +kernel
theorem test_droop : let t := after .droop up; (t.paused, t.cntVal .droop, t.irqPend) = (true, 1, 16#5) := by decide +kernel
theorem test_droop_clear : (after .droopClear (after .droop (after .throttleAssert up))).paused = true
    ∧ (after .droopClear (after .droop up)).paused = false := by decide +kernel
/-- A window full of 8-bit MAC work and its cap: 16 cars for 325 beats of 32 trains draw 32 × 4.5 W over the floor. -/
def full : Occupancy := ⟨16 * 325 * 32, 0, 0, 0, 0, 0, 0, 0⟩
theorem test_estimate : up.estimate full = 18000 + 32 * 4500 ∧ up.estimate ⟨0, 0, 0, 0, 325, 0, 0, 0⟩ = 18000 + 58 := by decide +kernel
/-- R555: 64 × (100 − 18) ÷ (162 − 18) is 36.44. -/
theorem test_governor_down : (after (.governorWindow full) (rset 0x3000 400 up)).power.duty = 36 := by decide +kernel
/-- R555: at C − 2 W exactly D rises, 1 mW above it stands. -/
theorem test_governor_up : (after (.governorWindow ⟨0, 0, 0, 0, 0, 0, 0, 0⟩) (pow (fun p => { p with duty := 9, cEff := 80, pTherm := 80 }) up)).power.duty = 10
    ∧ (after (.governorWindow ⟨0, 0, 0, 0, 6, 0, 0, 0⟩) (pow (fun p => { p with duty := 9, cEff := 80, pTherm := 80 }) up)).power.duty = 9 := by
  decide +kernel
theorem wit_GovernorWindows : let thr := pow (fun p => { p with throttle := true }) up
    let at80 := pow (fun p => { p with duty := 9, cEff := 80, pTherm := 80 }) up
    let e := (⟨0, 0, 0, 0, 0, 0, 0, 0⟩ : Occupancy)
    let C (s : State) := 250 * min s.power.cEff (min (s.rf 0x3000 0 10) s.power.pTherm)
    (thr.live = true ∧ thr.paused = true) ∧ (let r := pow (fun p => { p with ramping := 1 }) up; r.live = true ∧ 0 < r.power.ramping)
    ∧ (let s := rset 0x3000 400 up; s.live = true ∧ s.paused = false ∧ s.power.ramping = 0 ∧ C s < s.estimate full)
    ∧ (at80.live = true ∧ at80.paused = false ∧ at80.power.ramping = 0 ∧ at80.estimate e ≤ C at80 ∧ at80.estimate e + 2000 ≤ C at80
        ∧ at80.power.duty < 64)
    ∧ (let o := (⟨0, 0, 0, 0, 6, 0, 0, 0⟩ : Occupancy); at80.estimate o ≤ C at80 ∧ ¬ at80.estimate o + 2000 ≤ C at80) := by decide +kernel
/-- R562, in 0.25 °C and 0.25 W: 100 °C at 100 W takes 12.5 W off the estimate; 98 °C holds; below it 12.5 W come back. -/
theorem test_p_therm : let at_ (tj : Int) := (after .pThermUpdate (pow (fun p => { p with tj := tj, pEst := 100000, pTherm := 500 }) up)).power.pTherm
    (at_ 400, at_ 399, at_ 392, at_ 391) = (350, 500, 500, 550) := by decide +kernel
theorem wit_ThermalLimit : let at_ (tj : Int) := pow (fun p => { p with tj := tj }) up
    ((at_ 400).live = true ∧ 400 ≤ (at_ 400).power.tj) ∧ ((at_ 391).live = true ∧ (at_ 391).power.tj < 392)
    ∧ ((at_ 392).live = true ∧ 392 ≤ (at_ 392).power.tj ∧ (at_ 392).power.tj < 400) := by decide
/-- A report of T_j alone. -/
def hot (tj : Int) : SensorRep := ⟨tj, 2, 850, 850, 1100, 3, 9, 5⟩
/-- R561: the levels at their thresholds, R563: the trip at 110 °C. -/
theorem test_levels : let lv (tj : Int) (s : State) := let t := after (.sensorReport (hot tj)) s; (t.power.warn, t.power.tthrot, t.power.trip)
    let was := pow (fun p => { p with warn := true, tthrot := true, trip := true }) up
    (lv 379 up, lv 380 up, lv 400 up, lv 440 up) = ((false, false, false), (true, false, false), (true, true, false), (true, true, true))
    ∧ (lv 367 was, lv 368 was, lv 392 was, lv 400 was) = ((false, false, false), (true, false, false), (true, true, false), (true, true, true)) := by
  decide +kernel
theorem test_trip_halts : let t := after (.sensorReport (hot 440)) up
    (t.power.halted, t.cntVal .trip, t.cntVal .halt, t.err .halt) = (some .thermal, 1, 1, true) := by decide +kernel
theorem wit_SensorLevels : up.cfgReady = true ∧ (440 ≤ (hot 440).tj ∧ up.power.halted = none) ∧ (hot 439).tj < 440 := by decide
theorem wit_HaltsAndHeartbeat : up.cfgReady = true ∧ up.power.halted = none ∧ (up.live = true ∧ up.fw.1 = 3)
    ∧ halted.live = false ∧ State.reset.fw.1 ≠ 3 := by decide
theorem test_supply_halt : let t := after .supplyHalt up; (t.power.halted, t.live, t.err .halt) = (some .supply, false, true) := by decide +kernel
theorem test_internal_halt : let t := after .internalHalt up; (t.power.halted, t.cntVal .halt, t.irqPend.getLsbD 4) = (some .internal, 1, true) := by
  decide +kernel
theorem test_heartbeat : (after .heartbeat up).hb = true ∧ (after .heartbeat { up with hb := true }).hb = false
    ∧ (after .heartbeat State.reset).hb = false := by decide +kernel

/-! The CFG port. -/

theorem wit_RegisterWrites : let shape (s : State) := s.cfgReady = true ∧ s.regs.map (·.1) = resetRegs.map (·.1)
    (shape up ∧ 0x2008 ∈ up.regs.map (·.1) ∧ ringOff 0x2008 = none ∧ lockedOn 0x2008 = false)
    ∧ (shape quiet ∧ 0x5034 ∈ quiet.regs.map (·.1) ∧ ringOff 0x5034 = none ∧ lockedOn 0x5034 = true ∧ quiet.engine = .quiesced)
    ∧ (0x8004 ∈ up.regs.map (·.1) ∧ up.rb.st ≠ 1)
    ∧ (up.tierCap1 < 2 ^ 20 ∧ ({ up with build := .ix128 } : State).build.fmPorts ≤ 4 ∧ up.engine ≠ .quiesced)
    ∧ low.cfgReady = false ∧ (lockedOn 0x4020 = true ∧ up.engine ≠ .quiesced)
    ∧ (0x0000 ∉ resetRegs.map (·.1) ∧ 0x0000 ∉ [0x0184, 0x01CC, 0x2028, 0x5000, 0x5008, 0x5014, 0x5030, 0x7008, 0x8010]) := by decide +kernel
/-- R591, R275: ranges at their ends; R47: LAYERS_M1 stands while the engine is enabled. -/
theorem test_register_write : ((after (.registerWrite 0x800C 0) up).reg 0x800C, (after (.registerWrite 0x800C 257) up).reg 0x800C,
    (after (.registerWrite 0x4010 0xFFFFFFFF) quiet).reg 0x4010, (after (.registerWrite 0x4010 5) up).reg 0x4010,
    (after (.registerWrite 0x2000 0xFFFFFFFF) up).reg 0x2000) = (1, 256, 122368, 122368, 0x003FFFC0) := by decide +kernel
/-- R5: what is not there is not written. -/
theorem test_register_ro : after (.registerWrite 0x0000 7) up = up ∧ after (.registerWrite 0x2004 7) low = low := by decide +kernel
theorem wit_KeyLock : let s := rset 0x0188 0x10000 up; fld (s.reg 0x0188) 16 1 = 1 ∧ (after .warmRstN s).reg 0x0188 = 0x10000 := by decide +kernel
theorem wit_KeysWritten : let s := rset 0x0180 0x73 up; s.cfgReady = true ∧ fld (s.reg 0x0188) 16 1 = 0
    ∧ s.regs.map (·.1) = resetRegs.map (·.1) ∧ s.keys.length = 16 ∧ (∀ k ∈ s.keys, k.length = 8) ∧ fld (s.reg 0x0180) 4 4 < 8 := by decide +kernel
theorem test_pubkey_lock : let t := after (.pubkeyLock 0x10003) up; t.reg 0x0188 = 0x10003 ∧ (after (.pubkeyLock 0) t).reg 0x0188 = 0x10003 := by
  decide +kernel
theorem test_pubkey_data : let t := after (.registerWrite 0x0184 0xABCD) (rset 0x0180 0x73 up)
    (t.readReg 0x0184, (t.keys.getD 3 []).getD 7 0, (t.keys.getD 7 []).getD 3 0) = (0xABCD, 0xABCD, 0) := by decide +kernel
theorem wit_CountLatches : up.cfgReady = true := by decide
theorem test_count_latch : let s := tck (fun k => { k with count := 2 ^ 32 + 7 }) up
    (s.readReg 0x2010, (after .tickCountLoRead s).readReg 0x2014) = (7, 1) := by decide +kernel
theorem wit_ReadClears : up.cfgReady = true ∧ up.hasPort 4 = true ∧ up.hasPort 31 = true ∧ up.trainErr.length = 32 := by decide +kernel
theorem test_rc_fields : (after (.rcFieldRead 0x600C) (pow (fun p => { p with vixLow := 700 }) up)).power.vixLow = 0xFFFF
    ∧ (after (.rcFieldRead 0x6004) (pow (fun p => { p with tjPeak := 300 }) up)).power.tjPeak = 0 := by decide +kernel
theorem test_rc_train : (after (.rcFieldRead 0x1F810) { up with trainErr := List.replicate 32 (4, 5) }).trainErr = List.replicate 31 (4, 5) ++ [(0, 0)] := by
  decide +kernel
theorem wit_InterruptsAndErrors : up.errFirst = none ∧ (up.setErr .fmErr).errFirst ≠ none ∧ (up.reg 0x5004).getLsbD 7 = false
    ∧ up.cfgReady = true ∧ ((up.setErr .fmErr).errs &&& ~~~(BitVec.ofNat 17 (up.reg 0x5004).toNat) ≠ 0)
    ∧ (up.errs &&& ~~~(BitVec.ofNat 17 (up.reg 0x5004).toNat) = 0)
    ∧ (let s := { up with complDue := true, tokenDue := true }; s.live = true ∧ s.complDue = true ∧ s.tokenDue = true) := by decide +kernel
/-- R525: XCH_LOST stays unless STATE is JOINED. -/
theorem test_err_clear : let s := (up.setErr .xchLost).setErr .fmErr
    ((after (.errStatusClear 0xFFFFFFFF) s).errs, (after (.errStatusClear 0xFFFFFFFF) { s with xch := { s.xch with st := 2 } }).errs) = (16#17, 0#17) := by
  decide +kernel
/-- R485: ERR stays pending while an unmasked error stands. -/
theorem test_irq_clear : ((after (.irqPendClear 0x1F) (up.setErr .fmErr)).irqPend,
    (after (.irqPendClear 0x08) (rset 0x5004 0x80 (up.setErr .fmErr))).irqPend, (after (.irqPendClear 0x02) { up with irqPend := 0x13 }).irqPend)
    = (8#5, 0#5, 0x11#5) := by decide +kernel
/-- R485: 3 µs of hold-off after the interrupt at cycle 100. -/
theorem test_compl_holdoff : let t := after .complHoldoffExpiry { rset 0x5018 3 up with complDue := true, complAt := some 100 }
    (t.complDue, t.irqPend, t.complAt) = (false, 1#5, some 4000) := by decide +kernel
theorem test_token_holdoff : let t := after .tokenIrqHoldoffExpiry { rset 0x20C4 0x20000 up with tokenDue := true, tokenAt := some 100 }
    (t.tokenDue, t.irqPend, t.tokenAt) = (false, 2#5, some 2700) := by decide +kernel
theorem wit_CapWrite : up.cfgReady = true ∧ up.regs.map (·.1) = resetRegs.map (·.1)
    ∧ fld (71#32) 0 10 < 72 ∧ 1000 < fld (1001#32) 0 10 ∧ (72 ≤ fld (72#32) 0 10 ∧ fld (1000#32) 0 10 ≤ 1000) := by decide +kernel
theorem test_cap : let w (v : Word) := let t := after (.pwrCapWrite v) up; (t.readReg 0x3000, t.power.clamped)
    (w 71, w 72, w 1000, w 1001) = ((72, true), (72, false), (1000, false), (1000, true)) := by decide +kernel
/-- Ring 1 valid, of 64 entries. -/
def ring1 (s : State) : State := rset 0x1070 0x80000606 s
theorem wit_RingValidity : let d := ring1 up
    let q := { d with rings := d.rings.set 1 { d.ring 1 with st := .quiesced } }
    (up.cfgReady = true ∧ up.regs.map (·.1) = resetRegs.map (·.1) ∧ up.ringValid 1 = false ∧ (0x80000909#32).getLsbD 31 = true)
    ∧ (d.cfgReady = true ∧ d.regs.map (·.1) = resetRegs.map (·.1) ∧ d.ringValid 1 = true ∧ (0x80000909#32).getLsbD 31 = true)
    ∧ (d.ringValid 1 = true ∧ (d.ring 1).st ≠ .quiesced) ∧ (q.ringValid 1 = true ∧ (q.ring 1).cqResv = 0 ∧ (q.ring 1).st = .quiesced)
    ∧ (let z := rset 0x1050 0x80000606 quiet; z.ringValid 0 = true ∧ (z.ring 0).cqResv = 0 ∧ z.engine = .quiesced) := by decide +kernel
theorem test_ring_valid : let t := after (.ringCfgValid 1 0x80000111) up
    (t.ringValid 1, t.cqLog2 1, t.sqLog2 1, (after (.ringCfgValid 1 0x80000909) t).cqLog2 1, (after (.ringCfgValid 1 0) t).ringValid 1)
      = (true, 4, 16, 4, true) := by decide +kernel
theorem wit_FirmwareLoads : let good := rset 0x01C8 4096 State.reset
    let run := { up with fw := (2, 0, 0) }
    let un := { run with reserve := false }
    (good.live = true ∧ good.fw.1 ∈ [0, 4, 5, 6] ∧ fld (good.reg 0x01C8) 0 24 = 4096)
    ∧ (State.reset.fw.1 ∈ [0, 4, 5, 6] ∧ fld (State.reset.reg 0x01C8) 0 24 = 0)
    ∧ (let s := rset 0x01C8 4160 State.reset; fld (s.reg 0x01C8) 0 24 % 4096 ≠ 0) ∧ (let s := rset 0x01C8 8392704 State.reset; 8388608 < fld (s.reg 0x01C8) 0 24)
    ∧ (up.live = true ∧ up.fw.1 ∉ [0, 4, 5, 6]) ∧ (run.live = true ∧ run.fw.1 = 2 ∧ run.reserve = true)
    ∧ (un.fw.1 = 2 ∧ un.reserve = false ∧ ∀ a b, FwResult.badSignature ≠ .running a b) := by
  refine ⟨by decide +kernel, by decide +kernel, by decide +kernel, by decide +kernel, by decide +kernel, by decide +kernel, by decide, by decide, nofun⟩
theorem test_fw_load : let t := after .fwLoad (rset 0x01C8 8192 State.reset)
    (t.fw, t.reads.map fun r => (r.kind, r.units)) = ((1, 0, 0), [(RKind.firmware, 128)]) := by decide +kernel
theorem test_fw_done : let s := { up with fw := (2, 0, 0) }
    ((after (.fwLoadDone (.running 4 9)) s).fw, (after (.fwLoadDone .wrongBlock) s).fw, (after (.fwLoadDone (.running 4 9)) { s with reserve := false }).fw)
      = ((3, 4, 9), (6, 0, 0), (2, 0, 0)) := by decide +kernel
/-- The logbook area at 0x10000, its restore done. -/
def booked (s : State) : State := let s := rset 0x7000 0x10000 s; { s with log := { s.log with restore := 1 } }
/-- A half with SAVES 3, its CRC `c` and its body. -/
def halfOf (c : Word) (body : List Byte) : List Byte :=
  [0x49, 0x58, 0x37, 0x4C, 1, 3, 0, 0, 3, 0, 0, 0, 0, 0, 0, 0, 0, 0, 0, 0, 0, 0, 0, 0,
    BitVec.ofNat 8 c.toNat, BitVec.ofNat 8 (c.toNat / 256), BitVec.ofNat 8 (c.toNat / 65536), BitVec.ofNat 8 (c.toNat / 16777216), 0, 0, 0, 0, 0, 0, 0, 0, 0, 0, 0, 0, 0, 0, 0, 0, 0, 0,
    0, 0, 0, 0, 0, 0, 0, 0, 0, 0, 0, 0, 0, 0, 0, 0, 0, 0] ++ body
theorem half_is (c : Word) (b : List Byte) (hb : b.length = 1984) : (halfOf c b).length = 2048 ∧ bytesAt (halfOf c b) 0 4 = 0x4C375849
    ∧ bytesAt (halfOf c b) 4 1 = 1 ∧ bytesAt (halfOf c b) 5 1 = 3 ∧ bytesAt (halfOf c b) 8 8 = 3 ∧ bytesAt (halfOf c b) 24 4 = c.toNat
    ∧ (halfOf c b).drop 64 = b := by
  have := c.isLt
  refine ⟨?_, ?_, ?_, ?_, ?_, ?_, ?_⟩ <;> simp [halfOf, bytesAt, leNat, hb]
  omega
/-- A half whose body counts 5 ticks and nothing else. -/
def half : List Byte := halfOf (crc32c (5 :: List.replicate 1983 0)) (5 :: List.replicate 1983 0)
theorem half_ok : up.halfOk half = true := by
  obtain ⟨h1, h2, h3, h4, h5, h6, h7⟩ := half_is (crc32c (5 :: List.replicate 1983 0)) (5 :: List.replicate 1983 0)
    (by rw [List.length_cons, List.length_replicate])
  simp only [State.halfOk, half, h1, h2, h3, h4, h6, h7, BitVec.ofNat_toNat]
  simp only [BitVec.setWidth_eq, beq_self_eq_true]
  rfl
theorem wit_LogbookKept : let r := rset 0x7000 0x10000 quiet
    ((booked up).live = true ∧ (booked up).logBase ≠ 0 ∧ (booked up).log.restore = 1) ∧ up.logBase = 0 ∧ (rset 0x7000 0x10000 up).log.restore = 0
    ∧ (r.live = true ∧ r.engine = .quiesced ∧ r.fw.1 = 3 ∧ r.logBase ≠ 0 ∧ r.log.restore = 0) ∧ r.halfOk [] = false ∧ up.engine ≠ .quiesced
    ∧ ∃ h, r.halfOk h = true ∧ bytesAt h 8 8 = 3 :=
  ⟨by decide +kernel, by decide +kernel, by decide +kernel, by decide +kernel, by decide +kernel, by decide, _, half_ok, (half_is _ _ (by rw [List.length_cons, List.length_replicate])).2.2.2.2.1⟩
theorem test_log_save : let t := after .logSave (booked up)
    (t.log.saves, t.cntVal .logSave, (t.writes.filter fun w => w.kind == .logbook).head?.map (·.addr)) = (1, 1, some (0x10000 + 2048 + 64)) := by
  decide +kernel
/-- R580: CNT_TICKS 2 and 5 are 7, SAVES is the half's; without a valid half the attempt has failed. -/
theorem test_log_restore : let s := rset 0x7000 0x10000 quiet
    let g := ({ s.log with cnt := s.log.cnt.setIfInBounds 0 2 } : Logbook).merge half
    (g.saves, g.cnt.toList.head?, (after (.logRestore [] []) s).log.restore) = (3, some 7, 2) := by decide +kernel
/-- RB_SEL naming an item, and its index. -/
def sel (item index : Nat) (s : State) : State := rset 0x8004 (BitVec.ofNat 32 index) (rset 0x8000 (BitVec.ofNat 32 (item * 2 ^ 24)) s)
/-- A capture of slot 0's directory record under way. -/
def busy : State := after .rbStart (sel 0x08 0 up)
theorem wit_Readbacks : (up.cfgReady = true ∧ up.rb.st ≠ 1 ∧ (sel 0x07 0 up).capture [] = .badItem ∧ (sel 0x01 4096 up).capture [] = .badIndex)
    ∧ (sel 0x08 0 up).capture [] = .data (List.replicate 64 0) false
    ∧ (busy.cfgReady = true ∧ busy.rb.st = 1 ∧ busy.power.droop = false ∧ busy.captureFm = false ∧ busy.captureTimed = false
        ∧ busy.power.halted = none ∧ busy.rf 0x8000 24 8 ≠ 3 ∧ busy.capture [] = .data (List.replicate 64 0) false
        ∧ List.replicate 64 0 = busy.rb.bytes) := by decide +kernel
theorem test_rb_start : ((after .rbStart (sel 0x07 0 up)).rb.cause, (after .rbStart (sel 0x01 4096 up)).rb.cause, busy.rb.st) = (1, 2, 1) := by
  decide +kernel
theorem test_rb_done : ((after (.rbCaptureDone false false false []) busy).rb.st, (after (.rbCaptureDone true false false []) busy).rb.cause) = (2, 3) := by
  decide +kernel
theorem test_rb_abort : (after .rbAbort busy).rb.cause = 5 ∧ after .rbAbort up = up := by decide +kernel
/-- Idle, ring 1 valid and enabled. -/
def idle1 : State := ring1 (tck (fun k => { k with idle := true }) up)
theorem wit_WakeTakes : let v := [view0, ⟨true, 2, 0, 0, [dsc 0 [], dsc 1 []]⟩]
    (idle1.live = true ∧ idle1.tick.idle = true ∧ idle1.tick.edge = .none ∧ idle1.fw.1 = 3 ∧ idle1.unsol = [] ∧ idle1.taken = [] ∧ idle1.reqs = [])
    ∧ (v.all fun x => x.descs.all fun d => opcodeOf d != 3) = true
    ∧ (idle1.ringValid 0 = false ∧ idle1.ringValid 1 = true ∧ (idle1.ring 1).st = .enabled) := by decide +kernel
theorem wit_WakeTakes_edges : ((2#32) - (idle1.ring 1).head).toNat ≤ 2 ^ idle1.sqLog2 1
    ∧ 2 ^ idle1.sqLog2 1 < ((65#32) - (idle1.ring 1).head).toNat ∧ idle1.tick.count + 1 < 2 := by decide +kernel
/-- The same with the doorbell page and the ring apart from every write. -/
def idle2 : State := rset 0x1060 0x20000 (rset 0x1000 0x10000 idle1)
theorem wit_WakeTakes_free : let meets (a n : Nat) (b m : Nat) : Prop := a < b + m ∧ b < a + n
    let free (a : Nat) : Prop := (∀ w ∈ idle2.writes, ¬ meets w.addr w.data.length a 64) ∧ ¬ meets (idle2.addr64 0x1000 + 0x200) 0x200 a 64
      ∧ ¬ meets (idle2.addr64 0x5020) 4 a 64
    idle2.live = true ∧ idle2.ringValid 1 = true ∧ (idle2.ring 1).st = .enabled ∧ free (idle2.addr64 0x1000 + 64 * 1)
      ∧ ∀ d : Word, free (idle2.addr64 (0x1040 + 0x20 * 1) + 64 * (d.toNat % 2 ^ idle2.sqLog2 1)) := by
  refine ⟨by decide +kernel, by decide +kernel, by decide +kernel, by decide +kernel, fun d => ?_⟩
  have hw : idle2.writes = [] := by decide +kernel
  have hd : idle2.addr64 0x1000 = 0x10000 := by decide +kernel
  have hm : idle2.addr64 0x5020 = 0 := by decide +kernel
  have hq : idle2.addr64 (0x1040 + 0x20 * 1) = 0x20000 := by decide +kernel
  rw [hw, hd, hm, hq]
  refine ⟨by simp, ?_, ?_⟩ <;> omega
/-- A status line outstanding over the driver line of ring 1 holds the ring back (R452, R529). -/
theorem wit_WakeTakes_held : let s := { idle2 with writes := [⟨8, .statusLine 0, 0x10040, [1], [], true, false, 16⟩] }
    s.live = true ∧ ∃ w ∈ s.writes, w.issued = true ∧ w.addr < s.addr64 0x1000 + 64 * 1 + 64 ∧ s.addr64 0x1000 + 64 * 1 < w.addr + w.data.length := by
  decide +kernel
theorem test_wake : let t (tail : Word) (at_ : Nat) := after (.dbWake [view0, ⟨true, tail, 0, at_, [dsc 0 [], dsc 1 []]⟩]) idle1
    (((t 2 1).ring 1).head, (t 2 1).taken.map fun x => (x.ring, x.num, x.readTick), ((t 2 2).ring 1).head, ((t 65 0).ring 1).head)
      = (2, [(1, 0, 1), (1, 1, 1)], 0, 0) := by decide +kernel

/-! The links, the fabric and the exchange. -/

/-- With another link on port `c`. -/
def lnk (c : Nat) (f : Link → Link) (s : State) : State := s.setLink c (f (s.link c))
/-- Port `c` UP. -/
def linkUp (c : Nat) (s : State) : State := lnk c (fun l => { l with st := .up }) s
/-- LINK_INIT with SEEN 0 and 1 and of another version, consignment flits (KIND 0x21) of SEQ 0 and 1, and a tick header's (KIND 1), each
with its CRC over a payload of zeros, worked out with a separate CRC program. -/
def hello : FlitTag := 0x100000000c87f5697
def helloSeen : FlitTag := 0x10100000000bdaca6af
def helloV2 : FlitTag := 0x200000000034367f4
def xflit0 : FlitTag := 0x2100ca8b7e22
def xflit1 : FlitTag := 0x2101689ef516
def hflit : FlitTag := 0x1002c0e06b9
/-- The check value of R497. -/
theorem test_crc : crc32c [0x31, 0x32, 0x33, 0x34, 0x35, 0x36, 0x37, 0x38, 0x39] = 0xE3069283 := by decide +kernel
/-- The running CRC. -/
def crcRun (c : Nat) (bs : List Byte) : Nat := bs.foldl (fun c b => crcBit 8 (c ^^^ b.toNat)) c
theorem crcRun_append (c : Nat) (a b : List Byte) : crcRun c (a ++ b) = crcRun (crcRun c a) b := List.foldl_append
theorem crcRun_zeros : crcRun 0xFFFFFFFF (List.replicate 256 0) = 1200442991 := by
  have h : List.replicate 256 (0 : Byte) = List.replicate 32 0 ++ List.replicate 32 0 ++ List.replicate 32 0 ++ List.replicate 32 0
      ++ List.replicate 32 0 ++ List.replicate 32 0 ++ List.replicate 32 0 ++ List.replicate 32 0 := by simp only [List.replicate_append_replicate]
  simp only [h, crcRun_append]
  rw [show crcRun 0xFFFFFFFF (List.replicate 32 0) = 1970194773 from by decide +kernel]
  rw [show crcRun 1970194773 (List.replicate 32 0) = 4231468184 from by decide +kernel]
  rw [show crcRun 4231468184 (List.replicate 32 0) = 2920151892 from by decide +kernel]
  rw [show crcRun 2920151892 (List.replicate 32 0) = 4158167844 from by decide +kernel]
  rw [show crcRun 4158167844 (List.replicate 32 0) = 475290725 from by decide +kernel]
  rw [show crcRun 475290725 (List.replicate 32 0) = 2345306063 from by decide +kernel]
  rw [show crcRun 2345306063 (List.replicate 32 0) = 3070562025 from by decide +kernel]
  rw [show crcRun 3070562025 (List.replicate 32 0) = 1200442991 from by decide +kernel]
theorem flitCrc_run (p : Payload) (t : FlitTag) :
    flitCrc p t = BitVec.ofNat 32 (crcRun 0xFFFFFFFF (bvBytes p ++ (bvBytes t).drop 4) ^^^ 0xFFFFFFFF) := rfl
theorem crcOk_zeros (t : FlitTag) (h : BitVec.ofNat 32 (crcRun 1200442991 ((bvBytes t).drop 4) ^^^ 0xFFFFFFFF) = BitVec.ofNat 32 (tF t 0 0 32)) :
    crcOk 0 t = true := by
  have hz : bvBytes (0 : Payload) = List.replicate 256 0 := by decide +kernel
  have : flitCrc 0 t = BitVec.ofNat 32 (crcRun 1200442991 ((bvBytes t).drop 4) ^^^ 0xFFFFFFFF) := by
    rw [flitCrc_run, crcRun_append, hz, crcRun_zeros]
  rw [crcOk, this, h]; exact beq_self_eq_true _
theorem ok_hello : crcOk 0 hello = true := crcOk_zeros _ (by decide +kernel)
theorem ok_helloSeen : crcOk 0 helloSeen = true := crcOk_zeros _ (by decide +kernel)
theorem ok_helloV2 : crcOk 0 helloV2 = true := crcOk_zeros _ (by decide +kernel)
theorem ok_xflit0 : crcOk 0 xflit0 = true := crcOk_zeros _ (by decide +kernel)
theorem ok_xflit1 : crcOk 0 xflit1 = true := crcOk_zeros _ (by decide +kernel)
theorem ok_hflit : crcOk 0 hflit = true := crcOk_zeros _ (by decide +kernel)
theorem bad_tag : crcOk 0 (2 ^ 64) = false := by
  have hz : bvBytes (0 : Payload) = List.replicate 256 0 := by decide +kernel
  have : flitCrc 0 (2 ^ 64) = BitVec.ofNat 32 (crcRun 1200442991 ((bvBytes (2 ^ 64 : FlitTag)).drop 4) ^^^ 0xFFFFFFFF) := by
    rw [flitCrc_run, crcRun_append, hz, crcRun_zeros]
  rw [crcOk, this]; decide +kernel
theorem wit_LinksComeUp : (up.live = true ∧ up.hasPort 4 = true ∧ (up.link 4).st = .init)
    ∧ crcOk 0 (2 ^ 64) = false ∧ (crcOk 0 helloV2 = true ∧ tF helloV2 8 0 8 ≠ 1)
    ∧ (crcOk 0 hello = true ∧ tF hello 8 0 8 = 1 ∧ tF hello 9 0 1 ≠ 1) ∧ (crcOk 0 helloSeen = true ∧ tF helloSeen 8 0 8 = 1 ∧ tF helloSeen 9 0 1 = 1)
    ∧ (let s := lnk 4 (fun l => { l with sentSeen := true }) up; s.live = true ∧ s.hasPort 4 = true ∧ (s.link 4).st = .init ∧ (s.link 4).sentSeen = true
        ∧ s.xch.st = 0)
    ∧ (let s := linkUp 4 up; s.live = true ∧ s.hasPort 4 = true ∧ (s.link 4).st = .up)
    ∧ (let s := lnk 4 (fun l => { l with gotInit := true, gotSeen := true }) up; (s.link 4).st = .init ∧ (s.link 4).gotInit = true
        ∧ (s.link 4).gotSeen = true) := by
  rw [bad_tag, ok_hello, ok_helloSeen, ok_helloV2]; decide +kernel
/-- R502, R503: up only when SEEN has gone both ways; another version sets the link's error. -/
theorem test_link_init : let s := lnk 4 (fun l => { l with sentSeen := true }) up
    let t := after (.linkInit 4 helloSeen 0) s
    (((t.link 4).st, t.xch.st), ((after (.linkInit 4 hello 0) s).link 4).st, (after (.linkInit 4 helloV2 0) up).err .xchSeq,
      ((after (.linkInit 2 hello 0) (linkUp 2 up)).link 2).st) = ((.up, 1), .init, true, .fatal) := by
  simp only [after, exec, execLinkInit, ok_hello, ok_helloSeen, ok_helloV2]; decide +kernel
theorem test_link_init_resend : ((after (.linkInitResend 4) (lnk 4 (fun l => { l with gotInit := true, gotSeen := true }) up)).link 4).st = .up
    ∧ ((after (.linkInitResend 4) up).link 4).sentSeen = false := by decide +kernel
theorem wit_FlitsAreSequenced : let s := linkUp 4 up
    let n := lnk 4 (fun l => { l with nakSent := true }) s
    (s.live = true ∧ s.hasPort 4 = true ∧ (s.link 4).st = .up ∧ crcOk 0 xflit0 = true ∧ tagSeq xflit0 = (s.link 4).rxSeq ∧ kindOf 4 0x21 = true)
    ∧ (kindOf 4 (tagKind hello) = false ∧ crcOk 0 hello = true ∧ tagSeq hello = (s.link 4).rxSeq)
    ∧ (tagSeq xflit1 ≠ (s.link 4).rxSeq ∧ (s.link 4).nakSent = false) ∧ ((n.link 4).st = .up ∧ (n.link 4).nakSent = true)
    ∧ (let a := { linkUp 0 up with negot := [3, 3, 0, 3] }; a.paused = false ∧ (a.link 0).st = .up ∧ a.negot.getD 2 0 = 0 ∧ kindOf 0 1 = true
        ∧ crcOk 0 hflit = true) := by
  rw [ok_hello, ok_xflit0, ok_hflit]; decide +kernel
theorem test_flit_receive : let s := linkUp 4 up
    let t := after (.flitReceive 4 xflit0 0) s
    ((t.link 4).rxSeq, (t.link 4).ackOut, (t.link 4).rxQ.length) = (1, some (0, false), 1) := by
  simp only [after, exec, execFlitReceive, ok_xflit0]; decide +kernel
theorem test_flit_nak : let t := after (.flitReceive 4 xflit1 0) (linkUp 4 up)
    ((t.link 4).rxSeq, (t.link 4).ackOut, (t.link 4).resends, t.cntVal .crcResend, t.err .xchSeq) = (0, some (0, true), 1, 1, false) := by
  simp only [after, exec, execFlitReceive, ok_xflit1]; decide +kernel
/-- Two flits sent and not acknowledged on port 4, SEQ 0 and 1. -/
def sent2 (s : State) : State := lnk 4 (fun l => { l with st := .up, txSeq := 2, replay := [⟨0, xflit0⟩, ⟨0, xflit1⟩] }) s
theorem wit_ReplayAndReset : let s := sent2 up
    (s.live = true ∧ s.hasPort 4 = true ∧ (s.link 4).st = .up ∧ (s.link 4).holds 1 = true ∧ (s.link 4).holds 2 = false)
    ∧ ((s.link 4).replay.head?.map fun f => tagSeq f.tag) = some 0 ∧ true ≠ ackParity 0 false
    ∧ (let e := lnk 4 (fun l => { l with fails := [(0, 7)] }) s; ((e.link 4).fails.find? fun f => f.1 = 0) = some (0, 7) ∧ (e.link 4).holds 0 = true)
    ∧ s.paused = false ∧ (pow (fun p => { p with throttle := true }) s).paused = true
    ∧ (quiet.live = true ∧ quiet.engine = .quiesced ∧ 4 ∈ quiet.resetPorts 0x10010 ∧ 16 ∈ quiet.resetPorts 0x10010 ∧ quiet.xch.st ≠ 3)
    ∧ up.engine ≠ .quiesced := by decide +kernel
theorem test_ack : ((after (.ackReceive 4 1 false (ackParity 1 false)) (sent2 up)).link 4).replay = []
    ∧ ((after (.ackReceive 4 0 false true) (sent2 up)).link 4).replay.length = 2 := by decide +kernel
theorem test_nak_fatal : let s := lnk 4 (fun l => { l with fails := [(0, 7)] }) (sent2 up)
    ((after (.ackReceive 4 0 true (ackParity 0 true)) s).link 4).st = .fatal
    ∧ ((after (.ackReceive 4 0 true (ackParity 0 true)) (sent2 up)).link 4).fails = [(0, 1)] := by decide +kernel
theorem test_replay_timeout : let t := after (.replayTimeout 4) (sent2 up); ((t.link 4).resends, (t.link 4).replay.length, t.cntVal .crcResend) = (1, 2, 1) := by
  decide +kernel
theorem test_port_reset : let s := lnk 16 (fun l => { l with st := .up, resends := 9 }) (linkUp 17 quiet)
    let t := after (.portReset 0x10000) s
    (((t.link 16).st, (t.link 16).resends), (t.link 17).st, ((after (.portReset 0x20000) { s with engine := .enabled }).link 17).st)
      = ((.init, 9), .up, .up) := by decide +kernel
/-- A read outstanding, number 9, of `k`. -/
def rd (k : RKind) (units : Nat) : FmRead := ⟨9, 16, k, 0x5000, units, units, [], false, false, 0⟩
def reading (k : RKind) (units : Nat) (s : State) : State := { s with reads := [rd k units], nextId := 20 }
/-- A write outstanding, number 8, and one that waits for it. -/
def writing (s : State) : State :=
  { s with writes := [⟨8, .statusLine 0, 0x100, [1], [], true, false, 16⟩, ⟨10, .statusLine 0, 0x100, [2], [8], false, false, 0⟩], nextId := 20 }
/-- 64 bytes whose CRC-32C is 0: all ones take the running CRC to 0, and the last word takes it back to all ones. -/
def crc0 : Payload := BitVec.ofNat 2048 (packN [(0, 32, 0xFFFFFFFF), (480, 32, 0x641F6454)])
theorem wit_FabricTransactions : let f := { reading .firmware 8 up with fw := (1, 0, 0) }
    let found (r : FmRead) := ({ up with reads := [r] } : State).reads.find? (fun x => decide (x.id ≤ 9 ∧ 9 < x.id + x.requests)) = some r
    let meets (r : FmRead) (flit : Nat) := found r ∧ r.failed = false ∧ 9 < r.id + r.sent ∧ flit < ceilDiv (r.unitsOf (9 - r.id)) 4
      ∧ ∀ x ∈ r.flits, x.1 ≠ 64 * (9 - r.id) + flit
    (f.live = true ∧ meets (rd .firmware 8) 0 ∧ (rd .firmware 8).flits.length + 1 ≠ ceilDiv 8 4
      ∧ ({ rd .firmware 8 with flits := [(0, 0)] }).answered (9 - 9) = false)
    ∧ (meets { rd .firmware 8 with flits := [(0, 0)] } 1 ∧ ({ rd .firmware 8 with flits := [(0, 0)] }).flits.length + 1 = ceilDiv 8 4)
    ∧ (meets (rd (.wagon 64) 1) 0 ∧ (rd (.wagon 64) 1).flits.length + 1 = ceilDiv 1 4
      ∧ up.wagonGood 64 ({ rd (.wagon 64) 1 with flits := [(0, crc0)] }).bytes = true
      ∧ up.wagonGood 64 ({ rd (.wagon 64) 1 with flits := [(0, 0)] }).bytes = false
      ∧ (rd (.wagon 64) 1).tries < 3 ∧ 3 ≤ ({ rd (.wagon 64) 1 with tries := 3 }).tries)
    ∧ (found (rd .capture 4) ∧ found (rd (.writeBack 64) 4)) := by decide +kernel
theorem wit_FabricTransactions_writes : let w := writing up
    (w.live = true ∧ (∀ x ∈ w.reads, ¬ (x.id ≤ 8 ∧ 8 < x.id + x.requests)) ∧ (∃ x ∈ w.writes, x.id = 8 ∧ x.issued = true)
      ∧ (∀ x ∈ w.taken, x.pend ≠ .quiesceSave) ∧ 8 < w.nextId) := by decide +kernel
/-- R527, R542: the last flit of the firmware starts its verification; a flit counts once. -/
theorem test_read_data : let s := { reading .firmware 8 up with fw := (1, 0, 0) }
    let t := after (.fmReadData 9 0 7) s
    (t.fw, (after (.fmReadData 9 0 7) t).fw, (after (.fmReadData 9 1 7) t).fw) = ((1, 0, 0), (1, 0, 0), (2, 0, 0)) := by decide +kernel
theorem test_read_error : let t := after (.fmReadError 9) { reading .firmware 8 up with fw := (1, 0, 0) }
    (t.fw, t.reads, t.err .fmErr, t.cntVal .fmErr) = ((4, 0, 0), [], true, 1) := by decide +kernel
theorem test_fm_timeout : let t := after (.fmTimeout 8) (writing up)
    ((t.writes.map fun w => (w.id, w.failed)), t.cntVal .fmErr) = ([(8, true), (10, false)], 1) := by decide +kernel
/-- R531: a wagon whose read fails, or whose CRC is wrong (R206), is read again; one that has come is read no longer. -/
theorem test_wagon_read : ((after (.fmReadError 9) (reading (.wagon 64) 4 up)).reads.map (·.tries), (after (.fmReadData 9 0 crc0) (reading (.wagon 64) 1 up)).reads,
    (after (.fmReadData 9 0 0) (reading (.wagon 64) 1 up)).reads.map (·.tries)) = ([1], [], [1]) := by decide +kernel
/-- R529: the second write goes out when the first is acknowledged; R531: an ERR leaves both. -/
theorem test_write_ack : ((after (.fmWriteAck 5 [(8, false)]) (writing (linkUp 16 up))).writes.map fun w => (w.id, w.issued, w.after)) = [(10, true, [])]
    ∧ ((after (.fmWriteAck 5 [(8, true)]) (writing up)).writes.map fun w => (w.id, w.failed, w.after)) = [(8, true, []), (10, false, [8])] := by
  decide +kernel
/-- Consignment 5 of the tick under way, a score of 2 flits at group size 1, sent. -/
def cns : Consign := ⟨⟨5, 1, 0, 0, 0, 1, 0, 2⟩, 0x21, true, false, false, false, [(0, 0, 0), (0, 1, 0)]⟩
/-- The same with one flit still to come. -/
def cnsDue : Consign := { cns with got := [(0, 0, 0)] }
def joinedDue (s : State) : State := tck (fun k => { k with cons := [cnsDue] }) { s with xch := { s.xch with st := 2 } }
def joined (s : State) : State := tck (fun k => { k with cons := [cns] }) { s with xch := { s.xch with st := 2 } }
/-- A digest out, a member's the same or different in section 1 (word 3). -/
def digested (x : Payload) (s : State) : State := { s with digest := { s.digest with sent := some 0, flits := [(0, x)] } }
theorem wit_ExchangeOutcomes : let j := joined up
    let dif := digested (BitVec.ofNat 2048 (2 ^ 96)) up
    (let w := joinedDue up; w.live = true ∧ w.xch.st = 2 ∧ w.awaited = true ∧ w.paused = false ∧ w.err .groupMismatch = false) ∧ ((joinedDue (up.setErr .groupMismatch)).err .groupMismatch = true)
    ∧ (j.live = true ∧ j.tick.cons.find? (fun c => c.plan.num = 5 && c.sent && (!c.ended || c.left) && !c.done) = some cns ∧ cns.got.length = j.consNeed cns)
    ∧ (dif.live = true ∧ dif.digest.sent = some 0 ∧ dif.digest.flits.length = dif.groupSize ∧ dif.err .groupMismatch = false)
    ∧ (digested 0 up).digest.flits.length = (digested 0 up).groupSize := by decide +kernel
theorem test_partner_lost : let t := after .partnerLost (joinedDue up)
    (t.xch.st, t.err .xchLost, t.err .groupMismatch, t.tick.cons.map (·.ended), t.cntVal .xchLost) = (3, true, true, [true], 1) := by decide +kernel
theorem test_consignment_complete : ((after (.consignmentComplete 5) (joined up)).tick.cons.map (·.done)) = [true] := by decide +kernel
theorem test_digest_compare : let t := after .digestCompare (digested (BitVec.ofNat 2048 (2 ^ 96)) up)
    (t.digest.sections, t.err .groupMismatch, t.digest.sent) = (2, true, none) ∧ (after .digestCompare (digested 0 up)).err .groupMismatch = false := by
  decide +kernel
/-- A join's return: IX_ID, position, size and the member's next tick count. -/
def joinFlit (pos size count : Nat) : Payload :=
  BitVec.ofNat 2048 (packN [(0, 32, up.ixId.toNat), (32, 8, pos), (40, 8, size), (64, 64, count)])
def joining (f : Payload) (s : State) : State := { s with xch := { s.xch with st := 1, joining := true, joinGot := [(0, f)] } }
theorem wit_Joins : let s := linkUp 4 { quiet with xch := { quiet.xch with st := 1 } }
    (s.live = true ∧ s.engine = .quiesced ∧ (s.link 4).st = .up ∧ s.negot.getD 2 0 ≠ 0 ∧ s.xch.st = 1) ∧ up.engine ≠ .quiesced
    ∧ (let j := joining (joinFlit 0 1 77) quiet; j.live = true ∧ j.xch.joining = true ∧ j.groupSize ≤ j.xch.joinGot.length ∧ j.joinCheck = 0)
    ∧ (joining (joinFlit 1 1 77) quiet).joinCheck = 2 := by decide +kernel
theorem test_join : let t := after .join (linkUp 4 { quiet with xch := { quiet.xch with st := 1 } })
    (t.xch.joining, (t.link 4).replay.length, (after .join up).xch.joining) = (true, 1, false) := by decide +kernel
theorem test_join_complete : let t := after .joinComplete (joining (joinFlit 0 1 77) quiet)
    let e := after .joinComplete (joining (joinFlit 0 2 77) quiet)
    ((t.xch.st, t.tick.count), (e.xch.st, e.xch.joinErr, e.tick.count)) = ((2, 77), (1, 2, 0)) := by decide +kernel
theorem test_join_timeout : let t := after .joinTimeout (joining 0 quiet); (t.xch.st, t.xch.joinErr, t.xch.joining) = (1, 1, false) := by decide +kernel
/-- Tags of returned flits. -/
def ret (kind stamp num fidx : Nat) : FlitTag := xchTag kind stamp num 0 fidx 2 0 0
theorem wit_ReturnedFlits : let j := { up with xch := { up.xch with joining := true } }
    let k := { j with xch := { j.xch with joinGot := [(0, 0)] } }
    let d := { up with digest := { up.digest with sent := some 0 } }
    let e := { d with digest := { d.digest with flits := [(0, 0)] } }
    let c := tck (fun k => { k with cons := [{ cns with got := [(0, 0, 0)] }] }) up
    (j.live = true ∧ tagKind (ret 0x24 0 0 0) = 0x24 ∧ j.xch.joining = true ∧ j.xch.joinGot = []) ∧ up.xch.joining = false
    ∧ (∃ x ∈ k.xch.joinGot, x.1 = xchSrc (ret 0x24 0 0 0))
    ∧ (tagKind (ret 0x23 0 0 0) = 0x23 ∧ xchStamp (ret 0x23 0 0 0) = d.tick32 ∧ d.digest.sent.isSome = true
        ∧ xchSrc (ret 0x23 0 0 0) < d.groupSize ∧ d.digest.flits = []) ∧ up.digest.sent = none ∧ (∃ x ∈ e.digest.flits, x.1 = xchSrc (ret 0x23 0 0 0))
    ∧ (tagKind (ret 0x21 0 5 1) ≠ 0x24 ∧ xchStamp (ret 0x21 9 5 0) ≠ up.tick32)
    ∧ (tagKind (ret 0x21 0 5 1) ≠ 0x23 ∧ up.tick.cons.find? (fun c => c.plan.num = 5 && c.sent && (!c.ended || c.left) && !c.done) = none)
    ∧ (xchConsign (ret 0x21 0 5 1) = 5 ∧ xchFidx (ret 0x21 0 5 1) = 1 ∧ tagKind (ret 0x21 0 5 1) = 0x21 ∧ cns.kind = 0x21
        ∧ xchStamp (ret 0x21 0 5 1) = c.tick32
        ∧ c.tick.cons.find? (fun c => c.plan.num = 5 && c.sent && (!c.ended || c.left) && !c.done) = some { cns with got := [(0, 0, 0)] }
        ∧ cns.plan.len = 2)
    ∧ (xchFidx (ret 0x21 0 5 0) = 0 ∧ ∃ g ∈ ({ cns with got := [(0, 0, 0)] } : Consign).got, g.1 = 0 ∧ g.2.1 = 0) ∧ ¬ xchFidx (ret 0x21 0 5 9) < cns.plan.len := by
  decide +kernel
/-- R517: a flit of its place is kept once; one of another tick is an error. -/
theorem test_returned_flit : let c := tck (fun k => { k with cons := [{ cns with got := [(0, 0, 0)] }] }) up
    let t := after (.xchReturnedFlit (ret 0x21 0 5 1) 0) c
    ((t.tick.cons.map fun c => c.got.length), t.err .xchSeq, (after (.xchReturnedFlit (ret 0x21 0 5 1) 0) t).err .xchSeq,
      (after (.xchReturnedFlit (ret 0x21 9 5 1) 0) c).err .xchSeq) = ([2], false, true, true) := by decide +kernel

/-! Ticks. -/

/-- A tick header: kind, line 0, layer, stops, HOST_TICK, and NEXT where given. -/
def hdr (kind layer stops host : Nat) (next : List (Nat × Nat × Nat)) : Payload :=
  BitVec.ofNat 2048 (packN ([(0, 8, 1), (8, 2, kind), (16, 10, layer), (32, 6, stops), (128, 64, host)] ++ next))
/-- A plan of stop 0 with `rows`, and no segment. -/
def plan0 (rows : List Nat) : StopPlan := ⟨0, rows, [], 0, [], [], [], [], [], [], none, [], [], 0, 0, [], []⟩
/-- A timetable for a header. -/
def tt (h : Header) (lines : List TLine) (rows : List Nat) : Timetable := ⟨h, 1, lines, [], [], [], [], [], [], [], [], [], [], [], [], [plan0 rows], [], 32, false, [], 0, []⟩
/-- A line with a control slot: WAIT_CONS on `n`, or TICK_END. -/
def waitLine (n : Nat) : TLine := BitVec.ofNat 1024 (packN [(1020, 4, 3), (989, 3, 2), (960, 24, n)])
def endLine : TLine := BitVec.ofNat 1024 (packN [(1020, 4, 6)])
/-- Tick 1 under way, a LAYER tick of stop 0 with rows 0 and 1. -/
def ticking (s : State) : State := tck (fun k => { k with
  count := 1, active := true, cur := some (tt ⟨1, 0, 0, 1⟩ [waitLine 5, endLine] [0, 1]), run := { k.run with ended := false, pc := 0 } }) s
/-- Idle, with no stop, edge or tick, between ticks. -/
def between (s : State) : State := tck (fun k => { k with cold := false, ann := some ⟨1, 0, 0, 1⟩, next := some (tt ⟨1, 0, 0, 1⟩ [] []), idle := false }) s
def edge (e : Edge) (s : State) : State := tck (fun k => { k with edge := e }) s
/-- The tick's work done. -/
def ticked (s : State) : State := tck (fun k => { k with
  count := 1, active := true, cur := some (tt ⟨1, 0, 0, 0⟩ [] []), run := { k.run with ended := true } }) s
/-- An edge at cycle 30,000 is fresh, and the edge rules of R25 do not hold it. -/
def fresh (s : State) : Bool := s.live && decide (s.fw.1 = 3 ∧ s.tick.lastEdge = none ∧ s.tick.edge = .none)
def settled (s : State) : Bool := !s.tick.active || (!s.workDone && s.curHdr.stopList.all fun st => !s.mayOpen st || s.tick.pinStop == some st || s.tick.shut.contains st)
def pin (p : Nat) (s : State) : State := tck (fun k => { k with pinStop := some p }) s
theorem wit_Edges : let soon := tck (fun k => { k with lastEdge := some 1000 }) up
    let len (s : State) := rset 0x2008 1 s
    let bare := tck (fun k => { k with stops := [{ (plan0 [0, 1]).fresh 1 with ingress := false }] }) (ticking up)
    (up.live = true ∧ State.reset.fw.1 ≠ 3) ∧ (soon.tick.lastEdge = some 1000 ∧ 21799 < 1000 + fld (soon.reg 0x2004) 0 20 * 1300)
    ∧ (fresh (pin 0 up) = true ∧ settled (pin 0 up) = true ∧ (pin 0 up).pinned.isSome = true ∧ (pin 0 up).engine ≠ .quiesced)
    ∧ (fresh quiet = true ∧ quiet.tick.active = false ∧ quiet.engine ≠ .enabled ∧ quiet.pinned = none) ∧ ((pin 0 quiet).pinned ≠ none ∧ (pin 0 quiet).engine = .quiesced)
    ∧ (fresh bare = true ∧ settled bare = true ∧ bare.pinned = none ∧ bare.engine = .enabled ∧ bare.tick.active = true ∧ bare.lenient = false)
    ∧ (fresh (len bare) = true ∧ settled (len bare) = true ∧ (len bare).pinned = none ∧ (len bare).lenient = true)
    ∧ (fresh (between up) = true ∧ (between up).pinned = none ∧ (between up).engine = .enabled ∧ (between up).tick.active = false ∧ (pin 7 up).pinned = none) := by
  decide +kernel
theorem wit_Edges_waiting : let held := edge (.held 50) (between up)
    let both := edge (.held 50) (ticking up)
    let strict := edge (.strict 50 none) (between up)
    (held.live = true ∧ held.tick.edge = .held 50 ∧ held.pinned = none ∧ held.engine = .enabled ∧ held.tick.active = false)
    ∧ (both.tick.edge = .held 50 ∧ both.tick.active = true ∧ both.workDone = false ∧ both.lenient = false ∧ (rset 0x2008 1 both).lenient = true)
    ∧ (strict.live = true ∧ strict.tick.edge = .strict 50 none ∧ strict.paused = false ∧ strict.tick.active = false)
    ∧ (after .throttleAssert strict).paused = true
    ∧ (let s := edge (.strict 50 none) (ticking up); s.tick.active = true ∧ s.workDone = false)
    ∧ (let s := edge (.strict 50 none) (ticked up); s.paused = false ∧ s.tick.active = true ∧ s.workDone = true ∧ s.engine = .enabled) := by decide +kernel
/-- R25: within TICK_MIN, 16 µs at reset, an edge is coalesced; at its end one is accepted. -/
theorem test_tick_edge : let s := tck (fun k => { k with lastEdge := some 1000 }) (between up)
    ((after (.tickEdge 21799 []) s).cntVal .tickCoalesced, (after (.tickEdge 21799 []) s).tick.edge,
      (after (.tickEdge 21800 []) s).tick.edge) = (1, .none, .waiting 21800 false false false) := by decide +kernel
theorem test_held_edge : ((after (.heldEdgeRelease []) (edge (.held 50) (between up))).tick.edge,
    (after (.heldEdgeRelease []) (tck (fun k => { k with pinStop := some 0 }) (edge (.held 50) (between up)))).tick.edge)
      = (.waiting 50 false false false, .held 50) := by decide +kernel
theorem test_strict_overrun : ((after (.strictOverrunStart []) (edge (.strict 50 none) (between up))).tick.edge,
    (after (.strictOverrunStart []) (edge (.strict 50 none) (ticking up))).tick.edge, (after (.strictOverrunStart []) (edge (.strict 50 none) (ticked up))).tick.active)
      = (.waiting 50 false false false, .strict 50 none, false) := by decide +kernel
/-- STOP_VALID with STOP_ID 7, which frames a header. -/
def framing7 (s : State) : State := tck (fun k => { k with pinStop := some 7 }) s
theorem wit_HeadersTaken : let w (c late : Bool) (s : State) := edge (.waiting 50 false c late) (framing7 s)
    let a := w false false (between up)
    (up.tick.pinStop ≠ some 7) ∧ (framing7 up).live = true ∧ (framing7 up).tick.pinStop = some 7 ∧ (framing7 up).paused = false ∧ (framing7 up).negot.getD 2 0 ≠ 0
    ∧ (framing7 up).tick.edge = .none
    ∧ ((w true false up).live = true ∧ (w true false up).tick.edge = .waiting 50 false true false ∧ hdrVer 0 ≠ 1 ∧ hdrVer (hdr 0 0 1 1 []) = 1)
    ∧ (edge (.strict 50 none) (framing7 up)).tick.edge = .strict 50 none
    ∧ (let n := w false false up; n.tick.edge = .waiting 50 false false false ∧ n.tick.next = none)
    ∧ (a.tick.next = some (tt ⟨1, 0, 0, 1⟩ [] []) ∧ a.tick.ann = some ⟨1, 0, 0, 1⟩ ∧ (rawHeader (hdr 1 0 1 1 [])).clean = ⟨1, 0, 0, 1⟩)
    ∧ (let b := { a with lines := a.lines.set 0 { a.line 0 with last := some (0, 0) } }; b.inOrder ⟨1, 0, 0, 1⟩ = true)
    ∧ (edge (.waiting 50 true false true) (framing7 up)).tick.edge = .waiting 50 true false true := by decide +kernel
/-- R33, R43: a cold start takes the header it has waited for and builds; a wrong HOST_TICK is an error; a header of version 0 goes. -/
theorem test_header_cold : let s := edge (.waiting 50 false true false) (framing7 up)
    let t := after (.tickHeader 60 (hdr 0 0 1 1 [])) s
    ((t.tick.build, t.tick.edge, t.err .tickSeq), (after (.tickHeader 60 (hdr 0 0 1 2 [])) s).err .tickSeq, (after (.tickHeader 60 0) s).err .tickHeader)
      = ((3, .building 50 (hdr 0 0 1 1 []), false), true, true) := by decide +kernel
/-- R28, R37, R40: the announced header of the timetable that is ready starts the tick. -/
theorem test_header_ready : let s := edge (.waiting 50 false false false) (framing7 (between up))
    let t := after (.tickHeader 60 (hdr 1 0 1 1 [])) { s with lines := s.lines.set 0 { s.line 0 with last := some (0, 0) } }
    (t.tickAck, t.tick.count, t.standing, t.tick.ackAt) = (true, 1, false, 60) := by decide +kernel
/-- IX7-128, every train quiesced: none works, whatever the governor allows (R556). -/
def gated (s : State) : State := { s with build := .ix128, trains := List.replicate 32 (.quiesced, 0) }
/-- The program of an EMBED tick without rows: the digest, the stop's end, the tick's end (R55, R67); 128 frames of each car (R277). -/
def built0 : Built := ⟨[BitVec.ofNat 1024 (packN [(925, 3, 4), (904, 14, 1)]), BitVec.ofNat 1024 (packN [(1020, 4, 4)]), endLine],
  [], [], List.replicate 128 (0, 0), []⟩
theorem wit_TimetablesBuilt : let b := edge (.building 50 (hdr 0 0 1 1 [])) (tck (fun k => { k with build := 3, buildFor := some ⟨0, 0, 0, 1⟩ }) (gated up))
    let n := tck (fun k => { k with build := 1, buildFor := some ⟨0, 0, 0, 1⟩ }) (gated up)
    let may (s : State) (x : Built) := s.beginBuild.inputs.any fun i => let view := s.withInputs i
      view.programOk i (view.timetable ⟨0, 0, 0, 1⟩ (s.tick.count + 1) x) x.woven
    (b.live = true ∧ b.paused = false ∧ (after .droop b).paused = true ∧ b.tick.edge = .building 50 (hdr 0 0 1 1 []) ∧ (rawHeader (hdr 0 0 1 1 [])).clean = ⟨0, 0, 0, 1⟩)
    ∧ (n.live = true ∧ n.paused = false ∧ n.tick.edge = .none ∧ n.tick.build = 1 ∧ n.tick.buildFor = some ⟨0, 0, 0, 1⟩ ∧ n.engine = .enabled)
    ∧ (may b.begin built0 = true ∧ may n.begin built0 = true) ∧ (may n.begin { built0 with lines := [endLine] } = false ∧ n.begin.beginBuild.inputs.isSome = true)
    ∧ (let d := { n with lines := n.lines.set 0 { n.line 0 with boundary := true } }; d.begin.beginBuild.inputs = none ∧ d.tick.buildFor = some ⟨0, 0, 0, 1⟩) := by
  decide +kernel
theorem test_timetable_build : let s := edge (.building 50 (hdr 0 0 1 1 [])) (tck (fun k => { k with build := 3, buildFor := some ⟨0, 0, 0, 1⟩ }) (gated up))
    let t := after (.timetableBuild 70 built0) s
    (t.tickAck, t.tick.count, t.digest.sent.isSome) = (true, 1, false) := by decide +kernel
theorem test_timetable_ready : let s := tck (fun k => { k with build := 1, buildFor := some ⟨0, 0, 0, 1⟩ }) (gated up)
    let n := after (.timetableBuild 70 built0) s
    ((n.tickAck, n.tick.build, n.tick.next.map (·.lines.length)), (after (.timetableBuild 70 { built0 with lines := [endLine] }) s).tick.build)
      = ((false, 2, some 3), 1) := by decide +kernel
/-- The stop of the tick under way, open. -/
def stopped (s : State) : State := after (.stopOpen 0) s
theorem wit_StopsFramed : let t := ticking up
    let s := stopped t
    let two := tck (fun k => { k with stops := [(plan0 []).fresh 1, { (plan0 []).fresh 1 with stop := 5 }] }) t
    let stopFresh (s : State) (st : Nat) := ∀ x ∈ s.tick.stops, ¬ (x.stop = st ∧ x.tick = s.tick.count ∧ x.ingress = true)
    let e := tck (fun k => { k with stops := k.stops.map fun x => { x with ended := true } }) s
    (t.live = true ∧ t.tick.pinStop = none ∧ t.tick.shut = [] ∧ t.awaitsAck = false ∧ t.openStops < 2 ∧ stopFresh t 0 ∧ t.mayOpen 0 = true
      ∧ t.planOf 0 = some (plan0 [0, 1]))
    ∧ (t.mayOpen 3 = false ∧ stopFresh t 3 ∧ t.tick.cur.isSome = true) ∧ (two.tick.pinStop = none ∧ 2 ≤ two.openStops)
    ∧ (edge (.waiting 5 false false false) t).awaitsAck = true
    ∧ ((pin 4 two).pinned = some 4 ∧ (pin 4 two).framed = none ∧ (pin 4 two).awaitsAck = false ∧ 2 ≤ (pin 4 two).openStops ∧ (pin 4 two).tick.pinStop.isSome = true)
    ∧ (s.live = true ∧ s.awaitsAck = false ∧ s.tick.shut = [] ∧ s.paused = false ∧ s.curHdr.kind = 1 ∧ s.standing = false
        ∧ ∃ x ∈ s.tick.stops, s.framed = some x ∧ s.stopAt x.stop = some x ∧ x.ended = false ∧ x.framing = false ∧ x.flits = 32 ∧ s.missing 1 x = [0, 1])
    ∧ (e.framed.map (·.ended)) = some true := by decide +kernel
/-- R87: a row of 2,048 elements of bf16 is 16 flits. -/
theorem test_stop_open : ((stopped (ticking up)).tick.stops.map fun x => (x.stop, x.framing, x.flits, x.ingress)) = [(0, false, 32, true)]
    ∧ ((after (.stopOpen 3) (ticking up)).err .stopFraming = true) := by decide +kernel
theorem test_stop_close : ((after .stopClose (stopped (ticking up))).tick.pinStop, ((after .stopClose (stopped (ticking up))).tick.stops.map (·.ingress)))
    = (none, [false]) := by decide +kernel
/-- R507: AIN0 carries FIDX 0 and 1 of each four, AIN1 2 and 3. -/
theorem test_stop_data : let s := stopped (ticking up)
    let f (port fidx : Nat) := after (.stopDataFlit port (mkTag [(8, 0, 24, fidx)]) 0) s
    ((f 0 0).tick.stops.map fun x => (x.next0, x.next1), (f 1 2).tick.stops.map fun x => (x.next0, x.next1), (f 0 1).err .stopFraming, (f 1 0).err .stopFraming)
      = ([(1, 2)], [(0, 3)], true, true) := by decide +kernel
theorem wit_ProgramRuns : let s := ticking up
    let w := tck (fun k => { k with cons := [cns] }) s
    let bare (l : TLine) := xchSlot l = 0 ∧ actSlot l = 0 ∧ ∀ k, k < 4 → fetchKind (fetchSlot l k) = 0
    (s.live = true ∧ s.tick.pinStop = none ∧ s.tick.shut = [] ∧ s.paused = false ∧ s.tick.active = true ∧ s.tick.run.ended = false
      ∧ s.tick.cur = some (tt ⟨1, 0, 0, 1⟩ [waitLine 5, endLine] [0, 1]))
    ∧ ([waitLine 5, endLine][w.tick.run.pc]? = some (waitLine 5) ∧ ctlOp (waitLine 5) = 3 ∧ w.waitHolds (waitLine 5) false false = false ∧ ∀ c ∈ w.tick.cons, c.done = false)
    ∧ (s.waitHolds (waitLine 5) false false = true ∧ ctlOp endLine = 6 ∧ bare (waitLine 5) ∧ bare endLine)
    ∧ (let z := tck (fun k => { k with run := { k.run with pc := 2 } }) s; [waitLine 5, endLine][z.tick.run.pc]? = none) := by decide +kernel
theorem test_wait : ((after (.timetableWaitRelease false false) (ticking up)).tick.run.ended, (after (.timetableWaitRelease false false) (ticking up)).tick.run.pc) = (true, 1)
    ∧ (after (.timetableWaitRelease false false) (tck (fun k => { k with cons := [cns] }) (ticking up))).tick.run.ended = false := by decide +kernel
theorem wit_TickTimes : let w := edge (.waiting 50 false false false) up
    let act := tck (fun k => { k with idle := false }) up
    let q := { up with engine := .quiescing }
    let h := { ticking up with engine := .held }
    let unopened (s : State) (st : Nat) := st ∈ s.curHdr.stopList ∧ s.mayOpen st = true ∧ s.tick.pinStop ≠ some st ∧ st ∉ s.tick.shut
    (w.live = true ∧ w.tick.edge = .waiting 50 false false false) ∧ (act.live = true ∧ act.tick.edge = .none ∧ act.tick.active = false ∧ act.tick.idle = false)
    ∧ (q.live = true ∧ q.engine = .quiescing ∧ q.tick.active = false) ∧ (h.live = true ∧ h.engine = .held ∧ h.tick.active = true ∧ unopened h 0)
    ∧ ((ticked up).curHdr.stopList = []) ∧ ((ticked up).live = true ∧ (ticked up).tick.active = true ∧ (ticked up).workDone = true ∧ (ticked up).engine = .enabled)
    ∧ (ticked quiet).engine ≠ .enabled ∧ (ticking up).workDone = false := by decide +kernel
/-- R43, R44: 100 ms after the edge, at cycle 50 + 130,000,000. -/
theorem test_header_timeout : let t := after .tickHeaderTimeout (edge (.waiting 50 false false false) up)
    (t.tick.edge, t.tick.cold, t.tick.idle, t.err .tickHeader, t.now) = (.none, true, true, true, 130000050) := by decide +kernel
theorem test_idle_timeout : let t := after .idleTimeout (tck (fun k => { k with idle := false, lastRise := 7 }) up)
    (t.tick.idle, t.tick.cold, t.now) = (true, true, 130000007) := by decide +kernel
theorem test_quiesce_timeout : let t := after .quiesceEdgeTimeout { up with engine := .quiescing, quiesceAt := 9 }
    let h := after .quiesceEdgeTimeout { ticking up with engine := .quiescing }
    ((t.now, t.engine, (after .quiesceEdgeTimeout up).now), (h.tick.skips, h.err .stopFraming)) = ((130000009, .quiescing, 0), ([0], true)) := by decide +kernel
theorem test_work_done : let t := after (.tickWorkDone 80) (ticked up)
    (t.tick.active, t.tick.idle, (after (.tickWorkDone 80) (ticked quiet)).tick.idle, (after (.tickWorkDone 80) (ticking up)).tick.active)
      = (false, up.tick.idle, true, true) := by decide +kernel
/-- R29: BUDGET counts 2 µs: 2,600 cycles after TICK_ACK it is not exceeded, one cycle later it is. -/
theorem test_budget : let s := { ticking up with budget := 1 }
    ((after (.tickBudgetExpiry 2600) s).tick.late, (after (.tickBudgetExpiry 2601) s).tick.late) = (false, true) := by decide +kernel

/-! Routing, heads, step boundaries, requests. -/

/-- A sampling block: greedy, no end token. -/
def greedy : Sampling := ⟨0, 0x3F800000, 0, 0x3F800000, 0, 0, 0, 0, 0, 0, 0, 0, 0xFFFFFFFF⟩
/-- A request entry of tenant 7 on line 0 with TAG generation 1, at position 3 of a prompt of 3. -/
def req (slot : Nat) (st : ReqSt) : Req :=
  ⟨slot, st, 0, .decode, 0, false, false, 0, false, false, false, false, false, false, 0, mkReqTag 1 slot, 7, [0, 0, 0, 0], [0, 0, 0, 0], 0, 0,
    none, none, 0, 3, 3, 3, 8, 0, greedy, 0x8000, 4, [], 0, 0, 0, 0, [], 5, [], [], [], [], (0, 0), false, none, none, false, 0, 0, 0, 0, 0⟩
def requested (q : Req) (s : State) : State := { s with reqs := [q] }
/-- R421: after a warm reset in a HEAD tick whose boundary is due, a decided request is where it was, held, and its queued records are gone. -/
def headCut (s : State) : State :=
  let r : MRow := ⟨2, mkReqTag 1 2, 0, 0, 0, false, true, true, 0, false, 7⟩
  let u := { s with
    lines := s.lines.set 0 { s.line 0 with boundary := true, headTick := 6, rows := [r] }
    reqs := [{ req 2 .decode with pos := 9, prod := 1, endP := true }], tick := { s.tick with undo := [req 2 .prefill] } }
  u.addWrite (.tokenRecord 2) 0x8040 (leBytes 4 3 ++ leBytes 4 6 ++ List.replicate 8 0) []
theorem test_warm_reset_undoes : let t := after .warmRstN (headCut up)
    (t.reqs.map (fun q => (q.st, q.pos, q.prod, q.endP, q.held)), (t.writes.filter fun w => w.kind == .tokenRecord 2).length, (t.line 0).boundary)
      = ([(.prefill, (req 2 .prefill).pos, 0, false, true)], 0, false) := by decide +kernel
theorem wit_WarmResetKeeps : ((headCut up).live = true ∧ ((headCut up).line 0).boundary = true
      ∧ ∃ m ∈ ((headCut up).line 0).rows, ∃ q ∈ (after .warmRstN (headCut up)).reqs, q.slot = m.slot)
    ∧ ((up.line 0).boundary = false ∧ (up.line 1).boundary = false)
    ∧ (up.live = true ∧ up.tierOld = [] ∧ (∀ d ∈ up.dirs, d.prior = none) ∧ Memory.wf up.adMem)
    ∧ (let s := { up with adMem := [(5, 1), (9, 2)], tierOld := [⟨9, 1, [7], none⟩] }
      s.live = true ∧ Memory.wf s.adMem ∧ (∃ e ∈ s.tierOld, e.addr ≤ 9 ∧ 9 < e.addr + e.bytes.length) ∧ (after .warmRstN s).adMem = [(5, 1), (9, 7)]
        ∧ s.tierOld.Pairwise (fun e f => e.addr + e.bytes.length ≤ f.addr ∨ f.addr + f.bytes.length ≤ e.addr)) := by decide +kernel
/-- An expert set in force in slot 4: hash routing to one of two adapter-experts. -/
def copy0 (kind : Nat) (rows : List TRow) : Copy :=
  ⟨false, kind, false, true, false, false, 0, 0, false, 0, 0, 0, packWord [(0, 2, 2), (2, 7, 2), (9, 3, 1)], 0, 0, 0, 1280, 0, 8, false, [], rows, 1⟩
def dir0 (c : Copy) : Dir := ⟨4, packWord [(18, 14, 3), (0, 18, 4)], 7, .installed, some c, none, 1, (0, 0), false, false, 0, 0, 0, none, none, none, none, none, (0, []), none, none⟩
def owning (c : Copy) (s : State) : State := { s with dirs := [dir0 c] }
/-- R183: with adapter-expert 1 full, its second choice goes to the next of the ranking with room, the third finds none. -/
theorem test_place_row : ((placeRow (fun _ => 1) [0, 1] 2 [1, 1, 1] 0 [0, 0]).1.map fun p => (p.outcome, p.final)) = [(0, some 1), (1, some 0), (2, none)] := by
  decide +kernel
/-- A LAYER tick whose stop 0 has one routing row of tenant 7's set. -/
def routing : State := owning (copy0 1 []) (tck (fun k => { k with stops := k.stops.map fun x => { x with plan := { x.plan with routing := [(0, 4)] } } }) (stopped (ticking up)))
/-- A LAYER tick whose stop 0 has one probe row, its score consignment complete; the exit head is slot 4's. -/
def probing : State :=
  let s := owning { copy0 2 [] with parts := [⟨12, 0, 1, 32, 32, 0, 4, 4, 0, 0, 0, 0, false⟩] } (stopped (ticking up))
  tck (fun k => { k with
    stops := k.stops.map fun x => { x with plan := { x.plan with probe := [0], exitPt := some 0 } }
    cons := [⟨⟨5, 1, 0, 0, 0, 1024, 0, 1⟩, 0x21, true, false, false, true, []⟩] })
    { s with exitCfg := [[0x80000000, packWord [(18, 14, 3), (0, 18, 4)]], []] }
theorem wit_Routing : let s := routing
    let b := probing
    (s.live = true ∧ s.curHdr.kind = 1 ∧ s.exchangeLost = false ∧ s.groupSizeOf 0 = 1024)
    ∧ (∃ x ∈ s.tick.stops, s.stopAt 0 = some x ∧ x.ended = false ∧ 0 ∉ x.placed ∧ (0, 4) ∈ x.plan.routing ∧ (∀ r ∈ x.plan.routing, r.1 / 1024 = 0)
      ∧ x.plan.learned = [] ∧ x.plan.late = []) ∧ (s.dirAt 4 = some (dir0 (copy0 1 []))) ∧ ((dir0 (copy0 1 [])).copyAt s.tick.count).isSome = true
    ∧ s.stopAt 3 = none
    ∧ (b.live = true ∧ b.curHdr.kind = 1 ∧ b.exchangeLost = false ∧ b.groupSizeOf 0 = 1024
        ∧ b.scoreCons 0 0 = some ⟨⟨5, 1, 0, 0, 0, 1024, 0, 1⟩, 0x21, true, false, false, true, []⟩)
    ∧ (∃ x ∈ b.tick.stops, b.stopAt 0 = some x ∧ x.ended = false ∧ 0 ∉ x.judged ∧ x.plan.probe = [0] ∧ x.plan.gone = [] ∧ x.plan.exitPt = some 0)
    ∧ (b.resolveKind (b.exitHandle 0 0) b.tick.count 2).isSome = true := by decide +kernel
theorem test_routing : let t := after (.routingPlacement 0 0) routing
    ((t.tick.recs.map fun r => (r.stop, r.row, r.tenant, r.mode, r.k)), (t.tick.stops.map (·.placed)), after (.routingPlacement 0 1) routing == routing)
      = ([(0, 0, 7, 2, 1)], [[0]], true) := by
  decide +kernel
/-- R193: the probe rows of a group whose scores are back are judged. -/
theorem test_probe : let t := after (.routingPlacement 0 0) probing; (t.tick.stops.map fun x => (x.judged, x.confs.map (·.1), x.placed)) = [([0], [0], [])] := by
  decide +kernel
/-- A HEAD tick of stop 0 with one head row, its gather returned with candidate token 42 of value 1.0. -/
def gathered1 : Consign :=
  ⟨⟨6, 2, 0, 0, 0, 1024, 0, 3⟩, 0x22, true, false, false, true,
    [(0, 0, BitVec.ofNat 2048 (packN [(0, 32, 0x3F800000), (32, 32, 42)])), (0, 1, 0), (0, 2, BitVec.ofNat 2048 (packN [(0, 32, 0x3F800000), (32, 32, 0x3F800000)]))]⟩
def heading : State :=
  let s := requested (req 2 .prefill) (stopped (ticking up))
  let s := tck (fun k => { k with cur := some (tt ⟨2, 0, 0, 1⟩ [] [0]), stops := k.stops.map (fun x => { x with plan := plan0 [0] }), cons := [gathered1] }) s
  { s with lines := s.lines.set 0 { s.line 0 with rows := [⟨2, mkReqTag 1 2, 5, 3, 0, false, true, true, 0, false, 7⟩] } }
theorem wit_HeadsDecided : let s := heading
    (s.live = true ∧ s.tick.active = true ∧ s.curHdr.kind = 2 ∧ s.pos = 0 ∧ (s.planOf 0).isSome = true ∧ (s.stopAt 0).isSome = true ∧ s.standing = false)
    ∧ (∀ x ∈ s.tick.stops, s.planOf 0 = some x.plan ∧ s.stopAt 0 = some x ∧ x.ended = false ∧ (2, [0]) ∈ s.headReqs x ∧ s.gatherOf x 0 = some gathered1)
    ∧ s.reqAt 2 = some (req 2 .prefill) ∧ 2 ∉ s.tick.decided ∧ gathered1.done = true ∧ (rset 0x2020 0x10 s).pos ≠ 0
    ∧ (s.tick.tokWant = false ∧ s.finals = [] ∧ s.writes = []) := by decide +kernel
/-- A write of the ring's PROD holds the header's read back (R529). -/
theorem wit_HeadsDecided_held : let s := { heading with writes := [⟨8, .prod, 0x8000, [1, 0, 0, 0], [], true, false, 16⟩] }
    (∀ x ∈ s.tick.stops, ∃ h ∈ s.headReqs x, ∃ q w, s.reqAt h.1 = some q ∧ w ∈ s.writes ∧ w.kind = .prod ∧ w.addr = q.ringBase.toNat)
      ∧ after (.ringHeaderRead []) s = s.begin := by
  refine ⟨?_, by decide +kernel⟩
  intro x hx
  refine ⟨(2, [0]), ?_, req 2 .prefill, ⟨8, .prod, 0x8000, [1, 0, 0, 0], [], true, false, 16⟩, by decide +kernel, .head _, rfl, by decide +kernel⟩
  revert x; decide +kernel
/-- R371, R375: the greedy choice is the greatest candidate; the position advances by one token. -/
theorem test_head_decision : let t := after (.headDecision 90 0) heading
    ((t.reqAt 2).map fun q => (q.st, q.pos, q.lastTok, q.hist)) = some (.decode, 4, 42, [42]) := by decide +kernel
/-- R382: no header, no room; a header with PROD 9 and CONS 9 leaves room. -/
theorem test_ring_header : let h : DescBytes := BitVec.ofNat 512 (packN [(0, 32, 9), (256, 32, 9)])
    (((after (.ringHeaderRead []) heading).reqAt 2).map (·.noRoom), ((after (.ringHeaderRead [(2, 0)]) heading).reqAt 2).map (·.noRoom), h == 0)
      = (some true, some false, false) := by decide +kernel
/-- Line 0 after its HEAD tick 4, its boundary due. -/
def dueLine (s : State) : State := { s with lines := s.lines.set 0 { s.line 0 with boundary := true, headTick := 4, step := 8, started := true } }
theorem wit_StepBoundaries : let s := dueLine (requested { req 2 .decode with endP := true } up)
    (s.live = true ∧ s.boundaryReady 0 = true ∧ s.tick.active = false ∧ s.tick.pinStop = none ∧ s.tick.shut = []) ∧ up.boundaryReady 0 = false := by decide +kernel
/-- R409, R411: the request that had ended leaves, the manifest is of the next step. -/
theorem test_step_boundary : let t := after (.stepBoundary 0 []) (dueLine (requested { req 2 .decode with endP := true } up))
    (t.reqs, (t.line 0).step, (t.line 0).manTick, (t.line 0).boundary, t.cntVal .kvStall) = ([], 9, 4, false, 0) := by decide +kernel
/-- A paused request whose time has come at tick 1. -/
def expired : Req := { req 2 .paused with ttlAt := some 1 }
theorem wit_FabricTransactions_page : let q := { req 2 .paused with pages := [(false, 11)], moves := [(0, 44)] }
    let m := { requested q up with reads := [rd (.pageMove 2 0) 1] }
    m.live = true ∧ m.reads.find? (fun x => decide (x.id ≤ 9 ∧ 9 < x.id + x.requests)) = some (rd (.pageMove 2 0) 1)
      ∧ (rd (.pageMove 2 0) 1).flits.length + 1 = ceilDiv 1 4 ∧ m.reqAt 2 = some q
      ∧ q.moves.find? (fun m => m.1 = 0) = some (0, 44) ∧ q.pages[0]? = some (false, 11) := by decide +kernel
/-- A page move whose page has been read. -/
def come : FmRead := { rd (.pageMove 2 0) 1 with flits := [(0, 0)] }
/-- The header of a token ring: PROD 5 and CONS as given, in the request ring's 16 slots. -/
def ringHdr (cons : Nat) : DescBytes := BitVec.ofNat 512 (packN [(0, 32, 5), (64, 32, cons)])
/-- The record of an expired request waits for its ring's header. -/
def lateFinal : FinalRec := ⟨mkReqTag 1 2, 0x31, 1, 0x8000, 4, 0, true⟩
def expiring (s : State) : State := { s with finals := [lateFinal] }
theorem wit_RequestsExpireAndMove : let s := requested expired up
    let m := { requested { req 2 .paused with pages := [(false, 11)], moves := [(0, 44)] } up with reads := [come] }
    (s.live = true ∧ s.reqAt 2 = some expired ∧ expired.expires 1 = true ∧ 1 ≤ s.tick.count + 1 ∧ s.pos = 0 ∧ s.finals.length < 4096)
    ∧ (expired.expires 0 = false ∧ s.tick.count + 1 < 2)
    ∧ (m.reads.find? (fun y => y.kind == RKind.pageMove 2 0 && !y.failed && y.whole) = some come ∧ (m.reqAt 2).isSome = true ∧ m.writes = []
        ∧ m.paused = false ∧ m.manifestHeld = false ∧ m.shareMay true false = true ∧ (pow (fun p => { p with droop := true }) m).paused = true
        ∧ ([(0, 44)] : List (Nat × Nat)).find? (fun y => y.1 = 0) = some (0, 44) ∧ ([(false, 11)] : List (Bool × Nat))[0]? = some (false, 11))
    ∧ (up.reqAt 2 = none ∧ (∀ y ∈ [rd (.pageMove 2 0) 1], y.whole = false)) := by decide +kernel
theorem wit_RequestsExpireAndMove_ring : let s := expiring up
    (s.live = true ∧ lateFinal.asked = true ∧ s.reqAt (tagSlot lateFinal.tag) = none ∧ s.tick.active = false
      ∧ tagSlot lateFinal.tag = 2 ∧ s.writes = [])
    ∧ (ringHdrOf (ringHdr 5)).room 4 1 = true ∧ (ringHdrOf (ringHdr (2 ^ 32 - 11))).room 4 1 = false := by decide +kernel
/-- R408: the record of an expired request is written where its ring has room, and the PROD after it. -/
theorem test_expired_record : let t := after (.ringHeaderRead [(2, ringHdr 5)]) (expiring up)
    (t.finals, t.writes.map (fun w => (w.kind, w.addr))) = ([], [(.tokenRecord 2, 0x8090), (.prod, 0x8000)])
    ∧ (after (.ringHeaderRead [(2, ringHdr (2 ^ 32 - 11))]) (expiring up)).finals = [{ lateFinal with asked := false }] := by decide +kernel
theorem test_ttl : let t := after (.ttlExpiry 2 1) (requested expired up)
    (t.reqs, t.finals.map fun f => (f.tag, f.status)) = ([], [(mkReqTag 1 2, 0x31)]) ∧ (after (.ttlExpiry 2 2) (requested expired up)).reqs = [expired] := by
  decide +kernel
theorem test_page_move : let m := { requested { req 2 .paused with pages := [(false, 11)], moves := [(0, 44)] } up with reads := [come] }
    ((after (.pageMoveLanded 2 0) m).reqAt 2).map (fun q => (q.pages, q.moves)) = some ([(true, 44)], []) := by decide +kernel

/-! Shunting. -/

/-- A run of slot 4's copy, moving to a place in another tier. -/
def run0 (moving : Bool) : TRun := ⟨4 * 2 ^ 30 + 1280, 0x100, 2, moving, 3, some 0x200, 1, moving, false⟩
def mapped (moving : Bool) (s : State) : State := { s with tmap := [run0 moving] }
/-- The wagon at the run's start. -/
def w0 : Nat := 4 * 2 ^ 30 + 1280
theorem wit_Remaps : let s := mapped true (owning (copy0 0 []) up)
    let c := { s with dirs := [{ dir0 (copy0 0 []) with conv := some 1 }] }
    let done := { c with tmap := [{ run0 false with built := true }] }
    let may (s : State) (r : TRun) := r.moving = true ∧ r.built = false ∧ s.landMay (decide (2 ≤ r.src ∨ 2 ≤ r.tier)) (decide (r.src = 1 ∨ r.tier = 1)) = true
    (s.live = true ∧ s.tmap.find? (fun r => r.addr = w0) = some (run0 true) ∧ s.ownerOf w0 = some (dir0 (copy0 0 []), copy0 0 [])
      ∧ may s (run0 true) ∧ (dir0 (copy0 0 [])).poisoned = false ∧ (dir0 (copy0 0 [])).conv = none ∧ (run0 true).tier ≠ 0 ∧ ¬ may s (run0 false))
    ∧ (c.tmap.find? (fun r => r.addr = w0) = some (run0 true) ∧ (c.ownerOf w0).map (fun y => (y.1.conv, y.1.poisoned)) = some (some 1, false) ∧ may c (run0 true))
    ∧ (let f := { s with frames := [⟨0, 0, 0, w0, 1, some 0, 0, 1, 0x100, 0⟩] }; ∃ x ∈ f.frames, x.group.isSome = true ∧ x.tier = (run0 true).src ∧ x.loc = (run0 true).loc)
    ∧ (done.live = true ∧ (done.dirAt 4).map (fun d => (d.conv, d.poisoned)) = some (some 1, false) ∧ done.tick.active = false ∧ (∀ r ∈ done.tmap, r.built = true)
        ∧ done.copyNonfinite 4 (copy0 0 []) = false ∧ done.builtAhead = none)
    ∧ (ticking done).tick.active = true ∧ (∃ r ∈ c.tmap, ofCopy (dir0 (copy0 0 [])) (copy0 0 []) r = true ∧ r.built = false)
    ∧ (let b := { s with reads := [rd (.writeBack w0) 68] }; b.live = true ∧ b.reads.find? (fun x => x.kind == RKind.writeBack w0) = some (rd (.writeBack w0) 68)
        ∧ (rd (.writeBack w0) 68).again = false ∧ b.mayLand (rd (.writeBack w0) 68) w0 = true
        ∧ b.mayLand { rd (.writeBack w0) 68 with failed := true } w0 = false) ∧ s.reads = [] := by decide +kernel
/-- R289: a copy with a non-finite value, a bf16 infinity in its first wagon, keeps its format. -/
def copyInf : Copy := { copy0 0 [] with parts := [⟨12, 0, 1, 32, 32, 0, 4, 4, 0, 0, 0, 0, false⟩] }
def infinite : State := { up with dirs := [{ dir0 copyInf with conv := some 1 }], adMem := [(w0, 0x80), (w0 + 1, 0x7F)] }
theorem infinite_nonfinite : infinite.copyNonfinite 4 copyInf = true :=
  List.any_eq_true.2 ⟨_, .head _, List.any_eq_true.2 ⟨0, by decide +kernel, List.any_eq_true.2 ⟨0, by decide +kernel,
    List.any_eq_true.2 ⟨0, by decide +kernel, by decide +kernel⟩⟩⟩⟩
theorem wit_Remaps_nonfinite : (infinite.live = true ∧ (infinite.dirAt 4).map (fun d => (d.cur, d.conv, d.poisoned)) = some (some copyInf, some 1, false)
    ∧ infinite.tick.active = false ∧ infinite.tmap = []) ∧ infinite.copyNonfinite 4 copyInf = true := ⟨by decide +kernel, infinite_nonfinite⟩
theorem test_run_move : ((after (.runMoveRemap w0) (mapped true (owning (copy0 0 []) up))).tmap.map fun r => (r.loc, r.src, r.dest, r.moving)) = [(0x200, 2, none, false)]
    ∧ ((after (.runMoveRemap w0) (mapped false (owning (copy0 0 []) up))).tmap) = [run0 false] := by decide +kernel
theorem test_conversion : let s := { up with dirs := [{ dir0 (copy0 0 []) with conv := some 1 }], tmap := [{ run0 false with built := true }] }
    ((after (.conversionRemap 4) s).dirAt 4).map (fun d => (d.conv, d.cur.map (·.fmt))) = some (none, some 1)
    ∧ ((after (.conversionRemap 4) (ticking s)).dirAt 4).map (·.conv) = some (some 1) := by decide +kernel
theorem test_write_back : let s := { mapped false (owning (copy0 0 []) up) with reads := [rd (.writeBack w0) 68] }
    let t := after (.writeBackLanded w0) s
    (t.tmap.map (·.dirty), t.reads) = ([2#16], []) := by decide +kernel
theorem wit_BadReadsCounted : let s := mapped false (owning (copy0 0 []) up)
    let a := w0 + 2 * 4352
    let f : Frame := ⟨3, 1, 7, a, 1, none, 2, 1, 0x100, 0⟩
    let g := { s with frames := [f] }
    (s.live = true ∧ s.dirAt (slotOf w0) = some (dir0 (copy0 0 [])) ∧ (dir0 (copy0 0 [])).poisoned = false ∧ s.trainErr[3]? = some (0, 0))
    ∧ s.dirtyAt w0 = true ∧ s.dirtyAt a = false ∧ g.dirtyAt a = false
    ∧ (g.frames.find? (fun f => f.train = 3 && f.addr % oldSpace = a) = some f ∧ g.frames.Nodup ∧ g.frameFails a < 2) := by decide +kernel
/-- R531: a wagon that has failed three times already, of an object that stands in the directory. -/
theorem wit_FabricTransactions_wagon : let s := { owning (copy0 0 []) up with reads := [{ rd (.wagon w0) 68 with tries := 3 }] }
    s.live = true ∧ s.reads.find? (fun x => x.id = 9) = some { rd (.wagon w0) 68 with tries := 3 } ∧ s.dirAt (slotOf w0) = some (dir0 (copy0 0 []))
      ∧ (after (.fmReadError 9) s).dirs.map (·.poisoned) = [true] := by decide +kernel
/-- R303: two re-reads are counted; three that fail poison the object. -/
theorem test_crc_mismatch : let s := owning (copy0 0 []) up
    let a := after (.depotCrcMismatch w0 true 3 2 true) s
    let b := after (.depotCrcMismatch w0 false 3 3 false) s
    ((a.cntVal .wagonReread, a.trainErr.getD 3 (9, 9), a.err .poisoned), (b.cntVal .depotReread, (b.dirAt 4).map (·.poisoned), b.cntVal .poisoned))
      = ((2, (0, 2), false), (3, some true, 1)) := by decide +kernel
theorem test_parity : let s := mapped false (owning (copy0 0 []) up)
    let g := { s with frames := [⟨3, 1, 7, w0 + 2 * 4352, 1, none, 2, 1, 0x100, 0⟩] }
    let c := after (.platformParityError (w0 + 2 * 4352) 3 false) g
    ((c.cntVal .parityRefetch, c.err .platformParity, c.trainErr.getD 3 (9, 9)), c.tick.run.groups, c.frames.map (·.group),
      ((after (.platformParityError w0 3 false) s).dirAt 4).map (·.poisoned)) = ((1, true, (1, 0)), [2], [some 2], some true) := by decide +kernel

/-! Descriptors. -/

/-- The facts of a command that meets its descriptor. -/
theorem facing_of (i : Instr) (b : DescBytes) (s : State) (f : DescBytes → Bool) (hl : s.live = true) (hf : descForm i = some f)
    (hb : f b = true) (hg : (fac b s).generalCheck b = none) : Facing (fac b s) i (tkn 1 b) :=
  ⟨hl, rfl, ⟨f, hf, hb⟩, hg⟩
/-- A handle of slot 4, TAG 3. -/
def h4 : Nat := 3 * 2 ^ 18 + 4
theorem wit_GeneralChecks : let b := dsc 0x23 []
    descForm .setQuota = some (fun b => decide (opcodeOf b = 0x23)) ∧ (fac b up).live = true ∧ (fac b up).front = some (tkn 1 b) ∧ opcodeOf b = 0x23
    ∧ (fac b { up with negot := [0, 0, 0, 0] }).generalCheck b = some (ans 0x40 1) ∧ (fac b up).generalCheck b = none
    ∧ (fac b { up with negot := [2, 3, 3, 3] }).generalCheck b = some (ans 0x40 1)
    ∧ (fac (dsc 0x30 []) up).generalCheck (dsc 0x30 []) = some (ans 0x40 2)
    ∧ (fac b (up.setErr .groupMismatch)).generalCheck b = some (ans 0x16 0) ∧ (fac b { up with engine := .quiescing }).generalCheck b = some (ans 0x17 0)
    ∧ (let q := dsc 0x20 [(12, 0, 16, 7)]; (fac q { up with tenants := [⟨7, [none, none, none, none], .quiesced⟩] }).generalCheck q = some (ans 0x17 0))
    ∧ opcodeOf (dsc 0 []) ≠ 0x23 := by
  refine ⟨rfl, ?_⟩; decide +kernel
theorem wit_GeneralChecks_inputs : (descForm .nop).isSome = true
    ∧ ∃ t, exec .nop { up with inputs := some up.nowInputs } = .next t ∧ t.inputs = some up.nowInputs := ⟨rfl, _, rfl, rfl⟩
theorem wit_VersionsNegotiated : let n (m : Nat) := dsc 1 [(8, 0, 16, m), (10, 0, 16, 4), (12, 0, 16, 4), (14, 0, 16, 4)]
    Facing (fac (dsc 0 []) up) .nop (tkn 1 (dsc 0 [])) ∧ Facing (fac (n 6) quiet) .negotiate (tkn 1 (n 6))
    ∧ ((List.range 4).all fun i => (List.range 16).any fun v => (ownMasks.getD i 0).testBit v && (dF (n 6) (8 + 2 * i) 0 16).testBit v) = true
    ∧ (dF (n 0) 8 0 16 = 0)
    ∧ Facing { fac (n 6) quiet with taken := [tkn 0 (n 6)] } .negotiate (tkn 0 (n 6)) :=
  ⟨facing_of _ _ _ _ (by decide) rfl (by decide +kernel) (by decide +kernel), facing_of _ _ _ _ (by decide) rfl (by decide +kernel) (by decide +kernel),
    by decide +kernel, by decide +kernel, by decide, rfl, ⟨_, rfl, by decide +kernel⟩, by decide +kernel⟩
theorem test_nop : let t := after .nop (fac (dsc 0 []) up); (answerOn 1 t, t.taken) = (some (0, 0), []) := by decide +kernel
/-- R478, R479: the greatest common versions; R479: an interface without one; elsewhere than ring 0. -/
theorem test_negotiate : let n (a : Nat) := dsc 1 [(8, 0, 16, a), (10, 0, 16, 4), (12, 0, 16, 4), (14, 0, 16, 4)]
    let s (a : Nat) := { quiet with taken := [tkn 0 (n a)] }
    ((after .negotiate (s 6)).negot, answerOn 0 (after .negotiate (s 6)), answerOn 0 (after .negotiate (s 0)), (after .negotiate (s 0)).negot,
      answerOn 1 (after .negotiate (fac (n 6) quiet))) = ([2, 2, 2, 2], some (0, 0), some (0x40, 1), [3, 2, 2, 2], some (0x40, 0x80)) := by decide +kernel
/-- An OPEN_REQUEST of `n` prompt tokens for tenant 7 with a block of zeros. -/
def openD (n crc : Nat) : DescBytes := dsc 0x10 [(12, 0, 16, 7), (20, 0, 32, n), (24, 0, 32, 5), (28, 0, 32, crc)]
theorem crc32c_run (bs : List Byte) : crc32c bs = BitVec.ofNat 32 (crcRun 0xFFFFFFFF bs ^^^ 0xFFFFFFFF) := rfl
theorem param_crc : crc32c (bvBytes (0 : BitVec 1024)) = 136799451 := by
  have hz : bvBytes (0 : BitVec 1024) = List.replicate 32 0 ++ List.replicate 32 0 ++ List.replicate 32 0 ++ List.replicate 32 0 := by decide +kernel
  rw [crc32c_run, hz]
  simp only [crcRun_append]
  rw [show crcRun 0xFFFFFFFF (List.replicate 32 0) = 1970194773 from by decide +kernel,
    show crcRun 1970194773 (List.replicate 32 0) = 4231468184 from by decide +kernel,
    show crcRun 4231468184 (List.replicate 32 0) = 2920151892 from by decide +kernel,
    show crcRun 2920151892 (List.replicate 32 0) = 4158167844 from by decide +kernel]
  decide
theorem wit_RequestsOpened : let b := openD 3 136799451
    Facing (fac b up) (.openRequest (some 0)) (tkn 1 b) ∧ dF b 40 0 64 % 64 = 0 ∧ crc32c (bvBytes (0 : BitVec 1024)) = BitVec.ofNat 32 (dF b 28 0 32)
    ∧ (dF b 20 0 32 ≠ 0 ∧ dF b 20 0 32 ≤ up.ctxLimit - 5) ∧ dF b 32 0 64 % 64 = 0 ∧ (fac b up).reqs.length < 4096
    ∧ (Facing (fac (openD 0 136799451) up) (.openRequest (some 0)) (tkn 1 (openD 0 136799451)) ∧ dF (openD 0 136799451) 20 0 32 = 0)
    ∧ (Facing (fac (openD 3 0) up) (.openRequest none) (tkn 1 (openD 3 0)) ∧ (136799451 : Word) ≠ BitVec.ofNat 32 (dF (openD 3 0) 28 0 32))
    ∧ (let c := dsc 0x10 [(40, 0, 64, 32)]; Facing (fac c up) (.openRequest none) (tkn 1 c) ∧ dF c 40 0 64 % 64 ≠ 0) := by
  refine ⟨facing_of _ _ _ _ (by decide) rfl (by decide +kernel) (by decide +kernel), by decide +kernel, ?_, by decide +kernel, by decide +kernel, by decide,
    ⟨facing_of _ _ _ _ (by decide) rfl (by decide +kernel) (by decide +kernel), by decide +kernel⟩,
    ⟨facing_of _ _ _ _ (by decide) rfl (by decide +kernel) (by decide +kernel), by decide +kernel⟩,
    facing_of _ _ _ _ (by decide) rfl (by decide +kernel) (by decide +kernel), by decide +kernel⟩
  rw [param_crc]; decide +kernel
theorem test_open_refused : (answerOn 1 (after (.openRequest none) (fac (openD 3 0) up)),
    answerOn 1 (after (.openRequest none) (fac (dsc 0x10 [(40, 0, 64, 32)]) up))) = (some (0x18, 18), some (0x18, 17)) := by decide +kernel
/-- A descriptor that names slot 2's request, and one of an old generation. -/
def onReq (op : Nat) (fs : List (Nat × Nat × Nat × Nat)) : DescBytes := dsc op ((8, 0, 32, 4096 + 2) :: fs)
theorem wit_RequestsCommanded : let s := requested (req 2 .decode) up
    let p := requested (req 2 .paused) up
    let f (i : Instr) (op : Nat) (s : State) := Facing (fac (onReq op []) s) i (tkn 1 (onReq op []))
    (f .cancel 0x11 s ∧ f .pause 0x12 s ∧ f .resume 0x13 p ∧ f .setSampling 0x14 s) ∧ s.reqOf (word8 (onReq 0x11 [])) = some (req 2 .decode)
    ∧ (req 2 .decode).cancelP = false ∧ ((req 2 .decode).st.active = true ∧ (req 2 .decode).pauseP = false) ∧ ((req 2 .paused).resumeP = false)
    ∧ p.reqOf (word8 (onReq 0x13 [])) = some (req 2 .paused) ∧ up.reqOf (word8 (onReq 0x11 [])) = none
    ∧ (let b := dsc 0x26 [(8, 0, 1, 1), (12, 0, 32, 4096 + 2)]; Facing (fac b s) .adaptEnableRequest (tkn 1 b) ∧ s.reqOf (word12 b) = some (req 2 .decode)) := by
  refine ⟨⟨?_, ?_, ?_, ?_⟩, by decide +kernel, rfl, ⟨rfl, rfl⟩, rfl, by decide +kernel, by decide +kernel, ?_, by decide +kernel⟩
  all_goals exact facing_of _ _ _ _ (by decide) rfl (by decide +kernel) (by decide +kernel)
theorem test_cancel : let t := after .cancel (fac (onReq 0x11 []) (requested (req 2 .decode) up))
    (((t.reqAt 2).map fun q => (q.cancelP, q.cancelAt)), answerOn 1 t, answerOn 1 (after .cancel (fac (onReq 0x11 []) up)))
      = (some (true, some 9), some (0, 0), some (0x15, 0)) := by decide +kernel
theorem test_pause : let t := after .pause (fac (onReq 0x12 [(12, 0, 32, 60)]) (requested (req 2 .decode) up))
    (((t.reqAt 2).map fun q => (q.pauseP, q.ttl)), (t.taken.map (·.pend)), answerOn 1 (after .pause (fac (onReq 0x12 []) (requested (req 2 .paused) up))))
      = (some (true, 60), [.pause 2], some (0x13, 0)) := by decide +kernel
theorem test_resume : let t := after .resume (fac (onReq 0x13 []) (requested (req 2 .paused) up))
    let w := after .resume (fac (onReq 0x13 []) (requested { req 2 .decode with pauseP := true } up))
    (((t.reqAt 2).map (·.resumeP)), (t.taken.map (·.pend)), ((w.reqAt 2).map (·.pauseP)), answerOn 1 w) = (some true, [.resume 2], some false, some (0, 0)) := by
  decide +kernel
theorem test_set_sampling : let t := after .setSampling (fac (onReq 0x14 [(16, 0, 32, 0x3F800000)]) (requested (req 2 .decode) up))
    (((t.reqAt 2).map fun q => q.samp.temp), answerOn 1 t) = (some 0x3F800000, some (0, 0)) := by decide +kernel
theorem test_adapt_request : let t := after .adaptEnableRequest (fac (dsc 0x26 [(8, 0, 1, 1), (12, 0, 32, 4098), (16, 0, 1, 1), (17, 0, 4, 5)]) (requested (req 2 .decode) up))
    ((t.reqAt 2).map fun q => (q.adapt, q.trainMask)) = some (true, 5) := by decide +kernel
/-- An ENABLE (2) or QUIESCE (3) of a scope. -/
def scp (op scope target : Nat) : DescBytes := dsc op [(8, 0, 2, scope), (10, 0, 16, target)]
/-- Ports 0 to 3 UP. -/
def ported (s : State) : State := linkUp 0 (linkUp 1 (linkUp 2 (linkUp 3 s)))
theorem wit_Scopes : let f (i : Instr) (op scope target : Nat) (s : State) := Facing (fac (scp op scope target) s) i (tkn 1 (scp op scope target))
    let tr (st : Scope) := { up with trains := up.trains.set 3 (st, 0) }
    (f (.enableEngine []) 2 0 0 quiet ∧ f .enableRing 2 1 3 up ∧ f .enableTenant 2 2 7 up ∧ f .enableTrain 2 3 3 (tr .quiesced))
    ∧ (f .quiesceEngine 3 0 0 up ∧ f .quiesceRing 3 1 3 up ∧ f .quiesceTenant 3 2 7 up ∧ f .quiesceTrain 3 3 3 up)
    ∧ (scopeIdOf (scp 2 1 0) = .ring 0 ∧ up.scopeSt (.ring 0) = none) ∧ (scopeIdOf (scp 2 3 3) = .train 3 ∧ up.scopeSt (.train 3) = some .enabled)
    ∧ ((tr .held).scopeSt (.train 3) = some .held ∧ (tr .quiescing).scopeSt (.train 3) = some .quiescing ∧ (tr .quiesced).scopeSt (.train 3) = some .quiesced
        ∧ (tr .held).trains.length = 32)
    ∧ (quiet.engine = .quiesced ∧ quiet.engineRefused = true ∧ (ported quiet).engineRefused = false ∧ (quiet.line 0).started = false)
    ∧ (up.scopeSt .engine = some .enabled ∧ up.awaitsAck = false ∧ up.tick.active = false ∧ ∀ d ∈ up.dirs, d.prior = none) := by
  refine ⟨⟨?_, ?_, ?_, ?_⟩, ⟨?_, ?_, ?_, ?_⟩, by decide +kernel, by decide +kernel, by decide +kernel, by decide +kernel, by decide +kernel⟩
  all_goals exact facing_of _ _ _ _ (by decide) rfl (by decide +kernel) (by decide +kernel)
theorem wit_Scopes_lone : Lone (fac (scp 3 3 3) up) (tkn 1 (scp 3 3 3)) := by
  intro x hx _ _; simpa [fac] using hx
/-- The QUIESCE of a scope that waits. -/
def waits (p : Pend) (s : State) : State := { s with taken := [tkn 1 (scp 3 3 3) p] }
theorem wit_Scopes_drain : let tr (st : Scope) := waits (.quiesce (.train 3)) (tck (fun k => { k with count := 5 }) { up with trains := up.trains.set 3 (st, 0) })
    let en := waits (.quiesce .engine) { up with engine := .quiescing }
    ((tr .quiescing).live = true ∧ (tr .quiescing).tick.active = false ∧ (tr .quiescing).trains.length = 32
      ∧ (tr .quiescing).scopeSt (.train 3) = some .quiescing ∧ (tr .quiescing).drainMet (.train 3) = true)
    ∧ ((tr .held).scopeSt (.train 3) = some .held ∧ (tr .held).drainMet (.train 3) = true) ∧ (tr .enabled).scopeSt (.train 3) = some .enabled
    ∧ (en.scopeSt .engine = some .quiescing ∧ en.drainMet .engine = true ∧ en.logBase = 0 ∧ ∃ x ∈ en.taken, x.pend = .quiesce .engine) := by decide +kernel
theorem wit_Scopes_drain_lone : ∀ x ∈ (waits (.quiesce (.train 3)) up).taken, Lone (waits (.quiesce (.train 3)) up) x := by
  intro x hx y hy _ _; simp_all [waits]
theorem test_enable_engine : let s := fac (scp 2 0 0) (ported quiet)
    let t := after (.enableEngine []) s
    ((t.engine, answerOn 1 t, (t.line 0).started), answerOn 1 (after (.enableEngine []) (fac (scp 2 0 0) quiet)), answerOn 1 (after (.enableEngine []) (fac (scp 2 0 0) up)))
      = ((.enabled, some (0, 0), true), some (0x13, 0), some (0, 0)) := by decide +kernel
theorem test_enable_ring : let q := { up with rings := up.rings.set 3 { up.ring 3 with st := .quiesced } }
    let t := after .enableRing (fac (scp 2 1 3) q); ((t.ring 3).st, answerOn 1 t, answerOn 1 (after .enableRing (fac (scp 2 1 0) up))) = (.enabled, some (0, 0), some (0x13, 0)) := by
  decide +kernel
theorem test_enable_tenant : let t := after .enableTenant (fac (scp 2 2 7) { up with tenants := [⟨7, [none, none, none, none], .quiescing⟩] })
    ((t.tenant 7).st, t.taken.map (·.pend)) = (.held, [.enable (.tenant 7)]) := by decide +kernel
theorem test_enable_train : let t := after .enableTrain (fac (scp 2 3 3) { up with trains := up.trains.set 3 (.quiesced, 0) })
    (t.trainSt 3, answerOn 1 t) = (.enabled, some (0, 0)) := by decide +kernel
/-- R480: with nothing else outstanding the engine drains once its QUIESCE alone waits. -/
theorem test_quiesce_engine : let t := after .quiesceEngine (fac (scp 3 0 0) up); (t.engine, t.taken.map (·.pend)) = (.quiescing, [.quiesce .engine]) := by decide +kernel
theorem test_quiesce_ring : let t := after .quiesceRing (fac (scp 3 1 3) up); ((t.ring 3).st, t.taken.map (·.pend)) = (.quiescing, [.quiesce (.ring 3)]) := by decide +kernel
theorem test_quiesce_tenant : let t := after .quiesceTenant (fac (scp 3 2 7) up)
    ((t.tenant 7).st, answerOn 1 (after .quiesceTenant (fac (scp 3 2 7) { up with tenants := [⟨7, [none, none, none, none], .held⟩] }))) = (.quiescing, some (0x17, 0)) := by
  decide +kernel
theorem test_quiesce_train : let t := after .quiesceTrain (fac (scp 3 3 3) up)
    (t.trains[3]?, answerOn 1 (after .quiesceTrain (fac (scp 3 3 32) up))) = (some (.quiescing, 7), some (0x13, 0)) := by decide +kernel
theorem test_drain : let s := waits (.quiesce (.train 3)) (tck (fun k => { k with count := 5 }) { up with trains := up.trains.set 3 (.quiescing, 0) })
    let t := after (.quiesceDrainDone (.train 3)) s; (t.trainSt 3, answerOn 1 t) = (.quiesced, some (0, 0)) := by decide +kernel
/-- SNAPSHOTs. -/
def snapD (log dest limit : Nat) : DescBytes := dsc 4 [(8, 0, 1, log), (16, 0, 64, dest), (24, 0, 64, limit)]
def snap0 (limit : Nat) : Snap := ⟨1, 5, true, 0x10000, limit, 7, 0, 0, [], false, true, false⟩
def snapping (x : Snap) (s : State) : State := { s with taken := [tkn 1 (snapD 1 0x10000 0) .snapshot], snaps := [x] }
theorem wit_SnapshotsTaken : let f (i : Instr) (b : DescBytes) := Facing (fac b up) i (tkn 1 b)
    (f .snapshot (snapD 0 0x10000 9) ∧ f .snapshotLogbook (snapD 1 0x10000 9) ∧ dF (snapD 0 0x10000 9) 16 0 64 % 4096 = 0)
    ∧ (f .snapshot (snapD 0 0x10800 9) ∧ dF (snapD 0 0x10800 9) 16 0 64 % 4096 ≠ 0)
    ∧ (let s := snapping (snap0 0) up; s.live = true ∧ s.snaps = [snap0 0] ∧ (snap0 0).taken = false ∧ s.capturePoint (snap0 0) = true
        ∧ (snap0 0).limit < layoutSize (layout 4096 [(0x11, s.begin.logRecord 1)]) ∧ (s.taken.find? (snap0 0).of).isSome = true)
    ∧ (let s := snapping (snap0 0x10000) up; layoutSize (layout 4096 [(0x11, s.begin.logRecord 1)]) ≤ (snap0 0x10000).limit)
    ∧ (let x := { snap0 0x10000 with taken := true }; (snapping x up).snaps = [x] ∧ x.taken = true ∧ x.writes = []) := by
  refine ⟨⟨?_, ?_, by decide +kernel⟩, ⟨?_, by decide +kernel⟩, by decide +kernel, by decide +kernel, by decide⟩
  all_goals exact facing_of _ _ _ _ (by decide) rfl (by decide +kernel) (by decide +kernel)
theorem test_snapshot : let t := after .snapshot (fac (snapD 0 0x10000 9) up)
    (t.snaps.map (fun x => (x.dest, x.limit, x.logOnly)), t.taken.map (·.pend), answerOn 1 (after .snapshot (fac (snapD 0 0x10800 9) up)))
      = ([(0x10000, 9, false)], [.snapshot], some (0x18, 19)) := by decide +kernel
theorem test_snapshot_logbook : (after .snapshotLogbook (fac (snapD 1 0x10000 9) up)).snaps.map (·.logOnly) = [true] := by decide +kernel
/-- R604: header and directory take 4,096 bytes, the one section of 2,048 ends at 6,144, beyond a LIMIT of 6,143. -/
theorem test_capture_point : let t := after .snapshotCapturePoint (snapping (snap0 0) up); (t.snaps, statusOn 1 t) = ([], some 0x12) := by decide +kernel
theorem test_writes_done : let t := after .snapshotWritesDone (snapping { snap0 0 with taken := true, size := 6144, tick := 3 } up)
    (t.snaps, answerOn 1 t) = ([], some (0, 0)) := by decide +kernel

/-! The directory, tables, adaptation and special workings. -/

/-- LOAD_ADAPTER (0x20), TABLE_LOAD (0x24) or SWAP_ADAPTER (0x21) of slot 4's handle for tenant 7, landing 1. -/
def loadD (op base len : Nat) : DescBytes := dsc op [(8, 0, 32, h4), (12, 0, 16, 7), (14, 0, 3, 1), (16, 0, 64, base), (24, 0, 32, len)]
/-- The least image: an adapter of no part, its header alone. -/
def image0 : List Byte :=
  leBytes 4 0x41375849 ++ [1] ++ List.replicate 27 0 ++ leBytes 4 256 ++ leBytes 4 256 ++ List.replicate 216 0
/-- Slot 4 LOADING, its image's read at an end. -/
def loading (s : State) : State :=
  { s with dirs := [⟨4, BitVec.ofNat 32 h4, 7, .loading, none, none, 1, (0x40000, 256), false, false, 0, 0, 0, none, none, none, none, none, (0, []), none, none⟩]
           taken := [tkn 1 (loadD 0x20 0x40000 256) (.build 4)] }
theorem wit_Builds : let f (i : Instr) (b : DescBytes) (s : State) := Facing (fac b s) i (tkn 1 b)
    (f .loadAdapter (loadD 0x20 0x40000 256) up ∧ f .tableLoad (loadD 0x24 0x40000 256) up ∧ f .swapAdapterStage (loadD 0x21 0x40000 256) (owning (copy0 0 []) up))
    ∧ (hTag (word8 (loadD 0x20 0x40000 256)) ≠ 0 ∧ up.dirAt (hSlot (word8 (loadD 0x20 0x40000 256))) = none ∧ dF (loadD 0x20 0x40000 256) 16 0 64 % 64 = 0)
    ∧ dF (loadD 0x20 0x40001 256) 16 0 64 % 64 ≠ 0
    ∧ ((owning (copy0 0 []) up).dirOf (word8 (loadD 0x21 0x40000 256)) = some (dir0 (copy0 0 [])) ∧ (dir0 (copy0 0 [])).st = .installed)
    ∧ up.dirOf (word8 (loadD 0x21 0x40000 256)) = none := by
  refine ⟨⟨?_, ?_, ?_⟩, by decide +kernel, by decide +kernel, by decide +kernel, by decide +kernel⟩
  all_goals exact facing_of _ _ _ _ (by decide) rfl (by decide +kernel) (by decide +kernel)
theorem wit_Builds_end : let s := loading up
    let u (slot : Nat) : State := { s.begin with reads := s.reads.filter fun (r : FmRead) => r.kind != RKind.image slot }
    (s.live = true ∧ (s.dirAt 4).isSome = true ∧ (s.building 4).isSome = true ∧ s.landMay true false = true ∧ ∀ y ∈ s.charges, y.slot = 4 → y.copy ≠ s.nextId)
    ∧ (∀ d ∈ s.dirs, d.next = none ∧ s.regionHeld d = false ∧ s.imageCheck image0 d.image.2 = none ∧ s.spaceCheck d image0 = none
      ∧ (s.landing d.tenant d.landing (s.costOf image0)).2 = none
      ∧ (((u 4).acceptCopy d image0 (s.landing d.tenant d.landing (s.costOf image0)).1).placeRegion 4 d.buildRegion).isSome = true) ∧ Memory.wf s.adMem
    ∧ (∀ d ∈ s.dirs, (s.imageCheck [] d.image.2).isSome = true) ∧ (∀ d ∈ s.dirs, (s.landing d.tenant 5 (s.costOf image0)).2.isSome = true)
    ∧ (pow (fun p => { p with droop := true }) s).landMay true false = false
    ∧ (let o := { s with tmap := [run0 false] }; ∀ d ∈ o.dirs, o.regionHeld d = true) := by decide +kernel
/-- A staged image of another kind than the copy in force fails check 8. -/
theorem wit_Builds_space : let g (d : Dir) : Dir := { d with st := .staging, cur := some (copy0 3 []) }
    let s : State := { loading up with dirs := (loading up).dirs.map g }
    ∀ d ∈ s.dirs, s.imageCheck image0 d.image.2 = none ∧ (s.spaceCheck d image0).isSome = true := by decide +kernel
/-- A tenant table of one row of zeros, and a block of one cluster whose every run is occupied by a conversion under way: the table is
charged, and waits for a place (R294). -/
def imageT : List Byte :=
  leBytes 4 0x41375849 ++ [1, 3] ++ List.replicate 26 0 ++ leBytes 4 256 ++ leBytes 4 2368 ++ List.replicate 8 0 ++ leBytes 4 1 ++ leBytes 2 2048
  ++ List.replicate 202 0 ++ List.replicate 2112 0
def crowded : State :=
  let s := loading { up with build := .ix128, fuses := List.range 127 }
  { s with dirs := s.dirs.map (fun d => { d with image := (0x40000, 2368) }) ++ [{ dir0 (copy0 0 []) with slot := 9, convRuns := (1, List.range 233) }] }
theorem wit_Builds_waits : let d := crowded.dirs.headD (dir0 (copy0 0 []))
    let l := crowded.landing d.tenant d.landing (crowded.costOf imageT)
    let u : State := { crowded.begin with reads := crowded.reads.filter fun (r : FmRead) => r.kind != RKind.image 4 }
    (crowded.live = true ∧ crowded.dirAt 4 = some d ∧ (crowded.building 4).isSome = true ∧ d.next = none ∧ crowded.regionHeld d = false
      ∧ crowded.landMay true false = true)
    ∧ crowded.imageCheck imageT d.image.2 = none ∧ crowded.spaceCheck d imageT = none ∧ l.2 = none
    ∧ ((u.acceptCopy d imageT l.1).placeRegion 4 d.buildRegion).isNone = true := by decide +kernel
theorem test_load : let t := after .loadAdapter (fac (loadD 0x20 0x40000 256) up)
    ((t.dirs.map fun d => (d.slot, d.handle, d.st)), (t.reads.map fun r => (r.kind, r.addr, r.units)), answerOn 1 (after .loadAdapter (fac (loadD 0x20 0x40001 256) up)))
      = ([(4, BitVec.ofNat 32 h4, .loading)], [(.image 4, 0x40000, 4)], some (0x13, 0)) := by decide +kernel
theorem test_table_load : (after .tableLoad (fac (loadD 0x24 0x40000 256) up)).dirs.map (fun d => (d.st, d.table)) = [(.loading, true)] := by decide +kernel
theorem test_stage : ((after .swapAdapterStage (fac (loadD 0x21 0x40000 256) (owning (copy0 0 []) up))).dirs.map fun d => (d.st, d.cur.isSome))
    = [(.staging, true)] := by decide +kernel
/-- R255, R213: the least image lands; an image that does not begin with the magic number fails check 1 with VERSION. -/
theorem test_build : let t := after (.loadBuildComplete 4 image0) (loading up)
    ((t.dirs.map (·.st)), answerOn 1 t, (after (.loadBuildComplete 4 [0]) (loading up)).dirs, answerOn 1 (after (.loadBuildComplete 4 [0]) (loading up)))
      = ([.stagedNew], some (0, 0), [], some (0x40, 0)) := by decide +kernel
/-- SWAP_ADAPTER with COMMIT 1, RETIRE_ADAPTER. -/
def commitD : DescBytes := dsc 0x21 [(8, 0, 32, h4), (15, 0, 1, 1)]
def retireD : DescBytes := dsc 0x22 [(8, 0, 32, h4)]
/-- Slot 4 STAGED-NEW. -/
def stagedNew (s : State) : State := { s with dirs := [{ dir0 (copy0 0 []) with st := .stagedNew, cur := none, next := some (copy0 0 []) }] }
/-- Slot 4 RELEASING from tick 1 on. -/
def releasing (s : State) : State :=
  { s with dirs := [{ dir0 (copy0 0 []) with st := .releasing, old := some (1, some (copy0 0 [])) }], taken := [tkn 1 retireD (.retire 4)] }
/-- Slot 4 STAGING while its second region still holds a former copy's run. -/
def held (s : State) : State :=
  { s with dirs := [{ dir0 (copy0 0 []) with st := .staging }], tmap := [{ run0 false with addr := w0 + 2 ^ 28 }]
           taken := [tkn 1 (loadD 0x21 0x40000 256) (.build 4)] }
theorem wit_CopiesComeAndGo : Facing (fac commitD (stagedNew up)) .swapAdapterCommit (tkn 1 commitD)
    ∧ Facing (fac retireD (owning (copy0 0 []) up)) .retireAdapter (tkn 1 retireD)
    ∧ ((stagedNew up).dirOf (word8 commitD)).map (fun d => (d.next, d.st)) = some (some (copy0 0 []), .stagedNew)
    ∧ (owning (copy0 0 []) up).dirOf (word8 commitD) = some (dir0 (copy0 0 [])) ∧ hTag (word8 retireD) ≠ 0
    ∧ (let s := releasing up; s.live = true ∧ (s.dirAt 4).isSome = true ∧ s.regionBusy 4 false = false ∧ s.regionBusy 4 true = false
        ∧ (∀ d ∈ s.dirs, d.st = .releasing ∧ s.stillServes d = false ∧ d.slot = 4))
    ∧ (let s := tck (fun k => { k with active := true }) (releasing up); ∀ d ∈ s.dirs, s.stillServes d = true)
    ∧ (let s := held up; s.live = true ∧ (s.dirAt 4).isSome = true ∧ (s.building 4).isSome = true ∧ (∀ d ∈ s.dirs, d.st = .staging ∧ d.next = none
        ∧ s.regionHeld d = true ∧ s.stillServes d = false ∧ s.regionBusy 4 d.buildRegion = false))
    ∧ (let s := { held up with reads := [rd (.wagon (w0 + 2 ^ 28)) 68] }; ∀ d ∈ s.dirs, s.regionBusy 4 d.buildRegion = true)
    ∧ (let b := dsc 0x23 [(8, 0, 16, 7), (10, 0, 5, 1), (12, 0, 32, 900)]; Facing (fac b up) .setQuota (tkn 1 b)) := by
  refine ⟨facing_of _ _ _ _ (by decide) rfl (by decide +kernel) (by decide +kernel), facing_of _ _ _ _ (by decide) rfl (by decide +kernel) (by decide +kernel),
    by decide +kernel, by decide +kernel, by decide +kernel, by decide +kernel, by decide +kernel, by decide +kernel, by decide +kernel,
    facing_of _ _ _ _ (by decide) rfl (by decide +kernel) (by decide +kernel)⟩
theorem wit_CopiesComeAndGo_moves : let s := { owning (copy0 0 []) up with tmap := [{ run0 false with due := true, dirty := 0 }] }
    s.live = true ∧ (s.dirAt 4).isSome = true ∧ (∃ r ∈ s.tmap, r.due = true) ∧ (∀ d ∈ s.dirs, d.st = .installed ∧ s.regionHeld d = false) := by decide +kernel
theorem wit_CopiesComeAndGo_lone : Lone (fac commitD (stagedNew up)) (tkn 1 commitD) := by intro x hx _ _; simpa [fac] using hx
theorem test_commit : let t := after .swapAdapterCommit (fac commitD (stagedNew up))
    ((t.dirs.map fun d => (d.st, d.cur.isSome, d.next.isSome, d.old.map (·.1))), t.taken.map (·.pend), answerOn 1 (after .swapAdapterCommit (fac commitD (owning (copy0 0 []) up))))
      = ([(.installed, true, false, some 8)], [.commit 4 8], some (0x13, 0)) := by decide +kernel
theorem test_retire : ((after .retireAdapter (fac retireD (owning (copy0 0 []) up))).dirs.map fun d => (d.st, d.old.map (·.1))) = [(.releasing, some 8)]
    ∧ answerOn 1 (after .retireAdapter (fac retireD up)) = some (0x13, 0) := by decide +kernel
theorem test_release : let t := after (.releaseComplete 4) (releasing up)
    let h := after (.releaseComplete 4) (held up)
    ((t.dirs, answerOn 1 t), h.tmap, h.reads.map (·.kind)) = (([], some (0, 0)), [], [.image 4]) := by decide +kernel
theorem test_quota : let t := after .setQuota (fac (dsc 0x23 [(8, 0, 16, 7), (10, 0, 5, 1), (12, 0, 32, 900)]) up)
    ((t.tenant 7).quota, answerOn 1 t) = ([some 900, none, none, none], some (0, 0)) := by decide +kernel
/-- A tenant table of two rows of 64 columns of int4, and an update of its row 1. -/
def trow : TRow := ⟨1, 2, 0, 0, 0, 0, false, false, true, 0, List.replicate 32 5, List.replicate 32 0⟩
def table (s : State) : State := owning { copy0 3 [trow, trow] with cols := 64 } s
def rowD (first count : Nat) : DescBytes := dsc 0x25 [(8, 0, 32, h4), (12, 0, 32, first), (16, 0, 32, count), (24, 0, 64, 0x3000)]
def updating (s : State) : State :=
  { table s with rowUps := [⟨1, 5, 4, 1, 1, 11, true, false⟩], taken := [tkn 1 (rowD 1 1) (.rows 4 1 1 11)] }
/-- The record: σ 9, z 3, int4, codes of 7. -/
def rowRec : List Byte := [9, 0, 3, 1, 0, 0, 0, 0] ++ List.replicate 56 7
theorem wit_RowsReplaced : Facing (fac (rowD 1 1) (table up)) .tableRowUpdate (tkn 1 (rowD 1 1))
    ∧ (let c := { copy0 3 [trow, trow] with cols := 64 }
      (table up).rowCheck (rowD 1 1) 7 = (none, some (dir0 c, c)) ∧ (dir0 c).cur = some c ∧ ((table up).rowCheck (rowD 1 2) 7).1 = some (ans 0x18 14)
        ∧ (recordOffsets c 1 1).1.find? (fun y => y.1 = 1) = some (1, 0) ∧ (table up).rowUps = [] ∧ (4, 1) ∉ (table up).flips)
    ∧ (∀ x ∈ (fac (rowD 1 1) (table up)).taken, x = tkn 1 (rowD 1 1))
    ∧ (let s := tck (fun k => { k with idle := false }) (updating up); s.live = true ∧ s.rowDescs.find? (fun t => t.ring = 1 && t.num.toNat = 5) = some (tkn 1 (rowD 1 1) (.rows 4 1 1 11))
        ∧ (s.dirAt 4).isSome = true ∧ (∃ u ∈ s.rowUps, u.ring = 1 ∧ u.num = 5 ∧ u.row = 1 ∧ u.started = true ∧ u.written = false)
        ∧ s.landMay true true = true ∧ s.landMay false true = true
        ∧ s.tick.idle = false) ∧ (pow (fun p => { p with droop := true }) (updating up)).landMay true true = false
    ∧ (rowRecOf rowRec 64 true).clean = true ∧ (rowRecOf rowRec 64 true).int4 = true ∧ (rowRecOf [9, 0, 3, 3] 64 true).clean = false
    ∧ up.dirAt 4 = none := by
  refine ⟨facing_of _ _ _ _ (by decide) rfl (by decide +kernel) (by decide +kernel), by decide +kernel, by decide +kernel, by decide +kernel, by decide +kernel,
    by decide +kernel, by decide +kernel, by decide +kernel, by decide +kernel⟩
/-- An update of tick 7 behind a commit of tick 7 is of the copy that the commit replaced. -/
theorem wit_RowsReplaced_committed : let c := { copy0 3 [trow, trow] with cols := 64 }
    let s : State := { up with dirs := [{ dir0 (copy0 3 []) with old := some (8, some c) }] }
    Facing (fac (rowD 1 1) s) .tableRowUpdate (tkn 1 (rowD 1 1)) ∧ (s.rowCheck (rowD 1 1) 7).2.map (·.2) = some c
      ∧ s.dirs.map (·.cur) ≠ [some c] :=
  ⟨facing_of _ _ _ _ (by decide) rfl (by decide +kernel) (by decide +kernel), by decide +kernel, by decide +kernel⟩
theorem test_row_update : let t := after .tableRowUpdate (fac (rowD 1 1) (table up))
    (t.rowUps.map (fun u => (u.row, u.due)), t.reads.map (fun r => r.addr), answerOn 1 (after .tableRowUpdate (fac (rowD 1 2) (table up))))
      = ([(1, 7)], [0x3000], some (0x18, 14)) := by decide +kernel
theorem test_row_written : let t := after (.rowUpdateWritten 1 5 rowRec) (tck (fun k => { k with idle := false }) (updating up))
    ((t.dirs.map fun d => d.cur.map fun c => c.rows.map fun r => (r.scale0, r.scale1, r.active)), t.rowUps.map (·.written))
      = ([some [(1, 0, false), (1, 9, false)]], [true]) := by decide +kernel
theorem test_cache_fill : let s := { table up with cache := [⟨BitVec.ofNat 32 h4, some 1, false⟩, ⟨BitVec.ofNat 32 h4, some 0, false⟩] }
    ((after (.cacheFillDone 4 1) s).cache.map (·.valid), (after (.cacheFillDone 9 1) s).cache.map (·.valid)) = ([true, false], [false, false]) := by decide +kernel
/-- ADAPT_ENABLE of slot 4's handle with optimiser `opt`, its hyperparameters zero. -/
def adaptD (opt : Nat) (fs : List (Nat × Nat × Nat × Nat)) : DescBytes := dsc 0x26 ([(9, 0, 2, opt), (12, 0, 32, h4)] ++ fs)
/-- Its state, ready or not. -/
def opt0 (closing : Bool) : OptSt := ⟨1, 0, [], [], false, closing⟩
def training (o : OptSt) (s : State) : State := { s with dirs := [{ dir0 (copy0 0 []) with opt := some o }] }
/-- A state that a descriptor waits for. -/
def creating (s : State) : State :=
  { s with dirs := [{ dir0 (copy0 0 []) with optNext := some (opt0 false) }], taken := [tkn 1 (adaptD 1 []) (.adapt 4 1)] }
theorem wit_AdaptersTrained_alone : ∀ x ∈ (fac (adaptD 1 []) (training (opt0 false) up)).taken, x = tkn 1 (adaptD 1 []) := by decide +kernel
theorem wit_AdaptersTrained : let f (b : DescBytes) (s : State) := Facing (fac b s) .adaptEnableAdapter (tkn 1 b)
    (f (adaptD 1 []) (owning (copy0 0 []) up) ∧ f (adaptD 0 []) (training (opt0 false) up) ∧ f (adaptD 1 []) (training (opt0 false) up)) ∧ up.adaptTarget (word12 (adaptD 1 [])) = none
    ∧ ((owning (copy0 0 []) up).adaptTarget (word12 (adaptD 1 []))).isSome = true
    ∧ hyperOk 1 [0, 0, 0, 0, 0, 0, 0] = true ∧ hyperOk 3 [0, 0, 0, 0, 0, 0, 0] = false
    ∧ (let u := (owning (copy0 0 []) up).begin.releaseState 4 (copy0 0 []).head; let n := stateSize (copy0 0 []) 1; n ≤ 268435456 ∧ u.overQuota 7 [(1, ceilDiv n 4352)] = none
        ∧ u.roomFor 1 (ceilDiv (ceilDiv n 4352) 16) 0 0 = true)
    ∧ (let q (s : State) : State := s.begin.releaseState 4 (copy0 0 []).head;
        (q { owning (copy0 0 []) up with tenants := [⟨7, [none, some 0, some 0, some 0], .enabled⟩] }).overQuota 7 [(1, 1)] = none
        ∧ ((q { owning (copy0 0 []) up with tenants := [⟨7, [some 0, none, none, none], .enabled⟩] }).overQuota 7 [(1, 1)]).isSome = true
        ∧ (q (rset 0x4010 0 (owning (copy0 0 []) up))).roomFor 1 1 0 0 = false
        ∧ 268435456 < stateSize { copy0 0 [] with wagons := 61000 } 1)
    ∧ (let s := training (opt0 true) up; s.live = true ∧ (∀ d ∈ s.dirs, d.opt = some (opt0 true) ∧ d.optNext = none) ∧ (opt0 true).closing = true
        ∧ s.tick.active = false ∧ s.tick.next = none ∧ s.reads = [] ∧ s.tmap = [] ∧ s.tierOld = [])
    ∧ (let s := creating up; s.live = true ∧ (s.dirAt 4).isSome = true ∧ (∀ d ∈ s.dirs, d.opt = none ∧ d.optNext = some (opt0 false) ∧ d.conv = none ∧ d.cur.isSome = true)
        ∧ (∀ x ∈ s.taken, x = tkn 1 (adaptD 1 []) (.adapt 4 1)))
    ∧ (let s := { up with reads := [rd (.writeBack (4 * 2 ^ 30)) 68] }; ∃ r ∈ s.reads, ∃ a, slotOf a = 4 ∧ r.kind = .writeBack a) := by
  refine ⟨⟨?_, ?_, ?_⟩, by decide +kernel, by decide +kernel, by decide +kernel, by decide +kernel, by decide +kernel, by decide +kernel, by decide +kernel, by decide +kernel, _, .head _, 4 * 2 ^ 30, by decide, rfl⟩
  all_goals exact facing_of _ _ _ _ (by decide) rfl (by decide +kernel) (by decide +kernel)
theorem test_adapt_enable : let t := after .adaptEnableAdapter (fac (adaptD 1 []) (owning (copy0 0 []) up))
    ((t.dirs.map fun d => d.optNext.map fun o => (o.opt, o.ready)), t.taken.map (·.pend), t.charges.map (fun c => (c.kind, c.wagons)),
      answerOn 1 (after .adaptEnableAdapter (fac (adaptD 0 []) (owning (copy0 0 []) up))))
      = ([some (1, false)], [.adapt 4 1], [(.state, 1)], some (0, 0)) := by decide +kernel
theorem test_adapt_ready : let s := creating up
    let t := after (.adaptStateReady 4) s
    ((t.dirs.map fun d => d.opt.map (·.ready)), answerOn 1 t, ((after (.adaptStateReady 4) (training (opt0 true) up)).dirs.map fun d => d.opt.isSome))
      = ([some true], some (0, 0), [false]) := by decide +kernel
/-- A special working of one line, TICK_END's code alone. -/
def special0 : List Byte := [2, 0, 1, 0, 1] ++ List.replicate 250 0 ++ [0x60]
def loadSw (len : Nat) : DescBytes := dsc 0x27 [(8, 0, 6, 3), (12, 0, 32, len)]
theorem wit_SpecialsInstalled : Facing (fac (loadSw 256) up) (.loadSpecial (some special0)) (tkn 1 (loadSw 256))
    ∧ (special0.take (swLengthOf (loadSw 256)) = special0 ∧ swFormat special0 = up.negot.getD 3 0 ∧ swCheck special0 256 = none ∧ swCheck special0 128 = some 2)
    ∧ up.specials = [] ∧ swFormat [1] ≠ up.negot.getD 3 0
    ∧ (let s := { up with specials := [⟨3, special0⟩] }; Facing (fac (loadSw 0) s) .unloadSpecial (tkn 1 (loadSw 0)) ∧ s.swUsers 3 = 0 ∧ ∃ x ∈ s.specials, x.id = 3)
    ∧ (let s := { up with dirs := [dir0 { copy0 0 [] with form := 3, swId := 3 }] }; s.swUsers 3 ≠ 0) := by
  refine ⟨facing_of _ _ _ _ (by decide) rfl (by decide +kernel) (by decide +kernel), by decide +kernel, rfl, by decide +kernel,
    ⟨facing_of _ _ _ _ (by decide) rfl (by decide +kernel) (by decide +kernel), by decide +kernel, by decide⟩, by decide +kernel⟩
/-- While a tick executes with FM_SHARE 0, the image of a LOAD_SPECIAL makes no progress (R301). -/
theorem wit_SpecialsInstalled_waits : let s := { ticking up with shuntBw := 0 }
    s.specials = [] ∧ s.landMay true false = false ∧ up.landMay true false = true ∧ (∀ x ∈ (fac (loadSw 256) s).taken, x = tkn 1 (loadSw 256)) := by decide +kernel
theorem test_load_special : let t := after (.loadSpecial (some special0)) (fac (loadSw 256) up)
    ((t.specials.map (·.id)), answerOn 1 t, answerOn 1 (after (.loadSpecial none) (fac (loadSw 256) up)), answerOn 1 (after (.loadSpecial (some special0)) (fac (loadSw 128) up)))
      = ([3], some (0, 0), some (0x18, 18), some (0x19, 2)) := by decide +kernel
theorem test_unload_special : let s := fac (loadSw 0) { up with specials := [⟨3, special0⟩] }
    ((after .unloadSpecial s).specials, answerOn 1 (after .unloadSpecial s), answerOn 1 (after .unloadSpecial (fac (loadSw 0) up))) = ([], some (0, 0), some (0x13, 0)) := by
  decide +kernel
/-- The worked example of the storage chapter: where element (5, 1300) of a rank-16 down factor over 2,048 inputs lies (R208, R209),
and its value −7 × 2^−10 in int4 (R201, R203, R204). -/
theorem test_element_placed : let p : Part := ⟨12, 0, 1, 32, 32, 0, 4, 4, 0, 0, 0, 0, false⟩
    let rd (i : Nat) : Byte := if i = 2378 then 0x5B else if i = 4096 + 74 then 0x80 else if i = 4096 + 75 then 0x3A else if i = 4096 + 165 then 2 else 0
    (placeA p 5 1300, tileWagon 4 4 20, slotElem p 4 0 2 false (37 * 128 + 20), deqVal 4 false rd 37 20) = ((37, 4, 20), (2, 20), (5, 1300), 0xBBE00000) := by
  decide +kernel
/-- R92, R114: a value within the bound stands, one outside it gives way to the reference, here 1.0 with a magnitude sum of 1.0; with no
more terms than the pair holds exactly the reference stands. -/
theorem test_bound_holds : let one := Ref.ofWord 0x3F800000
    (one.pick 0x3F800001 1 1 20 0, one.pick 0x3F800100 1 1 20 0, one.pick 0x3F800001 1 1 20 2) = (0x3F800001, 0x3F800000, 0x3F800000) := by decide +kernel
/-- The bytes of a number of n bytes, most significant first. -/
def beBytes (n v : Nat) : List Byte := (leBytes n v).reverse
/-- R221: the digest of the empty message (FIPS 180-4). -/
theorem test_sha512 : sha512 [] = beBytes 64 (0xcf83e1357eefb8bdf1542850d66d8007d620e4050b5715dc83f4a921d36ce9ce * 2 ^ 256
    + 0x47d0d13c5d85f2b0ff8318d2877eec2f63b931bd47417a81a538327af927da3e) := by decide +kernel
/-- R221: RFC 8032, 7.1, test 1; for another message the signature does not verify. -/
theorem test_ed25519 : let pk := beBytes 32 0xd75a980182b10ab7d54bfed3c964073a0ee172f3daa62325af021a68f707511a
    let sig := beBytes 64 (0xe5564300c360ac729086e2cc806e828a84877f1eb8e5d974d873e065224901555 * 2 ^ 252
      + 0xfb8821590a33bacc61e39701cf9b46bd25bf5f0595bbe24655141438e7a100b)
    (edVerify pk [] sig, edVerify pk [1] sig) = (true, false) := by decide +kernel

end Sys2Proof.Tests
end

section
/-! Proofs about the junction (R172 to R195): the choices of one row, the records of a group's routing rows, the judgement of its probe
rows, and ROUTING_PLACEMENT, which does the one and then the other. -/
namespace Sys2Proof.Proofs.Junction
open Sys2Proof Sys2Proof.Machine Sys2Proof.Laws

/-! The choices of one row (R183, R184). -/

theorem setAt_eq_set {α : Type} (xs : List α) (i : Nat) (v : α) : setAt xs i v = xs.set i v := by
  induction xs generalizing i with
  | nil => rfl
  | cons x xs ih => cases i <;> simp [setAt, ih]

/-- The fill after one more choice is placed on adapter-expert `i`. -/
def addPlaced (fill : List Nat) (i : Nat) : List Nat := setAt fill i (fill.getD i 0 + 1)

theorem addPlaced_getD (fill : List Nat) (i e : Nat) :
    (addPlaced fill i).getD e 0 = fill.getD e 0 + if e = i ∧ i < fill.length then 1 else 0 := by
  by_cases hie : e = i
  · subst hie
    by_cases hlt : e < fill.length <;> simp [addPlaced, setAt_eq_set, List.getD_eq_getElem?_getD, hlt]
  · simp [addPlaced, setAt_eq_set, List.getD_eq_getElem?_getD, hie, Ne.symm hie]

/-- A fill that only grew, and nowhere past the capacity. -/
structure Filled (cap : Nat → Nat) (fill fill' : List Nat) : Prop where
  capped : ∀ e, fill'.getD e 0 ≤ max (fill.getD e 0) (cap e)
  grown : ∀ e, fill.getD e 0 ≤ fill'.getD e 0

theorem Filled.refl (cap : Nat → Nat) (fill : List Nat) : Filled cap fill fill :=
  ⟨fun _ => Nat.le_max_left _ _, fun _ => Nat.le_refl _⟩

theorem Filled.trans {cap : Nat → Nat} {f g h : List Nat} (hfg : Filled cap f g) (hgh : Filled cap g h) : Filled cap f h :=
  ⟨fun e => Nat.le_trans (hgh.capped e) (Nat.max_le.2 ⟨hfg.capped e, Nat.le_max_right _ _⟩),
    fun e => Nat.le_trans (hfg.grown e) (hgh.grown e)⟩

theorem filled_addPlaced {cap : Nat → Nat} {fill : List Nat} {i : Nat} (hroom : fill.getD i 0 < cap i) :
    Filled cap fill (addPlaced fill i) where
  capped e := by
    rw [addPlaced_getD]
    split
    · next h => exact Nat.le_trans (h.1 ▸ hroom) (Nat.le_max_right _ _)
    · exact Nat.le_max_left _ _
  grown e := addPlaced_getD fill i e ▸ Nat.le_add_right _ _

theorem siding_some {free : Nat → Bool} {order : List Nat} {limit f cursor c cursor' : Nat}
    (h : siding free order limit f cursor = (some c, cursor')) :
    free c = true ∧ ∃ k, cursor ≤ k ∧ k < limit ∧ c = order.getD k 0 ∧ cursor' = k + 1 := by
  induction f generalizing cursor with
  | zero => simp [siding] at h
  | succ f ih =>
    rw [siding] at h
    split at h
    · simp at h
    · next hlt =>
      dsimp only at h
      split at h
      · next hfree =>
        obtain ⟨rfl, rfl⟩ : order.getD cursor 0 = c ∧ cursor + 1 = cursor' := by simpa using h
        exact ⟨hfree, cursor, Nat.le_refl _, by omega, rfl, rfl⟩
      · obtain ⟨hfree, k, hk, hrest⟩ := ih h
        exact ⟨hfree, k, by omega, hrest⟩

theorem le_siding_cursor (free : Nat → Bool) (order : List Nat) (limit f cursor : Nat) :
    cursor ≤ (siding free order limit f cursor).2 := by
  induction f generalizing cursor with
  | zero => exact Nat.le_refl _
  | succ f ih =>
    rw [siding]
    split
    · exact Nat.le_refl _
    · dsimp only
      split
      · exact Nat.le_succ _
      · exact Nat.le_trans (Nat.le_succ _) (ih _)

/-- One choice placed, sided on a place of the ranking from `cursor` below `limit`, or dropped. -/
def Disposed (order : List Nat) (limit cursor : Nat) (p : Placed) : Prop :=
  (p.outcome = 0 ∧ p.final = some p.choice)
  ∨ (p.outcome = 1 ∧ ∃ k, cursor ≤ k ∧ k < limit ∧ p.final = some (order.getD k 0))
  ∨ (p.outcome = 2 ∧ p.final = none)

theorem Disposed.mono {order : List Nat} {limit cursor cursor' : Nat} {p : Placed} (hle : cursor ≤ cursor')
    (h : Disposed order limit cursor' p) : Disposed order limit cursor p :=
  h.imp_right (Or.imp_left fun ⟨ho, k, hk, hrest⟩ => ⟨ho, k, Nat.le_trans hle hk, hrest⟩)

/-- The first choice is disposed of, and the others follow from the cursor and the fill that it leaves. -/
theorem placeRow_cons (cap : Nat → Nat) (order : List Nat) (limit e : Nat) (es : List Nat) (cursor : Nat) (fill : List Nat) :
    ∃ p cursor' fill', p.choice = e ∧ Disposed order limit cursor p ∧ cursor ≤ cursor' ∧ Filled cap fill fill'
      ∧ placeRow cap order limit (e :: es) cursor fill =
          (p :: (placeRow cap order limit es cursor' fill').1, (placeRow cap order limit es cursor' fill').2) := by
  rw [placeRow]
  split
  · next hroom => exact ⟨⟨0, e, some e⟩, cursor, _, rfl, .inl ⟨rfl, rfl⟩, Nat.le_refl _, filled_addPlaced (of_decide_eq_true hroom), rfl⟩
  · dsimp only
    have hcursor := le_siding_cursor (fun i => decide (fill.getD i 0 < cap i)) order limit limit cursor
    split
    · next c hsome =>
      obtain ⟨hfree, k, hk, hlim, rfl, -⟩ := siding_some (Prod.ext hsome rfl)
      exact ⟨⟨1, e, some (order.getD k 0)⟩, _, _, rfl, .inr (.inl ⟨rfl, k, hk, hlim, rfl⟩), hcursor,
        filled_addPlaced (of_decide_eq_true hfree), rfl⟩
    · exact ⟨⟨2, e, none⟩, _, fill, rfl, .inr (.inr ⟨rfl, rfl⟩), hcursor, .refl cap fill, rfl⟩

theorem placeRow_choices (cap : Nat → Nat) (order : List Nat) (limit : Nat) (choices : List Nat) (cursor : Nat) (fill : List Nat) :
    (placeRow cap order limit choices cursor fill).1.map (·.choice) = choices := by
  induction choices generalizing cursor fill with
  | nil => rfl
  | cons e es ih =>
    obtain ⟨p, cursor', fill', hchoice, -, -, -, heq⟩ := placeRow_cons cap order limit e es cursor fill
    simp [heq, hchoice, ih]

theorem placeRow_filled (cap : Nat → Nat) (order : List Nat) (limit : Nat) (choices : List Nat) (cursor : Nat) (fill : List Nat) :
    Filled cap fill (placeRow cap order limit choices cursor fill).2 := by
  induction choices generalizing cursor fill with
  | nil => exact .refl cap fill
  | cons e es ih =>
    obtain ⟨p, cursor', fill', -, -, -, hfill, heq⟩ := placeRow_cons cap order limit e es cursor fill
    exact heq ▸ hfill.trans (ih cursor' fill')

theorem placeRow_disposed (cap : Nat → Nat) (order : List Nat) (limit : Nat) (choices : List Nat) (cursor : Nat) (fill : List Nat) :
    ∀ p ∈ (placeRow cap order limit choices cursor fill).1, Disposed order limit cursor p := by
  induction choices generalizing cursor fill with
  | nil => simp [placeRow]
  | cons e es ih =>
    obtain ⟨p, cursor', fill', -, hp, hle, -, heq⟩ := placeRow_cons cap order limit e es cursor fill
    rw [heq]
    exact List.forall_mem_cons.2 ⟨hp, fun y hy => (ih cursor' fill' y hy).mono hle⟩

/-! What the junction leaves as it is. -/

/-- What a row group's placement and judgement read and leave as it is: the requests, the directory, the latched exit points, the timetable
and the tick counter. -/
def routingInputs (s : State) : List Req × List Dir × List (List Word) × Option Timetable × Nat :=
  (s.reqs, s.dirs, s.exitCfg, s.tick.cur, s.tick.count)

/-- Two records of one row's choices: the junction's later judgement differs at most (R190, R193). -/
def SameChoices (r r' : RouteRec) : Prop :=
  r'.stop = r.stop ∧ r'.row = r.row ∧ r'.tenant = r.tenant ∧ r'.mode = r.mode ∧ r'.k = r.k ∧ r'.choice = r.choice ∧ r'.final = r.final
    ∧ r'.g = r.g

theorem SameChoices.refl (r : RouteRec) : SameChoices r r := ⟨rfl, rfl, rfl, rfl, rfl, rfl, rfl, rfl⟩

theorem SameChoices.trans {r r' r'' : RouteRec} (h : SameChoices r r') (h' : SameChoices r' r'') : SameChoices r r'' := by
  obtain ⟨hstop, hrow, htenant, hmode, hk, hchoice, hfinal, hg⟩ := h
  obtain ⟨hstop', hrow', htenant', hmode', hk', hchoice', hfinal', hg'⟩ := h'
  exact ⟨hstop'.trans hstop, hrow'.trans hrow, htenant'.trans htenant, hmode'.trans hmode, hk'.trans hk, hchoice'.trans hchoice,
    hfinal'.trans hfinal, hg'.trans hg⟩

theorem judgedRec_sameChoices (s : State) (x : Stop) (r : RouteRec) : SameChoices r (s.judgedRec x r) :=
  ⟨rfl, rfl, rfl, rfl, rfl, rfl, rfl, rfl⟩

/-- The record of a routing row of a stop over a set in force (R190). -/
def RecordOf (r : RouteRec) (stop row : Nat) (d : Dir) (c : Copy) : Prop :=
  r.stop = stop ∧ r.row = row ∧ r.tenant = d.tenant ∧ r.mode = rtMode c.route ∧ r.k = rtK c.route

theorem RecordOf.of_sameChoices {r r' : RouteRec} {stop row : Nat} {d : Dir} {c : Copy} (h : RecordOf r stop row d c)
    (hr : SameChoices r r') : RecordOf r' stop row d c := by
  obtain ⟨hstop, hrow, htenant, hmode, hk⟩ := h
  obtain ⟨estop, erow, etenant, emode, ek, -⟩ := hr
  exact ⟨estop.trans hstop, erow.trans hrow, etenant.trans htenant, emode.trans hmode, ek.trans hk⟩

/-! A stop after an update. -/

theorem stopAt_of_stops_map {s t : State} {f : Stop → Stop} (hstops : t.tick.stops = s.tick.stops.map f)
    (hcount : t.tick.count = s.tick.count) (hf : ∀ y, (f y).stop = y.stop ∧ (f y).framing = y.framing ∧ (f y).tick = y.tick) (n : Nat) :
    t.stopAt n = (s.stopAt n).map f := by
  simp only [State.stopAt, hstops, hcount, List.find?_map, Function.comp_def, hf]

theorem stopAt_stop {s : State} {n : Nat} {x : Stop} (h : s.stopAt n = some x) : x.stop = n := by
  have := List.find?_some h
  simp only [Bool.and_eq_true, decide_eq_true_eq] at this
  exact this.1.1

theorem updStop_stopAt {s : State} {n : Nat} {x : Stop} {f : Stop → Stop} (hx : s.stopAt n = some x)
    (hf : ∀ y, (f y).stop = y.stop ∧ (f y).framing = y.framing ∧ (f y).tick = y.tick) : (s.updStop n f).stopAt n = some (f x) := by
  have h := stopAt_of_stops_map (s := s) (t := s.updStop n f) rfl rfl (fun y => by
    dsimp only
    split
    · exact hf y
    · exact ⟨rfl, rfl, rfl⟩) n
  rw [h, hx]
  exact congrArg some (if_pos (List.find?_some hx))

/-- An update that makes rows of the stops late does only that to a stop. -/
theorem stopAt_late {s t : State} {f : Stop → Stop} {n : Nat} {x : Stop} (hstops : t.tick.stops = s.tick.stops.map f)
    (hcount : t.tick.count = s.tick.count) (hf : ∀ y, ∃ late, f y = { y with late := late }) (hx : s.stopAt n = some x) :
    ∃ late, t.stopAt n = some { x with late := late } := by
  have hkey (y : Stop) : (f y).stop = y.stop ∧ (f y).framing = y.framing ∧ (f y).tick = y.tick := by
    obtain ⟨late, hlate⟩ := hf y
    simp [hlate]
  obtain ⟨late, hlate⟩ := hf x
  exact ⟨late, by rw [stopAt_of_stops_map hstops hcount hkey, hx, Option.map_some, hlate]⟩

theorem markEnded_stopAt {s : State} {n : Nat} {x : Stop} (hx : s.stopAt n = some x) :
    ∃ late, s.markEnded.stopAt n = some { x with late := late } :=
  stopAt_late rfl rfl (fun y => by
    split
    · exact ⟨y.late, rfl⟩
    · exact ⟨_, rfl⟩) hx

theorem failLate_stopAt {s : State} {n : Nat} {x : Stop} (hx : s.stopAt n = some x) :
    ∃ late, s.failLate.stopAt n = some { x with late := late } := by
  unfold State.failLate
  split
  · exact ⟨x.late, hx⟩
  · exact stopAt_late rfl rfl (fun y => by
      split
      · exact ⟨y.late, rfl⟩
      · exact ⟨_, rfl⟩) hx

/-! One routing row (R183, R190). -/

/-- A state with one record more, its stops and the junction's inputs as they were. -/
structure Adds (s t : State) (r : RouteRec) : Prop where
  inputs : routingInputs t = routingInputs s
  stops : t.tick.stops = s.tick.stops
  recs : t.tick.recs = s.tick.recs ++ [r]

theorem adds_updTick {s u : State} {f : TickSt → TickSt} {r : RouteRec} (htick : u.tick = s.tick) (hin : routingInputs u = routingInputs s)
    (hf : ∀ t, (f t).cur = t.cur ∧ (f t).count = t.count ∧ (f t).stops = t.stops ∧ (f t).recs = t.recs ++ [r]) :
    Adds s (u.updTick f) r := by
  obtain ⟨hcur, hcount, hstops, hrecs⟩ := hf u.tick
  refine ⟨?_, hstops.trans (htick ▸ rfl), hrecs.trans (htick ▸ rfl)⟩
  rw [← hin, routingInputs, updTick_tick, hcur, hcount]
  rfl

theorem Adds.addVisit {s t : State} {r : RouteRec} (h : Adds s t r) (line : Nat) (handle : Word) (row : Nat) :
    Adds s (t.addVisit line handle row) r := ⟨h.inputs, h.stops, h.recs⟩

/-- A state with the record of one routing row more. -/
def AddsRecord (s t : State) (stop row : Nat) (d : Dir) (c : Copy) : Prop := ∃ r, Adds s t r ∧ RecordOf r stop row d c

/-- A row whose set is in force gets its record; another changes nothing. -/
theorem placeOne_cases (s : State) (x : Stop) (score : Option (Consign × Nat)) (row slot : Nat) :
    (s.placeOne x score row slot = s ∧ ∀ d, s.dirAt slot = some d → d.copyAt s.tick.count = none)
    ∨ ∃ d c, s.dirAt slot = some d ∧ d.copyAt s.tick.count = some c
        ∧ AddsRecord s (s.placeOne x score row slot) x.stop row d c := by
  unfold State.placeOne
  split
  · next hd => exact .inl ⟨rfl, by simp [hd]⟩
  · next d hd =>
    split
    · next hc => exact .inl ⟨rfl, by simp [hd, hc]⟩
    · next c hc =>
      refine .inr ⟨d, c, hd, hc, ?_⟩
      extract_lets hdr route e k probed drop zs router scores order weights limit placed gs sided drops record counted added
      have hadds : Adds s added record := adds_updTick rfl rfl fun _ => ⟨rfl, rfl, rfl, rfl⟩
      refine iteInduction (motive := (AddsRecord s · x.stop row d c)) (fun _unscored => ?_) fun _ =>
        iteInduction (motive := (AddsRecord s · x.stop row d c)) (fun _nonfinite => ?_) fun _ => ⟨record, ?_, rfl, rfl, rfl, rfl, rfl⟩
      · exact ⟨_, adds_updTick rfl rfl fun _ => ⟨rfl, rfl, rfl, rfl⟩, rfl, rfl, rfl, rfl, rfl⟩
      · exact ⟨_, adds_updTick rfl rfl fun _ => ⟨rfl, rfl, rfl, rfl⟩, rfl, rfl, rfl, rfl, rfl⟩
      · exact iteInduction (motive := (Adds s · record)) (fun _ => .addVisit hadds _ _ _) fun _ => hadds

/-! The routing rows of a group (R183, R187). -/

/-- Records added for rows: the earlier ones stand, and each row whose set is in force has its own. -/
structure Records (s t : State) (stop : Nat) (rows : List (Nat × Nat)) : Prop where
  inputs : routingInputs t = routingInputs s
  kept : s.tick.recs ⊆ t.tick.recs
  new : ∀ p ∈ rows, ∀ d c, s.dirAt p.2 = some d → d.copyAt s.tick.count = some c → ∃ r ∈ t.tick.recs, RecordOf r stop p.1 d c

theorem dirAt_of_inputs {s t : State} (h : routingInputs t = routingInputs s) (slot : Nat) : t.dirAt slot = s.dirAt slot := by
  simp only [routingInputs, Prod.mk.injEq] at h
  simp only [State.dirAt, h]

theorem count_of_inputs {s t : State} (h : routingInputs t = routingInputs s) : t.tick.count = s.tick.count := by
  simp only [routingInputs, Prod.mk.injEq] at h
  simp only [h]

theorem placeOne_records (s : State) (x : Stop) (score : Option (Consign × Nat)) (p : Nat × Nat) :
    Records s (s.placeOne x score p.1 p.2) x.stop [p] ∧ (s.placeOne x score p.1 p.2).tick.stops = s.tick.stops := by
  rcases placeOne_cases s x score p.1 p.2 with ⟨heq, hnone⟩ | ⟨d, c, hd, hc, r, hadds, hr⟩
  · rw [heq]
    exact ⟨⟨rfl, List.Subset.refl _, by simp +contextual [hnone]⟩, rfl⟩
  · refine ⟨⟨hadds.inputs, hadds.recs ▸ List.subset_append_left _ _, ?_⟩, hadds.stops⟩
    intro p' hp' d' c' hd' hc'
    obtain rfl := List.mem_singleton.1 hp'
    obtain rfl := Option.some.inj (hd.symm.trans hd')
    obtain rfl := Option.some.inj (hc.symm.trans hc')
    exact ⟨r, by simp [hadds.recs], hr⟩

theorem Records.append {s t u : State} {stop : Nat} {ps qs : List (Nat × Nat)} (hst : Records s t stop ps) (htu : Records t u stop qs) :
    Records s u stop (ps ++ qs) where
  inputs := htu.inputs.trans hst.inputs
  kept := List.Subset.trans hst.kept htu.kept
  new p hp d c hd hc := by
    rcases List.mem_append.1 hp with hp | hp
    · obtain ⟨r, hr, hrec⟩ := hst.new p hp d c hd hc
      exact ⟨r, htu.kept hr, hrec⟩
    · exact htu.new p hp d c ((dirAt_of_inputs hst.inputs _).trans hd) (count_of_inputs hst.inputs ▸ hc)

theorem Records.failLate {s t : State} {stop : Nat} {rows : List (Nat × Nat)} (h : Records s t stop rows) :
    Records s t.failLate stop rows := by
  unfold State.failLate
  split
  · exact h
  · exact ⟨h.inputs, h.kept, h.new⟩

theorem foldl_placeOne_records (x : Stop) (score : Nat × Nat → Option (Consign × Nat)) (rows : List (Nat × Nat)) (s : State) :
    Records s (rows.foldl (fun s p => s.placeOne x (score p) p.1 p.2) s) x.stop rows
      ∧ (rows.foldl (fun s p => s.placeOne x (score p) p.1 p.2) s).tick.stops = s.tick.stops := by
  induction rows generalizing s with
  | nil => exact ⟨⟨rfl, List.Subset.refl _, by simp⟩, rfl⟩
  | cons p ps ih =>
    obtain ⟨hone, hstops⟩ := placeOne_records s x (score p) p
    obtain ⟨hrest, hstops'⟩ := ih (s.placeOne x (score p) p.1 p.2)
    exact ⟨hone.append hrest, hstops'.trans hstops⟩

theorem insertBy_perm {α : Type} (lt : α → α → Bool) (v : α) (xs : List α) : (insertBy lt v xs).Perm (v :: xs) := by
  induction xs with
  | nil => exact .refl _
  | cons x xs ih =>
    rw [insertBy]
    split
    · exact (ih.cons x).trans (.swap v x xs)
    · exact .refl _

theorem sortBy_perm {α : Type} (lt : α → α → Bool) (xs : List α) : (sortBy lt xs).Perm xs := by
  induction xs with
  | nil => exact .refl _
  | cons x xs ih => exact (insertBy_perm lt x _).trans (ih.cons x)

theorem map_snd_sortBy_keyed_perm {α κ : Type} (lt : κ → κ → Bool) (key : α → κ) (xs : List α) :
    ((sortBy (fun a b => lt a.1 b.1) (xs.map fun x => (key x, x))).map (·.2)).Perm xs := by
  have h := (sortBy_perm (fun a b : κ × α => lt a.1 b.1) (xs.map fun x => (key x, x))).map (·.2)
  rwa [List.map_map, show ((·.2) ∘ fun x => (key x, x)) = (id : α → α) from rfl, List.map_id] at h

/-- The routing rows of a group that are placed: those that are not late. -/
def groupRows (x : Stop) (size group : Nat) : List (Nat × Nat) :=
  x.plan.routing.filter fun r => r.1 / max 1 size = group && !x.plan.late.contains r.1

theorem mem_groupRows {x : Stop} {size group : Nat} {p : Nat × Nat} :
    p ∈ groupRows x size group ↔ p ∈ x.plan.routing ∧ p.1 / max 1 size = group ∧ p.1 ∉ x.plan.late := by
  simp [groupRows]

theorem placeRows_spec {s : State} {stop : Nat} {x : Stop} (size group : Nat) (cons : Option Consign) (hx : s.stopAt stop = some x) :
    Records s (s.placeRows x size group cons) stop (groupRows x size group)
      ∧ ∃ late, (s.placeRows x size group cons).stopAt stop = some { x with placed := x.placed ++ [group], late := late } := by
  obtain rfl := stopAt_stop hx
  unfold State.placeRows
  dsimp only
  obtain ⟨hrecords, hstops⟩ := foldl_placeOne_records x _ _ s
  generalize List.foldl _ s _ = t at hrecords hstops ⊢
  have ht : t.stopAt x.stop = some x := by
    rw [← hx, State.stopAt, State.stopAt, hstops, count_of_inputs hrecords.inputs]
  refine ⟨⟨hrecords.inputs, hrecords.kept, fun p hp => hrecords.new p ?_⟩, ?_⟩
  · exact (map_snd_sortBy_keyed_perm keyLt _ _).mem_iff.2 hp
  · exact markEnded_stopAt (updStop_stopAt (f := fun y => { y with placed := y.placed ++ [group] }) ht fun _ => ⟨rfl, rfl, rfl⟩)

/-! The probe rows of a group (R193). -/

/-- The probe rows of a group that its score consignment carries (R172). -/
def groupProbes (x : Stop) (size group : Nat) : List Nat :=
  x.plan.probe.filter fun r => r / max 1 size = group && !x.plan.gone.contains r

theorem mem_groupProbes {x : Stop} {size group r : Nat} :
    r ∈ groupProbes x size group ↔ r ∈ x.plan.probe ∧ r / max 1 size = group ∧ r ∉ x.plan.gone := by
  simp [groupProbes]

/-- A stop with a group judged. -/
def withJudged (group : Nat) (confs : List (Nat × Word)) (y : Stop) : Stop :=
  { y with confs := y.confs ++ confs, judged := y.judged ++ [group] }

/-- A stop with more requests that exit there. -/
def withExits (exits : List Nat) (y : Stop) : Stop := { y with exits := y.exits ++ exits.filter fun e => !y.exits.contains e }

/-- The records of a stop after what it has judged. -/
def rejudged (s : State) (n : Nat) : State :=
  match s.stopAt n with
  | some y => s.updTick fun t => { t with recs := t.recs.map fun r => if r.stop ≠ n then r else s.judgedRec y r }
  | none => s

/-- The stop's exit point is active with a probe in force (R191, R193). -/
def ProbeInForce (s : State) (x : Stop) : Prop :=
  ∃ p d c q, x.plan.exitPt = some p ∧ s.resolveKind (s.exitHandle s.curHdr.line p) s.tick.count 2 = some (d, c) ∧ c.parts.head? = some q

theorem curHdr_of_inputs {s t : State} (h : routingInputs t = routingInputs s) : t.curHdr = s.curHdr := by
  simp only [routingInputs, Prod.mk.injEq] at h
  simp only [State.curHdr, h]

theorem exitHandle_of_inputs {s t : State} (h : routingInputs t = routingInputs s) (l p : Nat) : t.exitHandle l p = s.exitHandle l p := by
  simp only [routingInputs, Prod.mk.injEq] at h
  simp only [State.exitHandle, h]

theorem resolveKind_of_inputs {s t : State} (h : routingInputs t = routingInputs s) (handle : Word) (n kind : Nat) :
    t.resolveKind handle n kind = s.resolveKind handle n kind := by
  simp only [routingInputs, Prod.mk.injEq] at h
  simp only [State.resolveKind, State.resolve, State.dirOf, h]

theorem probeInForce_of_inputs {s t : State} {x y : Stop} (h : routingInputs t = routingInputs s) (hplan : y.plan = x.plan)
    (hprobe : ProbeInForce s x) : ProbeInForce t y := by
  simpa only [ProbeInForce, curHdr_of_inputs h, exitHandle_of_inputs h, resolveKind_of_inputs h, count_of_inputs h, hplan] using hprobe

/-- With a probe in force the group is judged, with a confidence for each of its probe rows; else nothing changes. -/
theorem exitDecision_cases (s : State) (x : Stop) (size group base : Nat) (c : Consign) :
    (¬ ProbeInForce s x ∧ s.exitDecision x size group base c = s)
    ∨ ∃ confs exits, confs.map (·.1) = groupProbes x size group
        ∧ s.exitDecision x size group base c = rejudged ((s.updStop x.stop (withJudged group confs)).updStop x.stop (withExits exits)) x.stop := by
  unfold State.exitDecision
  split
  · next hp => exact .inl ⟨fun ⟨_, _, _, _, hp', _⟩ => (by cases hp.symm.trans hp'), rfl⟩
  · next p hp =>
    extract_lets hdr
    split
    · next hr => exact .inl ⟨fun ⟨_, _, _, _, hp', hr', _⟩ => (by cases hp.symm.trans hp'; cases hr.symm.trans hr'), rfl⟩
    · next d cp hr =>
      split
      · next hq => exact .inl ⟨fun ⟨_, _, _, _, hp', hr', hq'⟩ => (by
          cases hp.symm.trans hp'; cases hr.symm.trans hr'; cases hq.symm.trans hq'), rfl⟩
      · exact .inr ⟨_, _, (List.map_map ..).trans (List.zipIdx_map_fst ..), rfl⟩

/-- From a stop at `x` to the same stop at `y`: its plan and what it has emitted stand, and so do the junction's inputs and the choices of
every record. -/
structure Follows (s t : State) (n : Nat) (x y : Stop) : Prop where
  inputs : routingInputs t = routingInputs s
  recs : ∀ r ∈ s.tick.recs, ∃ r' ∈ t.tick.recs, SameChoices r r'
  stop : t.stopAt n = some y
  plan : y.plan = x.plan
  emitted : y.emitted = x.emitted

theorem Follows.refl {s : State} {n : Nat} {x : Stop} (hx : s.stopAt n = some x) : Follows s s n x x :=
  ⟨rfl, fun r hr => ⟨r, hr, .refl r⟩, hx, rfl, rfl⟩

theorem Follows.trans {s t u : State} {n : Nat} {x y z : Stop} (hst : Follows s t n x y) (htu : Follows t u n y z) : Follows s u n x z where
  inputs := htu.inputs.trans hst.inputs
  recs r hr := by
    obtain ⟨r', hr', hrr'⟩ := hst.recs r hr
    obtain ⟨r'', hr'', hrr''⟩ := htu.recs r' hr'
    exact ⟨r'', hr'', hrr'.trans hrr''⟩
  stop := htu.stop
  plan := htu.plan.trans hst.plan
  emitted := htu.emitted.trans hst.emitted

theorem rejudged_follows {s : State} {n : Nat} {x : Stop} (hx : s.stopAt n = some x) : Follows s (rejudged s n) n x x := by
  simp only [rejudged, hx]
  refine ⟨rfl, fun r hr => ⟨_, List.mem_map_of_mem hr, ?_⟩, hx, rfl, rfl⟩
  split
  · exact .refl r
  · exact judgedRec_sameChoices s x r

theorem exitDecision_follows {s : State} {n : Nat} {x : Stop} (size group base : Nat) (c : Consign) (hx : s.stopAt n = some x) :
    ∃ y, Follows s (s.exitDecision x size group base c) n x y ∧ y.placed = x.placed
      ∧ (ProbeInForce s x → group ∈ y.judged ∧ ∀ r ∈ groupProbes x size group, ∃ w, (r, w) ∈ y.confs) := by
  obtain rfl := stopAt_stop hx
  rcases exitDecision_cases s x size group base c with ⟨hnone, heq⟩ | ⟨confs, exits, hconfs, heq⟩
  · exact ⟨x, by rw [heq]; exact .refl hx, rfl, fun h => absurd h hnone⟩
  · have hjudged : (s.updStop x.stop (withJudged group confs)).stopAt x.stop = some (withJudged group confs x) :=
      updStop_stopAt hx fun _ => ⟨rfl, rfl, rfl⟩
    have hexits := updStop_stopAt (f := withExits exits) hjudged fun _ => ⟨rfl, rfl, rfl⟩
    have hfollows := rejudged_follows hexits
    rw [heq]
    refine ⟨_, ⟨hfollows.inputs, hfollows.recs, hfollows.stop, rfl, rfl⟩, rfl, fun _ => ⟨?_, fun r hr => ?_⟩⟩
    · exact List.mem_append_right _ (List.mem_singleton_self group)
    · obtain ⟨⟨r, w⟩, hw, rfl⟩ := List.mem_map.1 (hconfs ▸ hr)
      exact ⟨w, List.mem_append_right _ hw⟩

/-! A row group (R183, R187, R193, R524). -/

/-- Of a LAYER stop under way, the exchange not lost. -/
def GroupOpen (s : State) (x : Stop) : Prop := s.curHdr.kind = 1 ∧ x.ended = false ∧ s.exchangeLost = false

/-- The group's score consignment has returned. -/
def ScoresBack (s : State) (stop group : Nat) : Prop := ∃ c, s.scoreCons stop group = some c ∧ c.done = true ∧ c.ended = false

/-- The group's placement is due. -/
def PlacementDue (s : State) (stop group : Nat) (x : Stop) : Prop :=
  GroupOpen s x ∧ (∃ r ∈ x.plan.routing, r.1 / max 1 (s.groupSizeOf stop) = group) ∧ group ∉ x.placed
    ∧ (∀ r ∈ x.plan.routing, r.1 / max 1 (s.groupSizeOf stop) < group → r.1 / max 1 (s.groupSizeOf stop) ∈ x.placed)
    ∧ (ScoresBack s stop group ∨ ∀ r ∈ x.plan.learned, r.1 / max 1 (s.groupSizeOf stop) ≠ group)

/-- The group's judgement is due. -/
def JudgementDue (s : State) (stop group : Nat) (x : Stop) : Prop :=
  GroupOpen s x ∧ ScoresBack s stop group ∧ (∃ r ∈ x.plan.probe, r / max 1 (s.groupSizeOf stop) = group) ∧ group ∉ x.judged

/-- The state after a placement. -/
def placedGroup (s : State) (stop group : Nat) (x : Stop) : State :=
  (s.placeRows x (s.groupSizeOf stop) group (s.scoreCons stop group)).failLate

theorem placeGroup_of_none {s : State} {stop : Nat} (hx : s.stopAt stop = none) (group : Nat) : s.placeGroup stop group = s := by
  simp only [State.placeGroup, hx]

/-- A group is placed where that is due, and then judged where that is. -/
theorem placeGroup_cases {s : State} {stop : Nat} {x : Stop} (group : Nat) (hx : s.stopAt stop = some x) :
    ∃ u, (PlacementDue s stop group x ∧ u = placedGroup s stop group x ∨ ¬ PlacementDue s stop group x ∧ u = s)
      ∧ ∀ y, u.stopAt stop = some y → y.plan = x.plan → y.judged = x.judged →
          (JudgementDue s stop group x ∧ ∃ base c, s.placeGroup stop group = u.exitDecision y (s.groupSizeOf stop) group base c)
          ∨ (¬ JudgementDue s stop group x ∧ s.placeGroup stop group = u) := by
  unfold State.placeGroup
  split
  case h_1 hnone => simp [hx] at hnone
  case h_2 x' hx' =>
  obtain rfl := Option.some.inj (hx.symm.trans hx')
  extract_lets size inGroup cons back earlier u
  have hback : back = true ↔ ScoresBack s stop group := by
    simp only [back, cons, ScoresBack]
    split <;> simp [*]
  have hshut : (decide (s.curHdr.kind ≠ 1) || x.ended || s.exchangeLost) = false ↔ GroupOpen s x := by
    simp only [GroupOpen, Bool.or_eq_false_iff, decide_eq_false_iff_not, ne_eq, Decidable.not_not, and_assoc]
  by_cases hopen : GroupOpen s x
  case neg =>
    rw [if_pos (eq_true_of_ne_false (mt hshut.1 hopen))]
    exact ⟨s, .inr ⟨fun h => hopen h.1, rfl⟩, fun y _ _ _ => .inr ⟨fun h => hopen h.1, rfl⟩⟩
  rw [if_neg (ne_true_of_eq_false (hshut.2 hopen))]
  refine ⟨u, ?_, fun y hy hplan hjudged => ?_⟩
  · have hdue : PlacementDue s stop group x ↔ ((x.plan.routing.any fun r => inGroup r.1) && !x.placed.contains group && !earlier
        && (back || !x.plan.learned.any fun r => inGroup r.1)) = true := by
      simp [PlacementDue, hopen, inGroup, earlier, size, ← hback, and_assoc]
    by_cases h : PlacementDue s stop group x
    · exact .inl ⟨h, if_pos (hdue.1 h)⟩
    · exact .inr ⟨h, if_neg (mt hdue.2 h)⟩
  · have hdue : JudgementDue s stop group x ↔ (back && y.plan.probe.any inGroup && !y.judged.contains group) = true := by
      simp [JudgementDue, hopen, inGroup, size, ← hback, hplan, hjudged, and_assoc]
    rw [hy]
    split
    · next y' c hy' hc =>
      obtain rfl := Option.some.inj hy'
      split
      · next h => exact .inl ⟨hdue.2 h, _, c, rfl⟩
      · next h => exact .inr ⟨mt hdue.1 h, rfl⟩
    · next hnone => exact .inr ⟨fun ⟨_, ⟨c, hc, _⟩, _⟩ => hnone y c rfl hc, rfl⟩

/-- A placed group stands among the placed, and its rows have their records; nothing is judged. -/
theorem placedGroup_follows {s : State} {stop : Nat} {x : Stop} (group : Nat) (hx : s.stopAt stop = some x) :
    ∃ y, Follows s (placedGroup s stop group x) stop x y ∧ y.placed = x.placed ++ [group] ∧ y.judged = x.judged
      ∧ Records s (placedGroup s stop group x) stop (groupRows x (s.groupSizeOf stop) group) := by
  obtain ⟨hrecords, late, hplaced⟩ := placeRows_spec (s.groupSizeOf stop) group (s.scoreCons stop group) hx
  obtain ⟨late', hfailed⟩ := failLate_stopAt hplaced
  have hall := hrecords.failLate
  exact ⟨_, ⟨hall.inputs, fun r hr => ⟨r, hall.kept hr, .refl r⟩, hfailed, rfl, rfl⟩, rfl, rfl, hall⟩

/-- What ROUTING_PLACEMENT does for a group of a stop. A placed row's record is found after the judgement too, which rewrites it. -/
theorem placeGroup_follows {s : State} {stop : Nat} {x : Stop} (group : Nat) (hx : s.stopAt stop = some x) :
    ∃ y, Follows s (s.placeGroup stop group) stop x y
      ∧ (PlacementDue s stop group x → y.placed = x.placed ++ [group]
          ∧ ∀ p ∈ groupRows x (s.groupSizeOf stop) group, ∀ d c, s.dirAt p.2 = some d → d.copyAt s.tick.count = some c →
              ∃ r ∈ (s.placeGroup stop group).tick.recs, RecordOf r stop p.1 d c)
      ∧ (JudgementDue s stop group x → ProbeInForce s x → group ∈ y.judged
          ∧ ∀ r ∈ groupProbes x (s.groupSizeOf stop) group, ∃ w, (r, w) ∈ y.confs)
      ∧ (¬ PlacementDue s stop group x → ¬ JudgementDue s stop group x → s.placeGroup stop group = s) := by
  obtain ⟨u, hplacing, hjudging⟩ := placeGroup_cases group hx
  have hfirst : ∃ y, Follows s u stop x y ∧ y.judged = x.judged ∧ (PlacementDue s stop group x → y.placed = x.placed ++ [group]
      ∧ Records s u stop (groupRows x (s.groupSizeOf stop) group)) ∧ (¬ PlacementDue s stop group x → u = s) := by
    rcases hplacing with ⟨hdue, rfl⟩ | ⟨hno, rfl⟩
    · obtain ⟨y, hfollows, hplaced, hjudged, hrecords⟩ := placedGroup_follows group hx
      exact ⟨y, hfollows, hjudged, fun _ => ⟨hplaced, hrecords⟩, fun hno => absurd hdue hno⟩
    · exact ⟨x, .refl hx, rfl, fun hdue => absurd hdue hno, fun _ => rfl⟩
  obtain ⟨y, hfollows, hjudged, hplaced, hsame⟩ := hfirst
  rcases hjudging y hfollows.stop hfollows.plan hjudged with ⟨hdue, base, c, heq⟩ | ⟨hno, heq⟩
  · obtain ⟨z, hfollows', hplaced', hprobed⟩ := exitDecision_follows (s.groupSizeOf stop) group base c hfollows.stop
    rw [← heq] at hfollows'
    refine ⟨z, hfollows.trans hfollows', fun h => ⟨hplaced'.trans (hplaced h).1, fun p hp d c hd hc => ?_⟩, fun _ hprobe => ?_,
      fun _ hno => absurd hdue hno⟩
    · obtain ⟨r, hr, hrec⟩ := (hplaced h).2.new p hp d c hd hc
      obtain ⟨r', hr', hsame⟩ := hfollows'.recs r hr
      exact ⟨r', hr', hrec.of_sameChoices hsame⟩
    · have := hprobed (probeInForce_of_inputs hfollows.inputs hfollows.plan hprobe)
      rwa [groupProbes, hfollows.plan] at this
  · rw [heq]
    exact ⟨y, hfollows, fun h => ⟨(hplaced h).1, (hplaced h).2.new⟩, fun hdue => absurd hdue hno, fun hno _ => hsame hno⟩

theorem exec_routingPlacement {s : State} (stop group : Nat) (hlive : s.live = true) :
    exec (.routingPlacement stop group) s = .next (s.begin.placeGroup stop group) :=
  congrArg Host.Outcome.next (if_pos hlive)

theorem placeGroup_stands {s : State} {stop : Nat} {x y : Stop} {group : Nat} (h : Follows s (s.placeGroup stop group) stop x y) :
    fixed (s.placeGroup stop group) = fixed s ∧ (s.placeGroup stop group).adMem = s.adMem ∧ (s.placeGroup stop group).reqs = s.reqs
      ∧ (s.placeGroup stop group).dirs = s.dirs := by
  have hinputs := h.inputs
  simp only [routingInputs, Prod.mk.injEq] at hinputs
  obtain ⟨hreqs, hdirs, -⟩ := hinputs
  exact ⟨(placeGroup_keeps s stop group).1, (placeGroup_keeps s stop group).2, hreqs, hdirs⟩

/-- Settles O44: one row by induction on its choices; a group by what its placement and its judgement do, one after the other. -/
theorem routing : Obligations.Routing := by
  unfold Obligations.Routing
  constructor
  · intro cap order choices fill limit cursor
    have hfilled := placeRow_filled cap order limit choices cursor fill
    exact ⟨placeRow_choices cap order limit choices cursor fill, hfilled.capped, hfilled.grown,
      placeRow_disposed cap order limit choices cursor fill⟩
  · intro stop group s hlive size stands open_ back places judges
    have hexec := exec_routingPlacement stop group hlive
    refine ⟨fun x hx hplaces => ?_, fun x p d c q hx hjudges hp hd hq => ?_, fun hno => ?_⟩
    · obtain ⟨y, hfollows, hplaced, -, -⟩ := placeGroup_follows (s := s.begin) group hx
      obtain ⟨hgroup, hnew⟩ := hplaced hplaces
      refine ⟨_, hexec, placeGroup_stands hfollows, ⟨y, hfollows.stop, hgroup, hfollows.plan, hfollows.emitted⟩,
        fun i slot d c hi hsize hlate hd hc => hnew (i, slot) (mem_groupRows.2 ⟨hi, hsize, hlate⟩) d c hd hc, fun r hr => ?_⟩
      obtain ⟨r', hr', hstop, hrow, -, -, -, hchoice, hfinal, hg⟩ := hfollows.recs r hr
      exact ⟨r', hr', hstop, hrow, hchoice, hfinal, hg⟩
    · obtain ⟨y, hfollows, -, hjudged, -⟩ := placeGroup_follows (s := s.begin) group hx
      obtain ⟨hgroup, hconfs⟩ := hjudged hjudges ⟨p, d, c, q, hp, hd, hq⟩
      refine ⟨_, hexec, placeGroup_stands hfollows, y, hfollows.stop, hgroup, hfollows.plan, fun r hr hsize hgone => ?_⟩
      exact hconfs r (mem_groupProbes.2 ⟨hr, hsize, hgone⟩)
    · rw [hexec]
      rcases hx : s.stopAt stop with _ | x
      · exact congrArg _ (placeGroup_of_none (s := s.begin) hx group)
      · obtain ⟨y, -, -, -, hsame⟩ := placeGroup_follows (s := s.begin) group hx
        exact congrArg _ (hsame (hno x hx).1 (hno x hx).2)

end Sys2Proof.Proofs.Junction
end

section
/-! Proofs about the publisher keys (R222, R223): what a write to PUBKEY_DATA and to PUBKEY_CTL does under the lock and without it, and
what a warm reset leaves of the registers. -/
namespace Sys2Proof.Proofs.Keys
open Sys2Proof Sys2Proof.Machine Sys2Proof.Laws
open Sys2Proof.Proofs.Junction (setAt_eq_set)

/-! Fields and lists. -/

/-- The only field of a word at bit 0 gives back the fields within it. -/
theorem fld_packWord_low (v : Word) {n lo len : Nat} (hn : n ≤ 32) (hlen : lo + len ≤ n) :
    fld (packWord [(0, n, fld v 0 n)]) lo len = fld v lo len := by
  have hlow : (packWord [(0, n, fld v 0 n)]).toNat = v.toNat % 2 ^ n := by
    have hlt : v.toNat % 2 ^ n < 2 ^ 32 :=
      Nat.lt_of_lt_of_le (Nat.mod_lt _ (Nat.two_pow_pos n)) (Nat.pow_le_pow_right Nat.two_pos hn)
    simp only [packWord, packN, put, fld, List.foldl_cons, List.foldl_nil, Nat.shiftRight_zero, Nat.shiftLeft_zero, Nat.zero_add,
      Nat.mod_mod, BitVec.toNat_ofNat, Nat.mod_eq_of_lt hlt]
  refine Nat.eq_of_testBit_eq fun i => ?_
  rw [fld, hlow, fld]
  simp only [Nat.testBit_mod_two_pow, Nat.testBit_shiftRight]
  by_cases hi : i < len
  · have hin : lo + i < n := by omega
    simp only [hi, hin, decide_true, Bool.true_and]
  · simp only [hi, decide_false, Bool.false_and]

/-- A field below half its range has its top bit clear. -/
theorem fld_eq_of_lt_half (v : Word) {lo len : Nat} (h : fld v lo (len + 1) < 2 ^ len) : fld v lo len = fld v lo (len + 1) := by
  unfold fld at *
  rw [← Nat.mod_eq_of_lt h, Nat.mod_mod_of_dvd _ (Nat.pow_dvd_pow 2 (Nat.le_succ len))]

theorem getD_setAt {α : Type} {xs : List α} {i : Nat} (hi : i < xs.length) (v d : α) (j : Nat) :
    (setAt xs i v).getD j d = if j = i then v else xs.getD j d := by
  by_cases hj : j = i
  · subst hj
    simp only [setAt_eq_set, List.getD_eq_getElem?_getD, List.getElem?_set_self hi, Option.getD_some, if_true]
  · simp only [setAt_eq_set, List.getD_eq_getElem?_getD, List.getElem?_set_ne (Ne.symm hj), hj, if_false]

/-! The registers of the keys. -/

theorem exec_registerWrite (off : Nat) (v : Word) (s : State) :
    exec (.registerWrite off v) s = .next (if s.cfgReady then s.begin.writeReg off v else s.begin) := rfl

theorem exec_pubkeyLock (v : Word) (s : State) :
    exec (.pubkeyLock v) s = .next (if s.cfgReady then s.begin.writeKeyCtl v else s.begin) := rfl

theorem exec_warmRstN (s : State) : exec .warmRstN s = .next (if s.live then s.begin.warmReset else s.begin) := rfl

theorem writeReg_pubkeyData (s : State) (v : Word) : s.writeReg 0x0184 v = s.writeKey v := rfl

theorem writeReg_pubkeyCtl (s : State) (v : Word) : s.writeReg 0x0188 v = s.writeKeyCtl v := rfl

theorem keysLocked_begin (s : State) : s.begin.keysLocked = decide (fld (s.reg 0x0188) 16 1 = 1) := rfl

theorem writeKey_of_locked {s : State} (h : s.keysLocked = true) (v : Word) : s.writeKey v = s := by simp only [State.writeKey, h, if_true]

theorem writeKeyCtl_of_locked {s : State} (h : s.keysLocked = true) (v : Word) : s.writeKeyCtl v = s := by
  simp only [State.writeKeyCtl, h, if_true]

/-- The slots with word `w` of slot `k` replaced. -/
def withKeyWord (keys : List (List Word)) (k w : Nat) (v : Word) : List (List Word) := setAt keys k (setAt (keys.getD k []) w v)

theorem writeKey_of_open {s : State} (h : s.keysLocked = false) (v : Word) :
    s.writeKey v = { s with keys := withKeyWord s.keys (fld (s.reg 0x0180) 0 4) (fld (s.reg 0x0180) 4 4) v } := by
  simp only [State.writeKey, h, Bool.false_eq_true, if_false]
  rfl

/-- PUBKEY_CTL stores VALID and LOCK, its bits 16:0. -/
theorem writeKeyCtl_of_open {s : State} (h : s.keysLocked = false) (v : Word) :
    s.writeKeyCtl v = s.setReg 0x0188 (packWord [(0, 17, fld v 0 17)]) := by
  simp only [State.writeKeyCtl, h, Bool.false_eq_true, if_false]
  rfl

/-- One word of one slot is replaced, and no other. -/
theorem getD_withKeyWord {keys : List (List Word)} {k w : Nat} (hk : k < keys.length) (hw : w < (keys.getD k []).length) (v : Word)
    (k' w' : Nat) : ((withKeyWord keys k w v).getD k' []).getD w' 0 = if k' = k ∧ w' = w then v else (keys.getD k' []).getD w' 0 := by
  rw [withKeyWord, getD_setAt hk]
  by_cases hkk : k' = k
  · subst hkk
    simp only [if_true, getD_setAt hw, true_and]
  · simp only [hkk, if_false, false_and]

/-- A read of PUBKEY_DATA shows the selected word. -/
theorem readReg_pubkeyData {s : State} (h : s.cfgReady = true) :
    s.readReg 0x0184 = (s.keys.getD (fld (s.reg 0x0180) 0 4) []).getD (fld (s.reg 0x0180) 4 3) 0 := by
  simp only [State.readReg, h]
  rfl

/-! The lock (R223). -/

/-- A warm reset leaves the engine QUIESCED and STOP_VALID low, and the rest of what few commands touch as it was (R545). -/
theorem warmReset_fixed (s : State) : fixed s.warmReset = { fixed s with engine := .quiesced, pin := none } := by
  unfold State.warmReset
  simp only [startMoves_keeps, finishWhere_keeps, poisonObject_keeps, foldl_fixed, count_keeps, implies_true]
  generalize hu : State.dropWrites _ _ = u
  have hfixed : fixed u = fixed s := by
    simp only [← hu, dropWrites_keeps, restartMoves_keeps, foldl_fixed, implies_true, discardRows_keeps, loseLinks_keeps,
      undoHead_keeps, losePlatforms_fixed]
  rw [← hfixed]
  rfl

theorem warmReset_reg (s : State) (off : Nat) : s.warmReset.reg off = s.reg off := by
  have hregs : s.warmReset.regs = s.regs := congrArg Fixed.regs (warmReset_fixed s)
  simp only [State.reg, hregs]

/-- Settles O20: under the lock each write leaves what it finds, and a warm reset leaves every register. -/
theorem keyLock : Obligations.KeyLock := by
  unfold Obligations.KeyLock
  intro v s hlock
  have hlocked : s.begin.keysLocked = true := (keysLocked_begin s).trans (decide_eq_true hlock)
  refine ⟨?_, ?_, ?_, fun t ht => ?_⟩
  · rw [exec_registerWrite, writeReg_pubkeyData, writeKey_of_locked hlocked, ite_self]
  · rw [exec_registerWrite, writeReg_pubkeyCtl, writeKeyCtl_of_locked hlocked, ite_self]
  · rw [exec_pubkeyLock, writeKeyCtl_of_locked hlocked, ite_self]
  · rw [exec_warmRstN] at ht
    obtain rfl := Host.Outcome.next.inj ht
    split
    · rw [warmReset_reg]
      exact hlock
    · exact hlock

/-! Writing the keys (R222). -/

/-- Settles O21: PUBKEY_CTL by what its word holds, PUBKEY_DATA by what replacing one word of one slot does to each word. -/
theorem keysWritten : Obligations.KeysWritten := by
  unfold Obligations.KeysWritten
  intro v s hready hlock hregs
  have hopen : s.begin.keysLocked = false := (keysLocked_begin s).trans (decide_eq_false (by omega))
  constructor
  · have hexists : 0x0188 ∈ s.begin.regs.map (·.1) := by rw [begin_regs, hregs]; decide
    have hexec : exec (.pubkeyLock v) s = .next (s.begin.setReg 0x0188 (packWord [(0, 17, fld v 0 17)])) := by
      rw [exec_pubkeyLock, hready, if_pos rfl, writeKeyCtl_of_open hopen]
    refine ⟨_, hexec, rfl, ?_, ?_, fun b hb => reg_setReg_ne s.begin _ hb⟩
    · rw [reg_setReg _ _ hexists, fld_packWord_low v (by decide) (by decide)]
    · rw [reg_setReg _ _ hexists, fld_packWord_low v (by decide) (by decide)]
  · intro hslots hwords hword
    have hk : fld (s.reg 0x0180) 0 4 < s.keys.length := hslots ▸ Nat.mod_lt _ (by decide)
    have hw : fld (s.reg 0x0180) 4 4 < (s.keys.getD (fld (s.reg 0x0180) 0 4) []).length := by
      rw [List.getD_eq_getElem?_getD, List.getElem?_eq_getElem hk, Option.getD_some, hwords _ (List.getElem_mem hk)]
      exact hword
    have hkeys := getD_withKeyWord hk hw v
    refine ⟨_, by rw [exec_registerWrite, hready, if_pos rfl, writeReg_pubkeyData, writeKey_of_open hopen], rfl, ?_,
      fun k w _ _ hne => (hkeys k w).trans (if_neg hne)⟩
    refine (readReg_pubkeyData ?_).trans ((hkeys _ _).trans (if_pos ⟨rfl, fld_eq_of_lt_half _ hword⟩))
    exact hready

end Sys2Proof.Proofs.Keys
end

section
/-! SUPPORT. What the block counts of bad reads and of poisoning: TRAIN_ERR, the counters of re-reads, refetches and poisoned objects,
and the error bits POISONED and PLATFORM_PARITY. The operations of a tick's program, of completions and of interrupts leave it all. -/
namespace Sys2Proof.Proofs.Faults
open Sys2Proof Sys2Proof.Machine Sys2Proof.Laws

/-- The counters of bad reads and of poisoning (R303 to R305). -/
def faultCnts : List Cnt := [.depotReread, .wagonReread, .parityRefetch, .poisoned]

/-- The error bits of parity and of poisoning. -/
def faultErrs : List Err := [.platformParity, .poisoned]

/-- TRAIN_ERR, those counters and those bits of a state. -/
def faults (s : State) : List (Nat × Nat) × List Nat × List Bool := (s.trainErr, faultCnts.map s.cntVal, faultErrs.map s.err)

theorem trainErr_of_faults {s t : State} (h : faults t = faults s) : t.trainErr = s.trainErr := congrArg (·.1) h

theorem cntVal_of_faults {s t : State} (h : faults t = faults s) {c : Cnt} (hc : c ∈ faultCnts) : t.cntVal c = s.cntVal c :=
  List.map_inj_left.1 (congrArg (·.2.1) h) c hc

theorem err_of_faults {s t : State} (h : faults t = faults s) {e : Err} (he : e ∈ faultErrs) : t.err e = s.err e :=
  List.map_inj_left.1 (congrArg (·.2.2) h) e he

/-- A record update of other fields. -/
theorem faults_mk {x : State} {pending now free build fuses powered rstN warmN wrapper hb tickAck stopDone regs keys budget shuntBw
    shuntCfg yardCfg manCfg exitCfg tableCfg negot fw reserve errFirst errTick irqPend complAt complDue tokenAt tokenDue engine
    quiesceAt trains rings taken unsol writes reads nextId links xch tick last lines inputs frames digest reqs gens opens finals used2
    used4 dirs charges headRuns tmap stale tierOld tenants rowUps flips lastSeq specials cache fetched bands results snaps rb power
    adMem} :
    faults (State.mk pending now free build fuses powered rstN warmN wrapper hb tickAck stopDone regs keys budget shuntBw shuntCfg
      yardCfg manCfg exitCfg tableCfg negot fw reserve x.errs errFirst errTick irqPend complAt complDue tokenAt tokenDue engine
      quiesceAt trains rings taken unsol writes reads nextId links xch tick last lines inputs frames digest reqs gens opens finals used2
      used4 dirs charges headRuns tmap stale tierOld tenants rowUps flips lastSeq specials x.trainErr cache fetched bands results snaps
      rb power x.log adMem) = faults x := rfl

theorem foldl_faults {α : Type} {f : State → α → State} (hf : ∀ s a, faults (f s a) = faults s) (xs : List α) (s : State) :
    faults (xs.foldl f s) = faults s := by
  induction xs generalizing s with
  | nil => rfl
  | cons x xs ih => exact (ih _).trans (hf s x)

/-! Counters and histograms. -/

/-- Counting elsewhere leaves the counts of faults. -/
theorem count_faults {c : Cnt} (hc : c ∉ faultCnts) (s : State) (n : Nat) : faults (s.count c n) = faults s := by
  have hcnt : faultCnts.map (s.count c n).cntVal = faultCnts.map s.cntVal :=
    List.map_congr_left fun d hd => (cntVal_count s c d n).trans (if_neg fun h : c = d => hc (h ▸ hd))
  rw [faults, hcnt]
  rfl

theorem histAdd_faults (s : State) (h bin n : Nat) : faults (s.histAdd h bin n) = faults s := rfl

/-! The wire, and the traffic with the host. -/

theorem pumpOne_faults (s : State) (c : Nat) : faults (s.pumpOne c) = faults s := by
  simp only [State.pumpOne, State.setLink, faults_mk, apply_ite faults, ite_self]

theorem pumpLink_faults (s : State) (c : Nat) : faults (s.pumpLink c) = faults s := by
  simp only [State.pumpLink, pumpOne_faults, apply_ite faults, ite_self]

theorem send_faults (s : State) (c : Nat) (fs : List Flit) : faults (s.send c fs) = faults s := pumpLink_faults _ _

theorem sendWrite_faults (s : State) (w : HostWrite) : faults (s.sendWrite w).1 = faults s := by
  unfold State.sendWrite
  split
  · rfl
  · dsimp only
    split
    · exact send_faults _ _ _
    · rfl

theorem sendReady_faults (s : State) : faults s.sendReady = faults s := by
  have hfold (ws : List HostWrite) (a : State × List HostWrite) :
      faults (ws.foldl (fun (a : State × List HostWrite) w => ((a.1.sendWrite w).1, a.2 ++ [(a.1.sendWrite w).2])) a).1 = faults a.1 := by
    induction ws generalizing a with
    | nil => rfl
    | cons w ws ih => exact (ih _).trans (sendWrite_faults _ _)
  exact hfold s.writes (s, [])

theorem addWrite_faults (s : State) (k : WKind) (a : Nat) (d : List Byte) (after : List Nat) : faults (s.addWrite k a d after) = faults s :=
  (sendReady_faults _).trans (foldl_faults (fun _ _ => faults_mk) _ _)

theorem raise_faults (s : State) (src : Nat) : faults (s.raise src) = faults s := by
  simp only [State.raise, faults_mk, addWrite_faults, apply_ite faults, ite_self]

theorem raiseCompl_faults (s : State) : faults s.raiseCompl = faults s := by
  unfold State.raiseCompl
  split <;> simp only [faults_mk, raise_faults, apply_ite faults, ite_self]

theorem raiseToken_faults (s : State) : faults s.raiseToken = faults s := by
  unfold State.raiseToken
  split <;> simp only [faults_mk, raise_faults, apply_ite faults, ite_self]

theorem due_faults (s : State) (src : Nat) : faults (s.due src) = faults s := by
  simp only [State.due, raise_faults, raiseCompl_faults, raiseToken_faults, apply_ite faults, ite_self]

theorem releaseOnce_faults (s : State) : faults s.releaseOnce = faults s :=
  (sendReady_faults _).trans (foldl_faults due_faults _ _)

theorem raiseAfter_faults (s : State) (src : Nat) (after : List Nat) : faults (s.raiseAfter src after) = faults s := releaseOnce_faults _

/-! Errors (R572). -/

theorem bit_eq_ctorIdx (e : Err) : e.bit = e.ctorIdx := by cases e <;> rfl

theorem bit_inj {e f : Err} (h : e.bit = f.bit) : e = f := by
  rw [bit_eq_ctorIdx, bit_eq_ctorIdx] at h
  rw [← Err.ofNat_ctorIdx e, h, Err.ofNat_ctorIdx]

theorem bit_lt (e : Err) : e.bit < 17 := by cases e <;> decide

theorem errIrq_faults (s : State) : faults s.errIrq = faults s := by
  simp only [State.errIrq, raise_faults, apply_ite faults, ite_self]

/-- The state with an error's bit set, before its interrupt. -/
def withErr (s : State) (e : Err) : State := { s with errs := s.errs ||| BitVec.ofNat 17 (2 ^ e.bit) }

theorem err_withErr (s : State) (e f : Err) : (withErr s e).err f = (s.err f || decide (e = f)) := by
  have hbit : (BitVec.ofNat 17 (2 ^ e.bit)).getLsbD f.bit = decide (e = f) := by
    rw [BitVec.getLsbD_ofNat, Nat.testBit_two_pow, decide_eq_true (bit_lt f), Bool.true_and]
    exact decide_eq_decide.2 ⟨bit_inj, fun h : e = f => h ▸ rfl⟩
  rw [State.err, withErr, BitVec.getLsbD_or, hbit]
  rfl

theorem setErr_faults_withErr (s : State) (e : Err) : faults (s.setErr e) = faults (withErr s e) := errIrq_faults _

/-- An error elsewhere leaves the bits of faults. -/
theorem setErr_faults {e : Err} (he : e ∉ faultErrs) (s : State) : faults (s.setErr e) = faults s := by
  have herrs : faultErrs.map (withErr s e).err = faultErrs.map s.err := List.map_congr_left fun f hf => by
    rw [err_withErr, decide_eq_false fun h : e = f => he (h ▸ hf), Bool.or_false]
  rw [setErr_faults_withErr, faults, herrs]
  rfl

theorem errIf_faults {e : Err} (he : e ∉ faultErrs) (s : State) (c : Bool) : faults (s.errIf c e) = faults s := by
  simp only [State.errIf, setErr_faults he, apply_ite faults, ite_self]

/-! Completions. -/

theorem setRing_faults (s : State) (k : Nat) (r : Ring) : faults (s.setRing k r) = faults s := rfl

theorem statusLine_faults (s : State) (k : Nat) : faults (s.statusLine k) = faults s := addWrite_faults _ _ _ _ _

theorem writeRecord_faults (s : State) (k : Nat) (data : List Byte) (resv : Nat) (srcs : List Nat) :
    faults (s.writeRecord k data resv srcs) = faults s := by
  simp only [State.writeRecord, addWrite_faults, raiseAfter_faults, setRing_faults, statusLine_faults, foldl_faults, implies_true]

theorem finish_faults (s : State) (tk : Taken) (a : Answer) : faults (s.finish tk a) = faults s := writeRecord_faults _ _ _ _ _

theorem doneAdd_faults (s : State) (tk : Taken) (status : Nat) : faults (s.doneAdd tk status) = faults s := by
  simp only [State.doneAdd, faults_mk, apply_ite faults, ite_self]

theorem finishRows_faults (s : State) (tk : Taken) (a : Answer) : faults (s.finishRows tk a) = faults s :=
  (finish_faults _ _ _).trans (doneAdd_faults _ _ _)

theorem unsolWrite_faults (s : State) (u : Unsol) : faults (s.unsolWrite u) = faults s := writeRecord_faults _ _ _ _ _

theorem unsolEvent_faults (s : State) (status r0 r1 : Nat) : faults (s.unsolEvent status r0 r1) = faults s := by
  simp (disch := decide) only [State.unsolEvent, faults_mk, count_faults, setErr_faults, unsolWrite_faults, apply_ite faults, ite_self]

/-! Row updates. -/

theorem updRows_faults (s : State) (slot : Nat) (f : Nat → TRow → TRow) : faults (s.updRows slot f) = faults s := by
  unfold State.updRows
  split
  · rfl
  · split <;> rfl

theorem endRows_faults (s : State) (slot : Nat) (a : Answer) : faults (s.endRows slot a) = faults s := by
  simp only [State.endRows, State.syncPending, updRows_faults, finishRows_faults, faults_mk, foldl_faults, implies_true, apply_ite faults,
    ite_self]

/-! Reads over FM. -/

theorem sendRequests_faults (s : State) (id n : Nat) : faults (s.sendRequests id n) = faults s := by
  induction n generalizing s with
  | zero => rfl
  | succ n ih =>
    rw [State.sendRequests]
    split
    · rfl
    · simp only [ih, send_faults, faults_mk, apply_ite faults, ite_self]

theorem readWagon_faults (s : State) (a : Nat) (at_ : Nat × Word × Nat) : faults (s.readWagon a at_) = faults s := by
  simp only [State.readWagon, State.addRead, sendRequests_faults, faults_mk, apply_ite faults, ite_self]

theorem startWriteBack_faults (s : State) (a : Nat) : faults (s.startWriteBack a) = faults s := by
  simp only [State.startWriteBack, addWrite_faults, faults_mk, apply_ite faults, ite_self]

theorem writeBackOf_faults (s : State) (a : Nat) : faults (s.writeBackOf a) = faults s := by
  unfold State.writeBackOf
  split
  · rfl
  · dsimp only
    split <;> simp only [startWriteBack_faults]

/-! Fetches. -/

theorem updTick_faults (s : State) (f : TickSt → TickSt) : faults (s.updTick f) = faults s := rfl

theorem updRun_faults (s : State) (f : Run → Run) : faults (s.updRun f) = faults s := rfl

theorem refetch_faults (s : State) (train a : Nat) : faults (s.refetch train a) = faults s := by
  unfold State.refetch
  split
  · rfl
  · exact readWagon_faults _ _ _

theorem takeFrame_faults (s : State) (train group : Nat) (e : DWord) : faults (s.takeFrame train group e) = faults s := by
  unfold State.takeFrame
  split
  · rfl
  · split
    · rfl
    · simp only [readWagon_faults, faults_mk, apply_ite faults, ite_self]

theorem issueWriteBacks_faults (s : State) (group : Nat) (as : List Nat) : faults (s.issueWriteBacks group as) = faults s := by
  simp only [State.issueWriteBacks, updRun_faults, writeBackOf_faults, faults_mk, foldl_faults, implies_true, apply_ite faults, ite_self]

theorem issueFetchSlot_faults (s : State) (w beats : Nat) : faults (s.issueFetchSlot w beats) = faults s := by
  simp only [State.issueFetchSlot, updRun_faults, takeFrame_faults, issueWriteBacks_faults, foldl_faults, implies_true, apply_ite faults,
    ite_self]

theorem issueFetch_faults (s : State) (l : TLine) (beats : Nat) : faults (s.issueFetch l beats) = faults s := by
  simp only [State.issueFetch, updRun_faults, issueFetchSlot_faults, foldl_faults, implies_true]

/-! Stops: their masks, their rows, their end. -/

theorem updStop_faults (s : State) (stop : Nat) (f : Stop → Stop) : faults (s.updStop stop f) = faults s := rfl

theorem updReq_faults (s : State) (slot : Nat) (f : Req → Req) : faults (s.updReq slot f) = faults s := rfl

theorem failLate_faults (s : State) : faults s.failLate = faults s := by
  simp only [State.failLate, updTick_faults, apply_ite faults, ite_self]

theorem sendMask_faults (s : State) (kind stop : Nat) (rows : List Nat) : faults (s.sendMask kind stop rows) = faults s :=
  send_faults _ _ _

theorem lateMask_faults (s : State) (x : Stop) (counted : Bool) : faults (s.lateMask x counted) = faults s := by
  simp (disch := decide) only [State.lateMask, State.countLate, updTick_faults, count_faults, sendMask_faults, apply_ite faults, ite_self]

theorem exitMaskOf_faults (s : State) (x : Stop) : faults (s.exitMaskOf x) = faults s := by
  simp (disch := decide) only [State.exitMaskOf, foldl_faults fun s slot => updReq_faults s slot _, count_faults, updTick_faults,
    updStop_faults, sendMask_faults, apply_ite faults, ite_self]

theorem emitRow_faults (s : State) (ports kind stop row : Nat) (zero : Bool) (el : Nat → Word) :
    faults (s.emitRow ports kind stop row zero el) = faults s := by
  simp (disch := decide) only [State.emitRow, updStop_faults, count_faults, faults_mk, send_faults, apply_ite faults, ite_self]

theorem tryDone_faults (s : State) (n : Nat) : faults (s.tryDone n) = faults s := by
  induction n generalizing s with
  | zero => rfl
  | succ n ih =>
    rw [State.tryDone]
    split
    · rfl
    · simp only [ih, faults_mk, apply_ite faults, ite_self]

theorem pumpDone_faults (s : State) : faults s.pumpDone = faults s := tryDone_faults _ _

theorem endStop_faults (s : State) (stop : Nat) (counted cut : Bool) : faults (s.endStop stop counted cut) = faults s := by
  unfold State.endStop
  split
  · rfl
  · simp only [State.fillRecs, pumpDone_faults, updStop_faults, exitMaskOf_faults, updTick_faults, lateMask_faults, apply_ite faults,
      ite_self]

theorem finishHead_faults (s : State) : faults s.finishHead = faults s := by
  unfold State.finishHead
  split
  · rfl
  · simp only [State.emitResults, endStop_faults, faults_mk, send_faults, apply_ite faults, ite_self]

theorem takeTokens_faults (s : State) (x : Stop) : faults (s.takeTokens x) = faults s := rfl

theorem gatherStop_faults (s : State) (stop : Nat) : faults (s.gatherStop stop) = faults s := by
  unfold State.gatherStop
  split
  · rfl
  · simp (disch := decide) only [updStop_faults, faults_mk, updTick_faults, foldl_faults fun s o => histAdd_faults s _ _ _, count_faults,
      errIf_faults, takeTokens_faults, apply_ite faults, ite_self]

theorem emitEmbed_faults (s : State) (ports : Nat) (x : Stop) (row : Nat) : faults (s.emitEmbed ports x row) = faults s := by
  simp only [State.emitEmbed, updStop_faults, emitRow_faults, apply_ite faults, ite_self]

theorem emitRows_faults (s : State) (stop n ports : Nat) : faults (s.emitRows stop n ports) = faults s := by
  unfold State.emitRows
  extract_lets u
  have hu : faults u = faults s := by
    simp only [u]
    split
    · simp only [gatherStop_faults, apply_ite faults, ite_self]
    · rfl
  split
  · exact hu
  · simp only [hu, updStop_faults, emitEmbed_faults, emitRow_faults, foldl_faults, implies_true, apply_ite faults, ite_self]

/-! The end of a stop's optimiser steps. -/

theorem putWagon_faults (d : Dir) (c : Copy) (k : StepPlan) (p : Part) (s : State) (x : SteppedWagon) :
    faults (s.putWagon d c k p x) = faults s := by
  have hkeep (s : State) (tick a n : Nat) : faults (s.keepTier tick a n) = faults s := by
    simp only [State.keepTier, faults_mk, apply_ite faults, ite_self]
  simp only [State.putWagon, faults_mk, hkeep]

theorem optStep_faults (x : Stop) (s : State) (g : Seg) : faults (s.optStep x g) = faults s := by
  unfold State.optStep
  split
  · split
    · split
      · rfl
      · simp (disch := decide) only [State.abandonStep, updTick_faults, count_faults, foldl_faults (putWagon_faults _ _ _ _), faults_mk,
          apply_ite faults, ite_self]
    · rfl
  · rfl

theorem optSteps_faults (s : State) (x : Stop) : faults (s.optSteps x) = faults s := by
  simp only [State.optSteps, optStep_faults, foldl_faults, implies_true, apply_ite faults, ite_self]

/-! The opening and closing of stops. -/

theorem openStop_faults (s : State) (stop : Nat) : faults (s.openStop stop) = faults s := by
  unfold State.openStop
  dsimp only
  split
  · split <;> rfl
  · simp (disch := decide) only [updTick_faults, setErr_faults, apply_ite faults, ite_self]

theorem cutStop_faults (s : State) (x : Stop) : faults (s.cutStop x) = faults s := by
  simp only [State.cutStop, endStop_faults, updStop_faults, takeTokens_faults, updTick_faults, lateMask_faults, apply_ite faults, ite_self]

theorem closeStop_faults (s : State) (x : Stop) : faults (s.closeStop x) = faults s := by
  unfold State.closeStop
  extract_lets hit shut gone errored u
  have hu : faults u = faults s := errIf_faults (by decide) shut _
  split
  · rfl
  · split
    · exact (pumpDone_faults _).trans (cutStop_faults _ _)
    · simp only [endStop_faults, takeTokens_faults, gatherStop_faults, finishHead_faults, hu, apply_ite faults, ite_self]

theorem openClosed_faults (s : State) (stop : Nat) : faults (s.openClosed stop) = faults s := by
  unfold State.openClosed
  dsimp only
  split <;> simp only [closeStop_faults, openStop_faults, updTick_faults]

theorem openShut_faults (s : State) (n : Nat) : faults (s.openShut n) = faults s := by
  induction n generalizing s with
  | zero => rfl
  | succ n ih =>
    rw [State.openShut]
    split
    · rfl
    · simp only [ih, openClosed_faults, apply_ite faults, ite_self]

theorem ensureOpen_faults (s : State) : faults s.ensureOpen = faults s := by
  unfold State.ensureOpen
  dsimp only
  split <;> simp only [openStop_faults, openShut_faults, apply_ite faults, ite_self]

/-! The program's lines. -/

theorem passWait_faults (s : State) (l : TLine) : faults (s.passWait l) = faults s := by
  have hadmit (c : ConsPlan) : faults (s.admitGroup c) = faults s := by
    unfold State.admitGroup
    split
    · simp only [updRun_faults, apply_ite faults, ite_self]
    · rfl
  unfold State.passWait
  dsimp only
  split
  · rfl
  · split
    · exact hadmit _
    · rfl
  · rfl
  · rfl

theorem relieve_faults (s : State) (l : TLine) : faults (s.relieve l) = faults s := by
  unfold State.relieve
  split
  · rfl
  · split
    · split
      · split
        · exact emitRows_faults _ _ _ _
        · rfl
      · rfl
    · rfl

theorem sendCons_faults (s : State) (num : Nat) : faults (s.sendCons num) = faults s := by
  unfold State.sendCons State.updCons State.markEnded
  split
  · rfl
  · simp (disch := decide) only [updTick_faults, send_faults, count_faults, faults_mk, apply_ite faults, ite_self]

theorem sendDigest_faults (s : State) : faults s.sendDigest = faults s := by
  simp only [State.sendDigest, send_faults, faults_mk, apply_ite faults, ite_self]

theorem issueXch_faults (s : State) (l : TLine) : faults (s.issueXch l) = faults s := by
  simp only [State.issueXch, sendCons_faults, updRun_faults, sendDigest_faults, apply_ite faults, ite_self]

theorem issueAct_faults (s : State) (l : TLine) (beats : Nat) : faults (s.issueAct l beats) = faults s := by
  unfold State.issueAct
  dsimp only
  split
  · rfl
  · split
    · split
      · exact emitRows_faults _ _ _ _
      · rfl
    · split
      · split
        · simp only [exitMaskOf_faults, lateMask_faults, apply_ite faults, ite_self]
        · rfl
      · split
        · split
          · simp only [lateMask_faults, apply_ite faults, ite_self]
          · rfl
        · rfl

theorem issueLine_faults (s : State) (l : TLine) : faults (s.issueLine l) = faults s := by
  simp only [State.issueLine, State.issueTrains, issueAct_faults, issueXch_faults, issueFetch_faults, updRun_faults]

theorem stopEnd_faults {s t : State} {stop : Nat} (h : s.stopEnd stop = some t) : faults t = faults s := by
  unfold State.stopEnd at h
  split at h
  case isTrue => exact congrArg faults (Option.some.inj h).symm
  split at h
  case h_1 => cases h
  split at h
  case isTrue => exact congrArg faults (Option.some.inj h).symm
  split at h
  case isTrue => cases h
  dsimp only at h
  split at h
  case isTrue =>
    split at h
    case h_2 => cases h
    split at h
    case isFalse => cases h
    obtain rfl := Option.some.inj h
    exact finishHead_faults s
  case isFalse =>
    split at h
    case h_1 => cases h
    split at h
    case isFalse => cases h
    obtain rfl := Option.some.inj h
    simp only [endStop_faults, optSteps_faults, emitRows_faults]

theorem runLine_faults {s t : State} {l : TLine} {fetchDone credit : Bool} (h : s.runLine l fetchDone credit = some t) :
    faults t = faults s := by
  unfold State.runLine at h
  split at h
  case isTrue => cases h
  split at h
  case h_3 =>
    split at h
    case isFalse => cases h
    obtain rfl := Option.some.inj h
    simp only [updRun_faults, issueLine_faults, passWait_faults]
  case h_4 =>
    obtain ⟨u, hu, rfl⟩ := Option.map_eq_some_iff.1 h
    simp only [updRun_faults, issueLine_faults, stopEnd_faults hu]
  all_goals
    obtain rfl := Option.some.inj h
    simp only [updRun_faults, updStop_faults, issueLine_faults]

theorem runLines_faults (s : State) (fetchDone credit : Bool) (n : Nat) : faults (s.runLines fetchDone credit n) = faults s := by
  induction n generalizing s fetchDone credit with
  | zero => rfl
  | succ n ih =>
    rw [State.runLines]
    split
    · rfl
    · split
      · rfl
      · split
        · exact updRun_faults _ _
        · split
          · exact relieve_faults _ _
          · next hline => exact (ih _ _ _).trans ((runLine_faults hline).trans (relieve_faults _ _))

/-- A tick's program leaves what is counted of faults. -/
theorem proceed_faults (s : State) (fetchDone credit : Bool) : faults (s.proceed fetchDone credit) = faults s :=
  (runLines_faults _ _ _ _).trans (ensureOpen_faults _)

end Sys2Proof.Proofs.Faults
end

section
/-! Proofs about bad reads and parity errors (R303 to R305, R351, R590): what poisoning leaves of the directory, what TRAIN_ERR counts,
and the frame into which a clean wagon is fetched again. -/
namespace Sys2Proof.Proofs.BadReads
open Sys2Proof Sys2Proof.Machine Sys2Proof.Laws
open Sys2Proof.Proofs.Junction (setAt_eq_set insertBy_perm sortBy_perm)
open Sys2Proof.Proofs.Faults

/-! Lists. -/

theorem find?_putKey {α : Type} (key : α → Nat) (v : α) (xs : List α) (k : Nat) :
    (putKey key v xs).find? (fun x => key x = k) = if key v = k then some v else xs.find? fun x => key x = k := by
  induction xs with
  | nil => by_cases h : key v = k <;> simp only [putKey, List.find?_cons, List.find?_nil, h, decide_true, decide_false, if_true, if_false]
  | cons x xs ih =>
    rw [putKey]
    split
    · by_cases h : key v = k <;> simp only [List.find?_cons, h, decide_true, decide_false, if_true, if_false]
    · split
      · next hkey => by_cases h : key v = k <;> simp only [List.find?_cons, ← hkey, h, decide_true, decide_false, if_true, if_false]
      · next hkey =>
        rw [List.find?_cons, List.find?_cons, ih]
        by_cases h : key v = k
        · have hx : key x ≠ k := fun hx => hkey (h.trans hx.symm)
          simp only [h, hx, decide_false, if_true]
        · simp only [h, if_false]

theorem mem_insertBy {α : Type} (lt : α → α → Bool) (v : α) (xs : List α) (a : α) : a ∈ insertBy lt v xs ↔ a = v ∨ a ∈ xs :=
  (insertBy_perm lt v xs).mem_iff.trans List.mem_cons

theorem insertBy_pairwise_le {xs : List Nat} (h : xs.Pairwise (· ≤ ·)) (v : Nat) :
    (insertBy (fun a b => decide (a < b)) v xs).Pairwise (· ≤ ·) := by
  induction xs with
  | nil => exact List.pairwise_singleton _ _
  | cons x xs ih =>
    obtain ⟨hx, htail⟩ := List.pairwise_cons.1 h
    rw [insertBy]
    split
    · next hlt =>
      refine List.pairwise_cons.2 ⟨fun z hz => ?_, ih htail⟩
      rcases (mem_insertBy _ _ _ _).1 hz with rfl | hz
      · exact Nat.le_of_lt (of_decide_eq_true hlt)
      · exact hx z hz
    · next hge =>
      have hvx : v ≤ x := Nat.le_of_not_lt fun hlt => hge (decide_eq_true hlt)
      refine List.pairwise_cons.2 ⟨fun z hz => ?_, h⟩
      rcases List.mem_cons.1 hz with rfl | hz
      · exact hvx
      · exact Nat.le_trans hvx (hx z hz)

theorem sortBy_pairwise_le (xs : List Nat) : (sortBy (fun a b => decide (a < b)) xs).Pairwise (· ≤ ·) := by
  induction xs with
  | nil => exact .nil
  | cons x xs ih => exact insertBy_pairwise_le ih x

theorem mem_dedup {α : Type} [DecidableEq α] (xs : List α) (a : α) : a ∈ dedup xs ↔ a ∈ xs := by
  induction xs using dedup.induct with
  | case1 => rfl
  | case2 x => rfl
  | case3 x xs ih => rw [dedup, if_pos rfl, ih]; simp
  | case4 x y xs hne ih => rw [dedup, if_neg hne, List.mem_cons, ih, List.mem_cons (l := y :: xs)]

/-- Without its repetitions an ascending list ascends strictly. -/
theorem dedup_pairwise_lt {xs : List Nat} (h : xs.Pairwise (· ≤ ·)) : (dedup xs).Pairwise (· < ·) := by
  induction xs using dedup.induct with
  | case1 => exact .nil
  | case2 x => exact List.pairwise_singleton _ _
  | case3 x xs ih => rw [dedup, if_pos rfl]; exact ih h.of_cons
  | case4 x y xs hne ih =>
    rw [dedup, if_neg hne]
    obtain ⟨hx, htail⟩ := List.pairwise_cons.1 h
    refine List.pairwise_cons.2 ⟨fun z hz => ?_, ih htail⟩
    have hxy : x < y := Nat.lt_of_le_of_ne (hx y List.mem_cons_self) hne
    rcases List.mem_cons.1 ((mem_dedup _ _).1 hz) with rfl | hz
    · exact hxy
    · exact Nat.lt_of_lt_of_le hxy ((List.pairwise_cons.1 htail).1 z hz)

theorem sortNat_pairwise_lt (xs : List Nat) : (sortNat xs).Pairwise (· < ·) := dedup_pairwise_lt (sortBy_pairwise_le xs)

theorem mem_sortNat (xs : List Nat) (a : Nat) : a ∈ sortNat xs ↔ a ∈ xs := (mem_dedup _ _).trans (sortBy_perm _ _).mem_iff

theorem le_lowestFree (xs : List Nat) (n : Nat) : n ≤ lowestFree xs n := by
  induction xs generalizing n with
  | nil => exact Nat.le_refl n
  | cons x xs ih =>
    rw [lowestFree]
    split
    · exact Nat.le_of_succ_le (ih (n + 1))
    · exact Nat.le_refl n

/-- The lowest free number is not among the used ones. -/
theorem lowestFree_notMem {xs : List Nat} {n : Nat} (h : xs.Pairwise (· < ·)) (hn : ∀ x ∈ xs, n ≤ x) : lowestFree xs n ∉ xs := by
  induction xs generalizing n with
  | nil => exact List.not_mem_nil
  | cons x xs ih =>
    obtain ⟨hx, htail⟩ := List.pairwise_cons.1 h
    have hnx := hn x List.mem_cons_self
    rw [lowestFree, List.mem_cons, not_or]
    split
    · next heq =>
      subst heq
      exact ⟨Nat.ne_of_gt (le_lowestFree xs (x + 1)), ih htail hx⟩
    · next hne => exact ⟨Ne.symm hne, fun hmem => absurd (hx n hmem) (Nat.not_lt.2 hnx)⟩

/-! The directory. -/

theorem dirAt_setDir (s : State) (d : Dir) (k : Nat) : (s.setDir d).dirAt k = if d.slot = k then some d else s.dirAt k :=
  find?_putKey Dir.slot d s.dirs k

theorem slot_of_dirAt {s : State} {k : Nat} {d : Dir} (h : s.dirAt k = some d) : d.slot = k := by
  exact of_decide_eq_true (List.find?_some (p := fun d : Dir => decide (d.slot = k)) h)

theorem dirs_of_calm {s t : State} (h : calm t = calm s) : t.dirs = s.dirs := show (calm t).dirs = (calm s).dirs from h ▸ rfl

theorem rowUps_of_calm {s t : State} (h : calm t = calm s) : t.rowUps = s.rowUps := show (calm t).rowUps = (calm s).rowUps from h ▸ rfl

theorem dirAt_of_dirs {s t : State} (h : t.dirs = s.dirs) (k : Nat) : t.dirAt k = s.dirAt k := congrArg (List.find? _) h

/-! The end of a table's row updates (R343, R351). -/

/-- A record with its change rows mapped, by their numbers. -/
def mapRows (f : Nat → TRow → TRow) (d : Dir) : Dir :=
  { d with cur := d.cur.map fun c => { c with rows := c.rows.zipIdx.map fun r => f r.2 r.1 } }

theorem mapRows_of_none {d : Dir} (h : d.cur = none) (f : Nat → TRow → TRow) : mapRows f d = d := by
  obtain ⟨⟩ := d
  subst h
  rfl

theorem dirAt_updRows (s : State) (slot : Nat) (f : Nat → TRow → TRow) (k : Nat) :
    (s.updRows slot f).dirAt k = if slot = k then (s.dirAt k).map (mapRows f) else s.dirAt k := by
  by_cases hk : slot = k
  case neg =>
    rw [if_neg hk]
    unfold State.updRows
    split
    · rfl
    · next d hd =>
      split
      · rfl
      · exact (dirAt_setDir _ _ _).trans (if_neg fun h => hk ((slot_of_dirAt hd).symm.trans h))
  subst hk
  rw [if_pos rfl]
  unfold State.updRows
  split
  · next hd => rw [hd]; rfl
  · next d hd =>
    rw [hd, Option.map_some]
    split
    · next hcur => rw [hd, mapRows_of_none hcur]
    · next c hcur =>
      rw [dirAt_setDir, if_pos (slot_of_dirAt hd), mapRows, hcur]
      rfl

/-- A record none of whose rows is PENDING. -/
def withoutPending : Dir → Dir := mapRows fun _ r => { r with pending := false }

/-- An update of a slot's rows is in flight. -/
def updating (s : State) (slot : Nat) : Bool := s.rowUps.any fun u => u.slot = slot

/-- The updates of a slot's rows end, and with them their PENDING. -/
theorem dirAt_endRows (s : State) (slot : Nat) (a : Answer) (k : Nat) :
    (s.endRows slot a).dirAt k = if updating s slot = true ∧ slot = k then (s.dirAt k).map withoutPending else s.dirAt k := by
  unfold State.endRows
  extract_lets mine t
  have hcalm : calm t = calm s := foldl_calm (fun s x => finishRows_calm s x a) _ _
  have hdirs := dirs_of_calm hcalm
  have hups : (t.rowUps.any fun u => u.slot = slot) = updating s slot := congrArg (List.any · _) (rowUps_of_calm hcalm)
  rw [hups]
  cases hup : updating s slot
  case false => simp only [dirAt_of_dirs hdirs, Bool.not_false, if_true, Bool.false_eq_true, false_and, if_false]
  simp only [Bool.not_true, Bool.false_eq_true, if_false, true_and, State.syncPending, dirAt_updRows]
  have hnone (i : Nat) : (t.rowUps.filter fun u => u.slot != slot).filter (fun u => u.slot = slot && u.row = i) = [] := by
    refine List.filter_eq_nil_iff.2 fun u hu hmine => bne_iff_ne.1 (List.mem_filter.1 hu).2 ?_
    exact of_decide_eq_true (Bool.and_eq_true_iff.1 hmine).1
  simp only [State.rowUpsOf, hnone]
  split
  · exact congrArg _ (dirAt_of_dirs hdirs k)
  · exact dirAt_of_dirs hdirs k

/-! Poisoning (R305, R351). -/

/-- A record once its object is poisoned. -/
def spoiled (d : Dir) : Dir := { d with poisoned := true, convRuns := (0, []) }

theorem withoutPending_spoiled (d : Dir) : withoutPending (spoiled d) = spoiled (withoutPending d) := rfl

/-- Poisoning counts and sets POISONED, and marks the record. -/
theorem poison_of_clean {s : State} {slot : Nat} {d : Dir} (hd : s.dirAt slot = some d) (hclean : d.poisoned = false) :
    s.poison slot = ((((s.stopTraffic slot).setDir (spoiled d)).count .poisoned 1).setErr .poisoned).unsolEvent 0x51 d.handle.toNat
      d.tenant := by
  rw [State.poison, hd]
  simp only [hclean, Bool.false_eq_true, if_false]
  rfl

theorem poisonObject_of_clean {s : State} {slot : Nat} {d : Dir} (hd : s.dirAt slot = some d) (hclean : d.poisoned = false) :
    s.poisonObject slot = (s.poison slot).endRows slot (ans 0x51 0) := by
  simp only [State.poisonObject, hd, hclean, Bool.false_eq_true, if_false]

theorem poisonObject_of_not_clean {s : State} {slot : Nat} (h : ∀ d, s.dirAt slot = some d → d.poisoned = true) :
    s.poisonObject slot = s := by
  unfold State.poisonObject
  split
  · rfl
  · next d hd => rw [if_pos (h d hd)]

theorem poison_calm {s : State} {slot : Nat} {d : Dir} (hd : s.dirAt slot = some d) (hclean : d.poisoned = false) :
    calm (s.poison slot) = calm ((s.stopTraffic slot).setDir (spoiled d)) := by
  rw [poison_of_clean hd hclean, unsolEvent_calm, setErr_calm, count_calm]

/-- What is counted of an object that is poisoned. -/
theorem poisonObject_faults {s : State} {slot : Nat} {d : Dir} (hd : s.dirAt slot = some d) (hclean : d.poisoned = false) :
    faults (s.poisonObject slot) = faults (withErr (s.count .poisoned 1) .poisoned) := by
  rw [poisonObject_of_clean hd hclean, endRows_faults, poison_of_clean hd hclean, unsolEvent_faults, setErr_faults_withErr]
  rfl

/-- Of the directory, poisoning changes the record of its object alone. -/
theorem dirAt_poisonObject {s : State} {slot : Nat} {d : Dir} (hd : s.dirAt slot = some d) (hclean : d.poisoned = false) (k : Nat) :
    (s.poisonObject slot).dirAt k = if slot = k then ((s.endRows slot (ans 0x51 0)).dirAt slot).map spoiled else s.dirAt k := by
  have hcalm := poison_calm hd hclean
  have hups : updating (s.poison slot) slot = updating s slot := by
    rw [updating, rowUps_of_calm hcalm]
    rfl
  have hdir : (s.poison slot).dirAt k = if slot = k then some (spoiled d) else s.dirAt k := by
    rw [dirAt_of_dirs (dirs_of_calm hcalm) k, dirAt_setDir, show (spoiled d).slot = slot from (slot_of_dirAt hd : d.slot = slot)]
    rfl
  rw [poisonObject_of_clean hd hclean, dirAt_endRows, dirAt_endRows, hups, hdir]
  by_cases hk : slot = k
  · subst hk
    simp only [hd, and_true, if_true, Option.map_some, withoutPending_spoiled, apply_ite (Option.map spoiled)]
  · simp only [hk, and_false, if_false]

/-- What `Obligations.BadReadsCounted` says of a poisoned object, from a state whose directory, row updates and count of poisoned
objects are those of `s`. -/
theorem poisonObject_poisons {s u : State} {slot : Nat} {d : Dir} (hdirs : u.dirs = s.dirs) (hups : u.rowUps = s.rowUps)
    (hcnt : u.cntVal .poisoned = s.cntVal .poisoned) (hd : s.dirAt slot = some d) (hclean : d.poisoned = false) :
    let e := ((s.endRows d.slot (ans 0x51 0)).dirAt d.slot).getD d
    DirNow s (u.poisonObject slot) (spoiled e) ∧ (u.poisonObject slot).err .poisoned = true
      ∧ ((∀ x ∈ s.rowUps, x.slot ≠ d.slot) → e = d)
      ∧ (u.poisonObject slot).cntVal .poisoned = min (s.cntVal .poisoned + 1) (2 ^ 64 - 1) := by
  obtain rfl := slot_of_dirAt hd
  have hud : u.dirAt d.slot = some d := (dirAt_of_dirs hdirs _).trans hd
  have hend : (u.endRows d.slot (ans 0x51 0)).dirAt d.slot = (s.endRows d.slot (ans 0x51 0)).dirAt d.slot := by
    simp only [dirAt_endRows, updating, hups, dirAt_of_dirs hdirs]
  have hsome : ∃ e, (s.endRows d.slot (ans 0x51 0)).dirAt d.slot = some e := by
    rw [dirAt_endRows, hd]
    split
    · exact ⟨_, rfl⟩
    · exact ⟨_, rfl⟩
  have hfaults := poisonObject_faults hud hclean
  refine ⟨?_, ?_, fun hnone => ?_, ?_⟩
  · obtain ⟨e, he⟩ := hsome
    have heslot : (spoiled e).slot = d.slot := (slot_of_dirAt he : e.slot = d.slot)
    simp only [he, Option.getD_some, DirNow, heslot, dirAt_poisonObject hud hclean, hend, if_true, Option.map_some, true_and]
    exact fun k hk => (if_neg (Ne.symm hk)).trans (dirAt_of_dirs hdirs k)
  · rw [err_of_faults hfaults (by decide), err_withErr, decide_eq_true rfl, Bool.or_true]
  · have hup : updating s d.slot = false := List.any_eq_false.2 fun x hx => mt of_decide_eq_true (hnone x hx)
    simp only [dirAt_endRows, hup, hd, Bool.false_eq_true, false_and, if_false, Option.getD_some]
  · rw [cntVal_of_faults hfaults (by decide), ← hcnt]
    exact cntVal_count u .poisoned .poisoned 1

/-- Poisoning leaves TRAIN_ERR and the other counters of faults. -/
theorem poisonObject_leaves (s : State) (slot : Nat) :
    (s.poisonObject slot).trainErr = s.trainErr
      ∧ ∀ c ∈ faultCnts, c ≠ .poisoned → (s.poisonObject slot).cntVal c = s.cntVal c := by
  by_cases h : ∃ d, s.dirAt slot = some d ∧ d.poisoned = false
  · obtain ⟨d, hd, hclean⟩ := h
    have hfaults := poisonObject_faults hd hclean
    exact ⟨(trainErr_of_faults hfaults :), fun c hc hne =>
      (cntVal_of_faults hfaults hc).trans ((cntVal_count s .poisoned c 1).trans (if_neg (Ne.symm hne)))⟩
  · rw [poisonObject_of_not_clean fun d hd => eq_true_of_ne_false fun hclean => h ⟨d, hd, hclean⟩]
    exact ⟨rfl, fun _ _ _ => rfl⟩

/-! TRAIN_ERR (R590). -/

/-- A train's errors are added to its own entry, saturating, and to no other. -/
theorem trainErr_trainErrAdd (s : State) (train parity reread k : Nat) :
    (s.trainErrAdd train parity reread).trainErr[k]?
      = if train = k then s.trainErr[k]?.map fun e => (min 65535 (e.1 + parity), min 65535 (e.2 + reread)) else s.trainErr[k]? := by
  unfold State.trainErrAdd
  split
  · next e he =>
    rw [show ({ s with trainErr := setAt s.trainErr train (min 65535 (e.1 + parity), min 65535 (e.2 + reread)) } : State).trainErr
      = _ from setAt_eq_set _ _ _, List.getElem?_set]
    split
    · next hk => rw [← hk, he, if_pos (List.getElem?_eq_some_iff.1 he).1]; rfl
    · rfl
  · next he =>
    split
    · next hk => rw [← hk, he]; rfl
    · rfl

/-- All but TRAIN_ERR stands. -/
theorem trainErrAdd_eq (s : State) (train parity reread : Nat) :
    s.trainErrAdd train parity reread = { s with trainErr := (s.trainErrAdd train parity reread).trainErr } := by
  unfold State.trainErrAdd
  split <;> rfl

theorem trainErrAdd_cntVal (s : State) (train parity reread : Nat) (c : Cnt) : (s.trainErrAdd train parity reread).cntVal c = s.cntVal c := by
  rw [trainErrAdd_eq]
  rfl

/-! Re-reads (R303). -/

/-- The counter of a bad read. -/
def rereadCnt (wagonCheck : Bool) : Cnt := if wagonCheck then .wagonReread else .depotReread

theorem rereadCnt_isFault (wagonCheck : Bool) : rereadCnt wagonCheck ∈ faultCnts ∧ rereadCnt wagonCheck ≠ .poisoned := by
  cases wagonCheck <;> decide

/-- The state with its re-reads counted. -/
def reread (s : State) (c : Cnt) (train n : Nat) : State := (s.count c n).trainErrAdd train 0 n

theorem reread_eq (s : State) (c : Cnt) (train n : Nat) :
    reread s c train n = { s.count c n with trainErr := (reread s c train n).trainErr } := trainErrAdd_eq _ _ _ _

theorem reread_cntVal (s : State) (c : Cnt) (train n : Nat) (d : Cnt) :
    (reread s c train n).cntVal d = if c = d then min (s.cntVal d + n) (2 ^ 64 - 1) else s.cntVal d :=
  (trainErrAdd_cntVal _ _ _ _ _).trans (cntVal_count s c d n)

/-- The re-reads of a train go into its counter and into its TRAIN_ERR. -/
theorem reread_counts (s : State) (c : Cnt) (train n : Nat) :
    (reread s c train n).cntVal c = min (s.cntVal c + n) (2 ^ 64 - 1)
      ∧ (∀ e, s.trainErr[train]? = some e → (reread s c train n).trainErr[train]? = some (min 65535 e.1, min 65535 (e.2 + n)))
      ∧ ∀ k, k ≠ train → (reread s c train n).trainErr[k]? = s.trainErr[k]? := by
  refine ⟨(reread_cntVal _ _ _ _ _).trans (if_pos rfl), fun e he => ?_, fun k hk => (trainErr_trainErrAdd _ _ _ _ _).trans (if_neg (Ne.symm hk))⟩
  rw [reread, trainErr_trainErrAdd, if_pos rfl]
  exact congrArg _ he

theorem clampN_eq (rereads : Nat) : clampN 1 3 rereads = max 1 (min 3 rereads) := by
  unfold clampN
  split
  · omega
  · split <;> omega

theorem exec_depotCrcMismatch {s : State} (hlive : s.live = true) (addr : Nat) (wagonCheck : Bool) (train rereads : Nat) (readable : Bool) :
    exec (.depotCrcMismatch addr wagonCheck train rereads readable) s = .next (s.begin.crcMismatch addr wagonCheck train rereads readable) :=
  congrArg Host.Outcome.next (if_pos hlive)

theorem crcMismatch_of_readable (s : State) (a : Nat) (wagonCheck : Bool) (train rereads : Nat) :
    s.crcMismatch a wagonCheck train rereads true = reread s (rereadCnt wagonCheck) train (max 1 (min 3 rereads)) := by
  rw [← clampN_eq]
  rfl

theorem crcMismatch_of_unreadable (s : State) (a : Nat) (wagonCheck : Bool) (train rereads : Nat) :
    s.crcMismatch a wagonCheck train rereads false = (reread s (rereadCnt wagonCheck) train 3).poisonObject (slotOf a) := rfl

/-! Parity (R304). -/

theorem exec_platformParityError {s : State} (hlive : s.live = true) (addr train : Nat) (third : Bool) :
    exec (.platformParityError addr train third) s = .next (s.begin.parityError addr train third) :=
  congrArg Host.Outcome.next (if_pos hlive)

/-- The state with a parity error of a clean frame counted. -/
def parityCounted (s : State) (train : Nat) : State := ((s.count .parityRefetch 1).setErr .platformParity).trainErrAdd train 1 0

theorem parityError_of_dirty {s : State} {a : Nat} (h : s.dirtyAt a = true) (train : Nat) (third : Bool) :
    s.parityError a train third = s.poisonObject (slotOf a) := if_pos h

/-- After its refetch, a wagon's third failure in a tick has the rows that depend on it late, and the program goes on. -/
theorem parityError_of_clean {s : State} {a : Nat} (h : s.dirtyAt a = false) (train : Nat) (third : Bool) :
    s.parityError a train third
      = if third || decide (3 ≤ ((parityCounted s train).refetch train a).frameFails a)
        then (((parityCounted s train).refetch train a).dependentsLate a).proceed false false
        else (parityCounted s train).refetch train a := by
  rw [State.parityError, h]
  rfl

/-- Nothing that follows the count of a clean frame's error counts a fault. -/
theorem parityError_faults {s : State} {a : Nat} (h : s.dirtyAt a = false) (train : Nat) (third : Bool) :
    faults (s.parityError a train third) = faults (parityCounted s train) := by
  have hlate (u : State) : faults (u.dependentsLate a) = faults u := by
    simp only [State.dependentsLate, failLate_faults, updTick_faults, apply_ite faults, ite_self]
  simp only [parityError_of_clean h, proceed_faults, hlate, refetch_faults, apply_ite faults, ite_self]

theorem setErr_leaves (s : State) (e : Err) : (s.setErr e).trainErr = s.trainErr ∧ ∀ c ∈ faultCnts, (s.setErr e).cntVal c = s.cntVal c :=
  ⟨(trainErr_of_faults (setErr_faults_withErr s e) :), fun _ hc => cntVal_of_faults (setErr_faults_withErr s e) hc⟩

theorem parityCounted_cntVal (s : State) (train : Nat) :
    (parityCounted s train).cntVal .parityRefetch = min (s.cntVal .parityRefetch + 1) (2 ^ 64 - 1) := by
  rw [parityCounted, trainErrAdd_cntVal, (setErr_leaves _ _).2 _ (by decide)]
  exact cntVal_count s .parityRefetch .parityRefetch 1

theorem parityCounted_err (s : State) (train : Nat) : (parityCounted s train).err .platformParity = true := by
  rw [parityCounted, trainErrAdd_eq]
  exact (err_of_faults (setErr_faults_withErr _ _) (by decide)).trans ((err_withErr _ _ _).trans (Bool.or_true _))

theorem parityCounted_trainErr (s : State) (train k : Nat) :
    (parityCounted s train).trainErr[k]?
      = if train = k then s.trainErr[k]?.map fun e => (min 65535 (e.1 + 1), min 65535 e.2) else s.trainErr[k]? := by
  rw [parityCounted, trainErr_trainErrAdd, (setErr_leaves _ _).1]
  rfl

theorem parityCounted_frames (s : State) (train : Nat) : (parityCounted s train).frames = s.frames := by
  have hcalm : calm ((s.count .parityRefetch 1).setErr .platformParity) = calm s := (setErr_calm _ _).trans (count_calm _ _ _)
  rw [parityCounted, trainErrAdd_eq]
  exact show (calm _).frames = (calm s).frames from hcalm ▸ rfl

/-! The refetch of a clean wagon (R304). -/

theorem sendRequests_frames_tick (s : State) (id n : Nat) : (s.sendRequests id n).frames = s.frames ∧ (s.sendRequests id n).tick = s.tick := by
  induction n generalizing s with
  | zero => exact ⟨rfl, rfl⟩
  | succ n ih =>
    have hsend (u : State) (c : Nat) (fs : List Flit) : (u.send c fs).frames = u.frames ∧ (u.send c fs).tick = u.tick :=
      ⟨show (calm (u.send c fs)).frames = (calm u).frames from send_calm u c fs ▸ rfl,
        show (calm (u.send c fs)).tick = (calm u).tick from send_calm u c fs ▸ rfl⟩
    rw [State.sendRequests]
    split
    · exact ⟨rfl, rfl⟩
    · simp only [apply_ite State.frames, apply_ite State.tick, ih, hsend, ite_self, and_self]

theorem readWagon_frames_tick (s : State) (a : Nat) (at_ : Nat × Word × Nat) :
    (s.readWagon a at_).frames = s.frames ∧ (s.readWagon a at_).tick = s.tick := by
  unfold State.readWagon State.addRead
  split
  · exact sendRequests_frames_tick _ _ _
  · exact ⟨rfl, rfl⟩

/-- The frame that a train's parity error at an address names. -/
theorem frame_of_find? {fs : List Frame} {train a : Nat} {f : Frame}
    (hf : fs.find? (fun f => f.train = train && f.addr % oldSpace = a) = some f) :
    f.train = train ∧ f.addr % oldSpace = a := by
  simpa only [Bool.and_eq_true, decide_eq_true_eq] using List.find?_some hf

/-- A frame's wagon in another frame of its car, while it is fetched there. -/
def movedFrame (s : State) (train : Nat) (f : Frame) : Frame :=
  { f with
    slot := s.freeSlot train f.car, group := some f.home, tier := (s.fetchFrom f.addr).1, loc := (s.fetchFrom f.addr).2.1
    fails := f.fails + 1 }

theorem refetch_of_frame {s : State} {train a : Nat} {f : Frame} (hf : s.frames.find? (fun f => f.train = train && f.addr % oldSpace = a) = some f) :
    (s.refetch train a).frames = s.frames.map (fun y => if y = f then movedFrame s train f else y)
      ∧ (s.refetch train a).tick.run.groups = sortNat (s.tick.run.groups ++ [f.home]) := by
  rw [State.refetch, hf]
  exact ⟨(readWagon_frames_tick _ _ _).1, congrArg (·.run.groups) (readWagon_frames_tick _ _ _).2⟩

/-- A frame's slot is not among its car's free ones. -/
theorem freeSlot_ne {s : State} {f : Frame} (hf : f ∈ s.frames) : s.freeSlot f.train f.car ≠ f.slot := by
  have hused : f.slot ∈ sortNat ((s.frames.filter fun y => y.train = f.train && y.car = f.car).map (·.slot)) :=
    (mem_sortNat _ _).2 (List.mem_map_of_mem (List.mem_filter.2 ⟨hf, by simp only [decide_true, Bool.and_self]⟩))
  intro heq
  exact lowestFree_notMem (sortNat_pairwise_lt _) (fun _ _ => Nat.zero_le _) (heq ▸ hused)

/-- The failures of an address among some frames. -/
theorem frameFails_eq_sum (s : State) (a : Nat) : s.frameFails a = ((s.frames.filter fun f => f.addr % oldSpace = a).map (·.fails)).sum := by
  rw [State.frameFails, List.sum_eq_foldl, List.foldl_map]

theorem sum_fails_replace {p : Frame → Bool} {f g : Frame} (hf : p f = true) (hg : p g = true) (hfails : g.fails = f.fails + 1) (fs : List Frame) :
    (((fs.map fun y => if y = f then g else y).filter p).map (·.fails)).sum = ((fs.filter p).map (·.fails)).sum + fs.count f := by
  induction fs with
  | nil => rfl
  | cons x xs ih =>
    by_cases hx : x = f
    · subst hx
      rw [List.map_cons, if_pos rfl, List.filter_cons_of_pos hg, List.filter_cons_of_pos hf, List.map_cons, List.map_cons, List.sum_cons,
        List.sum_cons, ih, hfails, List.count_cons_self]
      omega
    · rw [List.map_cons, if_neg hx, List.count_cons_of_ne hx]
      by_cases hp : p x = true
      · rw [List.filter_cons_of_pos hp, List.filter_cons_of_pos hp, List.map_cons, List.map_cons, List.sum_cons, List.sum_cons, ih,
          Nat.add_assoc]
      · rw [List.filter_cons_of_neg hp, List.filter_cons_of_neg hp, ih]

theorem count_le_one_of_nodup {fs : List Frame} (h : fs.Nodup) (f : Frame) : fs.count f ≤ 1 := by
  induction fs with
  | nil => exact Nat.zero_le 1
  | cons x xs ih =>
    obtain ⟨hx, htail⟩ := List.nodup_cons.1 h
    by_cases hxf : x = f
    · subst hxf
      exact Nat.le_of_eq (List.count_cons_self.trans (congrArg Nat.succ (List.count_eq_zero.2 hx)))
    · rw [List.count_cons_of_ne hxf]
      exact ih htail

/-- A frame that fails adds one to the failures of its wagon. -/
theorem refetch_frameFails {s : State} {train a : Nat} {f : Frame} (hnodup : s.frames.Nodup)
    (hf : s.frames.find? (fun f => f.train = train && f.addr % oldSpace = a) = some f) :
    (s.refetch train a).frameFails a ≤ s.frameFails a + 1 := by
  have haddr := decide_eq_true (frame_of_find? hf).2
  rw [frameFails_eq_sum, frameFails_eq_sum, (refetch_of_frame hf).1,
    sum_fails_replace (p := fun f => decide (f.addr % oldSpace = a)) (g := movedFrame s train f) haddr haddr rfl]
  exact Nat.add_le_add_left (count_le_one_of_nodup hnodup f) _

/-- Before a wagon's third failure, what follows a parity error of a clean frame is its refetch. -/
theorem parityError_of_few {s : State} {train a : Nat} {f : Frame} (hclean : s.dirtyAt a = false) (hnodup : s.frames.Nodup)
    (hf : s.frames.find? (fun f => f.train = train && f.addr % oldSpace = a) = some f) (hfew : s.frameFails a < 2) :
    s.parityError a train false = (parityCounted s train).refetch train a := by
  have hframes := parityCounted_frames s train
  have hfails : (parityCounted s train).frameFails a = s.frameFails a := by simp only [State.frameFails, hframes]
  have hle := refetch_frameFails (s := parityCounted s train) (hframes ▸ hnodup) (hframes ▸ hf)
  rw [parityError_of_clean hclean, if_neg]
  simp only [Bool.false_or, decide_eq_true_eq]
  omega

/-- Before its third failure, a clean wagon is fetched into another frame of its car, and its fetch group waits for it. -/
theorem parityError_refetches {s : State} {train a : Nat} {f : Frame} (hclean : s.dirtyAt a = false) (hnodup : s.frames.Nodup)
    (hf : s.frames.find? (fun f => f.train = train && f.addr % oldSpace = a) = some f) (hfew : s.frameFails a < 2) :
    f.home ∈ (s.parityError a train false).tick.run.groups
      ∧ ∃ g ∈ (s.parityError a train false).frames, g.train = f.train ∧ g.car = f.car ∧ g.addr = f.addr ∧ g.slot ≠ f.slot
          ∧ g.group = some f.home ∧ g.fails = f.fails + 1 := by
  obtain ⟨rfl, -⟩ := frame_of_find? hf
  have hframes := parityCounted_frames s f.train
  obtain ⟨hnew, hgroups⟩ := refetch_of_frame (s := parityCounted s f.train) (hframes ▸ hf)
  have hmem : f ∈ (parityCounted s f.train).frames := hframes ▸ List.mem_of_find?_eq_some hf
  rw [parityError_of_few hclean hnodup hf hfew, hgroups, hnew]
  exact ⟨(mem_sortNat _ _).2 (List.mem_append_right _ List.mem_cons_self),
    movedFrame (parityCounted s f.train) f.train f, List.mem_map.2 ⟨f, hmem, if_pos rfl⟩, rfl, rfl, rfl, freeSlot_ne hmem, rfl, rfl⟩

/-- Settles O49: a readable object by what its re-reads count, a poisoned one by `poisonObject_poisons`, a clean frame by its refetch,
and by what a tick's program leaves of the counts where its wagon has failed for the third time. -/
theorem badReadsCounted : Obligations.BadReadsCounted := by
  unfold Obligations.BadReadsCounted
  intro addr train s hlive poisons counted
  constructor
  · intro wagonCheck rereads cnt runs
    constructor
    · obtain ⟨hcnt, htrain, hothers⟩ := reread_counts s.begin cnt train (max 1 (min 3 rereads))
      refine ⟨_, exec_depotCrcMismatch hlive addr wagonCheck train rereads true, ?_⟩
      rw [crcMismatch_of_readable]
      exact ⟨hcnt, htrain, hothers, by rw [reread_eq]; rfl, by rw [reread_eq]; rfl⟩
    · obtain ⟨hcnt, htrain, hothers⟩ := reread_counts s.begin cnt train 3
      obtain ⟨hfault, hne⟩ := rereadCnt_isFault wagonCheck
      obtain ⟨herrs, hcnts⟩ := poisonObject_leaves (reread s.begin cnt train 3) (slotOf addr)
      obtain ⟨hfixed, hmem⟩ := crcMismatch_keeps s.begin addr wagonCheck train rereads false
      refine ⟨_, exec_depotCrcMismatch hlive addr wagonCheck train rereads false, ?_⟩
      rw [crcMismatch_of_unreadable] at hfixed hmem ⊢
      refine ⟨(hcnts cnt hfault hne).trans hcnt, fun e he => herrs ▸ htrain e he, fun k hk => herrs ▸ hothers k hk, hfixed, hmem,
        fun d hd hclean => poisonObject_poisons ?_ ?_ ?_ hd hclean⟩
      · rw [reread_eq]; rfl
      · rw [reread_eq]; rfl
      · exact (reread_cntVal _ _ _ _ _).trans (if_neg hne)
  · intro third runs
    constructor
    · intro hdirty
      refine ⟨_, exec_platformParityError hlive addr train third, ?_⟩
      rw [parityError_of_dirty (s := s.begin) hdirty]
      exact ⟨⟨(poisonObject_keeps _ _).1, (poisonObject_keeps _ _).2, fun d hd hclean => poisonObject_poisons rfl rfl rfl hd hclean⟩,
        (poisonObject_leaves _ _).1⟩
    · intro hclean
      have hfaults := parityError_faults (s := s.begin) hclean train third
      refine ⟨_, exec_platformParityError hlive addr train third, ?_, ?_, fun k hk => ?_, fun e he => ?_, parityError_fixed _ _ _ _, ?_⟩
      · exact (err_of_faults hfaults (by decide)).trans (parityCounted_err _ _)
      · exact (cntVal_of_faults hfaults (by decide)).trans (parityCounted_cntVal _ _)
      · rw [trainErr_of_faults hfaults, parityCounted_trainErr, if_neg (Ne.symm hk)]
        rfl
      · rw [trainErr_of_faults hfaults, parityCounted_trainErr, if_pos rfl]
        exact congrArg (Option.map _) he
      · rintro f rfl hf hnodup hfew
        exact parityError_refetches (s := s.begin) hclean hnodup hf hfew

end Sys2Proof.Proofs.BadReads
end

section
/-! The refutation of what TABLE_ROW_UPDATE is said to read (R340, R343). The checks find the table by its handle (`State.dirOf`), the
read of its records by its slot (`State.dirAt`), which gives the slot's first record. The commands keep one record under a slot, but the
statement ranges over every state and has no hypothesis that says so. -/
namespace Sys2Proof.Proofs.Rows
open Sys2Proof Sys2Proof.Machine Sys2Proof.Laws

/-- A handle of slot 4, by its TAG. -/
def handleOf (tag : Nat) : Word := packWord [(0, 18, 4), (18, 14, tag)]

/-- A tenant table of one int4 row of 64 columns. -/
def oneRow : Copy :=
  { regionB := false, kind := 3, sealed := false, trainable := false, shared := false, xtenant := false, version := 0, fmt := 0
    mx6v := false, origFmt := 0, form := 0, swId := 0, route := 0, cf := 0, salt := 0, wagons := 0, bodyOff := 0, keySlot := 0, cols := 64
    split := false, parts := [], head := 1
    rows := [⟨0, 0, 0, 0, 0, 0, false, false, true, 0, List.replicate 32 0, List.replicate 32 0⟩] }

/-- A record of slot 4, INSTALLED under a handle, and its copy in force. -/
def record (tag : Nat) (cur : Option Copy) : Dir :=
  { slot := 4, handle := handleOf tag, tenant := 7, st := .installed, cur := cur, next := none, landing := 1, image := (0, 0), table := true
    poisoned := false, heat := 0, accFmt := 0, accWag := 0, opt := none, conv := none, old := none, headRead := none, prior := none
    convRuns := (0, []), former := none, optNext := none }

/-- A TABLE_ROW_UPDATE of row 0 of the table under TAG 3, its record at 0x3000 (R474). -/
def updateRow : DescBytes :=
  BitVec.ofNat 512
    (packN [(0, 8, 0x25), (8 * 2, 8, 3), (8 * 8, 32, (handleOf 3).toNat), (8 * 12, 32, 0), (8 * 16, 32, 1), (8 * 24, 64, 0x3000)])

/-- The descriptor as it is taken. -/
def takenUpdate : Taken := ⟨1, 5, updateRow, 7, false, 0, 0, .unchecked⟩

/-- The block after reset, the versions negotiated, with that descriptor in front. A record without a copy in force stands before the
table's own under their slot. -/
def twoRecords : State :=
  { State.reset with negot := [3, 2, 2, 2], taken := [takenUpdate], dirs := [record 2 none, record 3 (some oneRow)] }

theorem facing_twoRecords : Facing twoRecords .tableRowUpdate takenUpdate :=
  ⟨rfl, rfl, ⟨_, rfl, by decide +kernel⟩, by decide +kernel⟩

theorem rowCheck_twoRecords : twoRecords.rowCheck updateRow 7 = (none, some (record 3 (some oneRow), oneRow)) := by decide +kernel

theorem lone_takenUpdate : Lone twoRecords takenUpdate := fun _ hx _ _ => List.mem_singleton.1 hx

/-- The command accepts the update and reads nothing: the slot's first record has no table to find a record of. -/
theorem exec_twoRecords_reads {t : State} (h : exec .tableRowUpdate twoRecords = .next t) : t.reads = [] := by
  obtain rfl := Host.Outcome.next.inj ((facing_run facing_twoRecords rfl rfl).symm.trans h)
  decide +kernel

/-- Refutes O58: in `twoRecords` no update of the row stands before the descriptor's, and yet its record is not being read. -/
theorem not_rowsReplaced : ¬ Obligations.RowsReplaced := by
  unfold Obligations.RowsReplaced
  rintro ⟨hupdate, -⟩
  obtain ⟨-, -, haccepted⟩ := hupdate takenUpdate twoRecords facing_twoRecords
  obtain ⟨t, hexec, -, -, -, -, hreads, -⟩ := haccepted _ _ rowCheck_twoRecords rfl lone_takenUpdate
  obtain ⟨r, hr, -⟩ := hreads 0 0 (by decide +kernel) (by decide +kernel) (List.forall_mem_nil _) List.not_mem_nil (by decide +kernel)
  rw [exec_twoRecords_reads hexec] at hr
  exact List.not_mem_nil hr

end Sys2Proof.Proofs.Rows
end

section
/-! Proofs about ADAPT_ENABLE's adapter form and the optimiser state that it asks for (R424 to R428): the descriptors that complete
one after another, the descriptor that waits behind the creations it cancels, and the release and the creation of a state. -/
namespace Sys2Proof.Proofs.Adapters
open Sys2Proof Sys2Proof.Machine Sys2Proof.Laws
open Sys2Proof.Proofs.BadReads (dirAt_setDir slot_of_dirAt dirs_of_calm dirAt_of_dirs)

/-! What completions leave (`calm`), and the directory. -/

theorem charges_of_calm {s t : State} (h : calm t = calm s) : t.charges = s.charges :=
  show (calm t).charges = (calm s).charges from h ▸ rfl

theorem adMem_of_calm {s t : State} (h : calm t = calm s) : t.adMem = s.adMem := show (calm t).adMem = (calm s).adMem from h ▸ rfl

theorem dirNow_setDir (s : State) (d : Dir) : DirNow s (s.setDir d) d :=
  ⟨(dirAt_setDir s d _).trans (if_pos rfl), fun k hk => (dirAt_setDir s d k).trans (if_neg (Ne.symm hk))⟩

theorem dirNow_of_dirs {s s' t t' : State} {d : Dir} (h : DirNow s t d) (hs : s'.dirs = s.dirs) (ht : t'.dirs = t.dirs) :
    DirNow s' t' d :=
  ⟨(dirAt_of_dirs ht _).trans h.1, fun k hk => (dirAt_of_dirs ht k).trans ((h.2 k hk).trans (dirAt_of_dirs hs k).symm)⟩

/-- A record changed twice is as it was changed last. -/
theorem dirNow_trans {s t u : State} {d e : Dir} (h : DirNow s t d) (k : DirNow t u e) (hslot : e.slot = d.slot) : DirNow s u e :=
  ⟨k.1, fun n hn => (k.2 n hn).trans (h.2 n (hslot ▸ hn))⟩

/-! Completions in a row. -/

/-- The record that a completion writes, and its place, come from the registers and the tick counter alone. -/
theorem recorded_of_fixed {s s' t : State} (h : fixed s' = fixed s) {tk : Taken} {a : Answer} {c : Word} (hr : Recorded s' t tk a c) :
    Recorded s t tk a c := by
  have hregs : s'.regs = s.regs := congrArg Fixed.regs h
  have hcount : s'.tick.count = s.tick.count := congrArg Fixed.count h
  simpa only [Recorded, State.addr64, State.cqLog2, State.rf, State.reg, State.tick32, hregs, hcount] using hr

theorem answeredAt_of_fixed {s s' t : State} {tk : Taken} {a : Answer} {c : Word} (h : AnsweredAt s' t tk a c) (hf : fixed s' = fixed s) :
    AnsweredAt s t tk a c :=
  ⟨h.1, recorded_of_fixed hf h.2⟩

/-- The writes of `s` stand in `t`, and no descriptor is taken that was not taken in `s`. -/
def Settles (s t : State) : Prop := Carries s t ∧ ∀ x ∈ t.taken, x ∈ s.taken

theorem Settles.trans {s t u : State} (h : Settles s t) (k : Settles t u) : Settles s u := ⟨h.1.trans k.1, fun x hx => h.2 x (k.2 x hx)⟩

theorem answeredAt_settles {s t u : State} {tk : Taken} {a : Answer} {c : Word} (h : AnsweredAt s t tk a c) (k : Settles t u) :
    AnsweredAt s u tk a c :=
  AnsweredAt.later h k.1 k.2

/-- Each descriptor of a list completes with its own answer. -/
def finishEach (s : State) (xs : List Taken) (a : Taken → Answer) : State := xs.foldl (fun s x => s.finish x (a x)) s

theorem foldl_eq_finishEach {f : State → Taken → State} {xs : List Taken} {a : Taken → Answer}
    (h : ∀ s, ∀ x ∈ xs, f s x = s.finish x (a x)) (s : State) : xs.foldl f s = finishEach s xs a := by
  induction xs generalizing s with
  | nil => rfl
  | cons x xs ih =>
    rw [List.foldl_cons, h s x List.mem_cons_self]
    exact ih (fun s y hy => h s y (List.mem_cons_of_mem x hy)) _

theorem finishEach_calm (s : State) (xs : List Taken) (a : Taken → Answer) : calm (finishEach s xs a) = calm s :=
  foldl_calm (fun s x => finish_calm s x (a x)) xs s

/-- The descriptors that share neither ring nor number with one of the list stay taken. -/
theorem mem_finishEach_taken {s : State} {xs : List Taken} {a : Taken → Answer} {x : Taken} :
    x ∈ (finishEach s xs a).taken ↔ x ∈ s.taken ∧ ∀ y ∈ xs, ¬ (x.ring = y.ring ∧ x.num = y.num) := by
  induction xs generalizing s with
  | nil => exact ⟨fun h => ⟨h, List.forall_mem_nil _⟩, And.left⟩
  | cons y ys ih =>
    refine (ih (s := s.finish y (a y))).trans ?_
    rw [finish_taken, List.mem_filter, and_assoc]
    simp only [Bool.not_eq_true', Bool.and_eq_false_imp, decide_eq_true_eq, decide_eq_false_iff_not, List.forall_mem_cons, not_and]

theorem finishEach_settles (s : State) (xs : List Taken) (a : Taken → Answer) : Settles s (finishEach s xs a) := by
  refine ⟨?_, fun x hx => (mem_finishEach_taken.1 hx).1⟩
  induction xs generalizing s with
  | nil => exact Carries.refl s
  | cons x xs ih => exact (finish_carries s x (a x)).trans (ih _)

theorem finishEach_answers (s : State) (xs : List Taken) (a : Taken → Answer) :
    ∀ x ∈ xs, ∃ c, AnsweredAt s (finishEach s xs a) x (a x) c := by
  induction xs generalizing s with
  | nil => exact List.forall_mem_nil _
  | cons y ys ih =>
    intro x hx
    rcases List.mem_cons.1 hx with rfl | hx
    · exact ⟨_, answeredAt_settles (finish_answered s x (a x)) (finishEach_settles _ ys a)⟩
    · obtain ⟨c, hc⟩ := ih (s.finish y (a y)) x hx
      exact ⟨c, answeredAt_of_fixed hc (finish_keeps s y (a y)).1⟩

theorem finishWhere_answers (s : State) {p : Pend → Bool} (a : Answer) {x : Taken} (hx : x ∈ s.taken) (hp : p x.pend = true) :
    ∃ c, AnsweredAt s (s.finishWhere p a) x a c :=
  finishEach_answers s _ _ x (List.mem_filter.2 ⟨hx, hp⟩)

/-- A descriptor that waits for another reason and that no other one resembles stays taken. -/
theorem mem_finishWhere_taken {s : State} {p : Pend → Bool} (a : Answer) {x : Taken} (hx : x ∈ s.taken) (hlone : Lone s x)
    (hp : p x.pend = false) : x ∈ (s.finishWhere p a).taken := by
  refine mem_finishEach_taken.2 ⟨hx, fun y hy hsame => ?_⟩
  obtain ⟨hytaken, hyp⟩ := List.mem_filter.1 hy
  obtain rfl := hlone y hytaken hsame.1.symm hsame.2.symm
  exact absurd hyp (by rw [hp]; exact Bool.false_ne_true)

/-! The end of a descriptor command. -/

/-- What follows a descriptor command's own effect: descriptors of no format are refused, and a build may begin. -/
def tidied (g : State) : State := (g.rejectUnknown g.taken.length).beginBuild

theorem tidied_fixed (g : State) : fixed (tidied g) = fixed g := (beginBuild_keeps _).1.trans (rejectUnknown_keeps _ _).1

theorem tidied_settles (g : State) : Settles g (tidied g) :=
  ⟨(rejectUnknown_carries _ _).trans (beginBuild_gentle _).1,
    fun x hx => rejectUnknown_taken _ _ x ((beginBuild_gentle (g.rejectUnknown g.taken.length)).2 ▸ hx)⟩

/-- A descriptor complete before another one waits stays complete. -/
theorem answeredAt_park {s t : State} {x : Taken} {a : Answer} {c : Word} (h : AnsweredAt s t x a c) (tk : Taken) (p : Pend) :
    AnsweredAt s (t.park tk p) x a c := by
  have hgentle := sec1Add_gentle t tk 0xFF []
  refine ⟨fun y hy => ?_, (hgentle.1.trans (Carries.of_eq rfl)).outstanding (k := .completion x.ring) trivial h.2⟩
  obtain ⟨z, hz, rfl⟩ := List.mem_map.1 hy
  have hzx := h.1 z (hgentle.2 ▸ hz)
  split
  · exact hzx
  · exact hzx

theorem creates_iff {slot : Nat} {p : Pend} : p.creates slot = true ↔ ∃ w, p = .adapt slot w := by
  cases p <;> simp [Pend.creates]

theorem front_of_facing {s : State} {i : Instr} {tk : Taken} (h : Facing s i tk) : s.front = some tk := by
  obtain ⟨-, hfront, -⟩ := h
  exact hfront

theorem pend_of_front {s : State} {tk : Taken} (h : s.front = some tk) : tk.pend = .unchecked := by
  simpa using List.find?_some h

/-- The descriptor in front waits for `p`, the record `e` written, once the creations that wait for a state of `slot` are cancelled. -/
theorem waits_behind_cancelled {s v : State} {tk : Taken} {p : Pend} (slot : Nat) (e : Dir) (hfixed : fixed v = fixed s)
    (htaken : v.taken = s.taken) (hdirs : v.dirs = s.dirs) (hfront : s.front = some tk) (hlone : Lone s tk) (hp : p ≠ .unchecked) :
    let t := tidied (((v.finishWhere (Pend.creates slot) (ans 0x30 0)).setDir e).park tk p)
    Parked t tk p ∧ AllAnswered s t (fun p => ∃ w, p = .adapt slot w) (ans 0x30 0) ∧ DirNow s t e ∧ t.charges = v.charges
      ∧ t.adMem = v.adMem := by
  intro t
  have hmem : tk ∈ (v.finishWhere (Pend.creates slot) (ans 0x30 0)).taken :=
    mem_finishWhere_taken _ (htaken ▸ front_mem hfront) (fun x hx => hlone x (htaken ▸ hx)) (by rw [pend_of_front hfront]; rfl)
  obtain ⟨hparked, hcalm⟩ := park_end ((v.finishWhere (Pend.creates slot) (ans 0x30 0)).setDir e) tk p _ hmem hp
  have hwhere := finishWhere_calm v (Pend.creates slot) (ans 0x30 0)
  refine ⟨hparked, ?_, ?_, (charges_of_calm hcalm).trans (charges_of_calm hwhere :),
    (adMem_of_calm hcalm).trans (adMem_of_calm hwhere :)⟩
  · intro x hx hwaits
    obtain ⟨c, hc⟩ := finishWhere_answers v (ans 0x30 0) (htaken ▸ hx) (creates_iff.2 hwaits)
    have hset : AnsweredAt v ((v.finishWhere (Pend.creates slot) (ans 0x30 0)).setDir e) x (ans 0x30 0) c :=
      answeredAt_settles hc ⟨Carries.of_eq rfl, fun _ h => h⟩
    exact ⟨c, answeredAt_of_fixed (answeredAt_settles (answeredAt_park hset tk p) (tidied_settles _)) hfixed⟩
  · exact dirNow_of_dirs (dirNow_setDir _ e) (hdirs.symm.trans (dirs_of_calm hwhere).symm) (dirs_of_calm hcalm)

/-! ADAPT_ENABLE, adapter form (R425 to R427). -/

theorem dirNow_setOpt (s : State) (d : Dir) (c : Copy) (o : OptSt) : DirNow s (s.setOpt d c o) { d with opt := some o } :=
  dirNow_of_dirs (dirNow_setDir s _) rfl rfl

theorem setOpt_settles (s : State) (d : Dir) (c : Copy) (o : OptSt) : Settles s (s.setOpt d c o) :=
  ⟨Carries.of_eq rfl, fun _ h => h⟩

/-- The optimiser that a descriptor names. -/
def optOf (b : DescBytes) : Nat := dF b 9 0 2

/-- The hyperparameters of a descriptor. -/
def hyperOf (b : DescBytes) : List Word := (List.range 7).map fun k => BitVec.ofNat 32 (dF b (16 + 4 * k) 0 32)

/-- The state that a descriptor asks for. -/
def freshState (b : DescBytes) (c : Copy) : OptSt := ⟨optOf b, dF b 10 0 4, hyperOf b, c.parts.map fun _ => 0, false, false⟩

theorem hyperOk_zero (h : List Word) : hyperOk 0 h = true := rfl

theorem adaptReq_of_none {s : State} {tk : Taken} (ht : s.adaptTarget (word12 tk.bytes) = none) :
    s.adaptReq tk = s.answer tk (ans 0x13 0) := by
  simp only [State.adaptReq, ht]

section
variable {s : State} {tk : Taken} {d : Dir} {c : Copy} (ht : s.adaptTarget (word12 tk.bytes) = some (d, c))
include ht

theorem adaptReq_of_bad_hyper (hh : hyperOk (optOf tk.bytes) (hyperOf tk.bytes) = false) :
    s.adaptReq tk = s.answer tk (ans 0x18 16) := by
  rw [optOf, hyperOf] at hh
  simp only [State.adaptReq, ht, hh, Bool.not_false, if_true]

theorem adaptReq_of_stateless (h0 : optOf tk.bytes = 0) (hopt : d.opt = none) (hnext : d.optNext = none) :
    s.adaptReq tk = s.answer tk (ansOk 0 0 0) := by
  rw [optOf] at h0
  simp only [State.adaptReq, ht, h0, hyperOk_zero, hopt, hnext, Bool.not_true, Bool.false_eq_true, if_false, if_true, Option.orElse_none]

theorem adaptReq_of_release {o : OptSt} (h0 : optOf tk.bytes = 0) (ho : d.opt = some o ∨ (d.opt = none ∧ d.optNext = some o)) :
    s.adaptReq tk = (((s.releaseState d.slot c.head).finishWhere (Pend.creates d.slot) (ans 0x30 0)).setDir
      { d with opt := some { o with closing := true }, optNext := none }).park tk (.adaptRelease d.slot) := by
  have hor : d.opt.orElse (fun _ => d.optNext) = some o := by
    rcases ho with ho | ⟨hnone, ho⟩
    · rw [ho]; rfl
    · rw [hnone, ho]; rfl
  rw [optOf] at h0
  simp only [State.adaptReq, ht, h0, hyperOk_zero, hor, Bool.not_true, Bool.false_eq_true, if_false, if_true]

variable (hh : hyperOk (optOf tk.bytes) (hyperOf tk.bytes) = true) (h0 : optOf tk.bytes ≠ 0)
include hh h0

theorem adaptReq_of_same_optimiser {o : OptSt} (ho : d.opt = some o) (hsame : o.opt = optOf tk.bytes) (hopen : o.closing = false) :
    s.adaptReq tk = (s.setOpt d c { o with pmask := dF tk.bytes 10 0 4, hyper := hyperOf tk.bytes }).answer tk (ansOk 0 0 0) := by
  have huse : (decide (o.opt = optOf tk.bytes) && !o.closing) = true := by rw [hopen, decide_eq_true hsame]; rfl
  simp only [optOf, hyperOf] at hh h0
  simp only [State.adaptReq, ht, hh, h0, ho, Bool.not_true, Bool.false_eq_true, if_false]
  exact if_pos huse

theorem adaptReq_of_creation (hother : ∀ o, d.opt = some o → o.opt ≠ optOf tk.bytes ∨ o.closing = true) :
    s.adaptReq tk = s.createState tk d c (freshState tk.bytes c) := by
  cases ho : d.opt with
  | none =>
    simp only [optOf, hyperOf] at hh h0
    simp only [State.adaptReq, ht, hh, h0, ho, Bool.not_true, Bool.false_eq_true, if_false, freshState, optOf, hyperOf]
  | some o =>
    have huse : (decide (o.opt = optOf tk.bytes) && !o.closing) = false := by
      rcases hother o ho with hne | hclosing
      · rw [decide_eq_false hne, Bool.false_and]
      · rw [hclosing, Bool.not_true, Bool.and_false]
    simp only [optOf, hyperOf] at hh h0
    simp only [State.adaptReq, ht, hh, h0, ho, Bool.not_true, Bool.false_eq_true, if_false]
    exact if_neg (ne_true_of_eq_false huse)

end

/-! The creation's checks (R426). -/

/-- Bytes of a state, by the format in the accounting. -/
def accountedSize (d : Dir) (c : Copy) (o : OptSt) : Nat := stateSize { c with fmt := d.accFmt, wagons := d.accWag } o.opt

/-- Wagons of a state in the accounting. -/
def accountedWagons (d : Dir) (c : Copy) (o : OptSt) : Nat := ceilDiv (accountedSize d c o) 4352

/-- The charge of a state. -/
def chargeOf (d : Dir) (c : Copy) (o : OptSt) : Charge :=
  ⟨d.slot, c.head, .state, d.tenant, 1, accountedWagons d c o, ceilDiv (accountedWagons d c o) 16, 0, none⟩

/-- A state once its charge has taken the place of the former one's. -/
def recharged (s : State) (d : Dir) (c : Copy) (o : OptSt) : State :=
  { s.releaseState d.slot c.head with charges := (s.releaseState d.slot c.head).charges ++ [chargeOf d c o] }

section
variable {s : State} {d : Dir} {c : Copy} {o : OptSt} (tk : Taken)

theorem createState_of_large (hsize : 268435456 < accountedSize d c o) : s.createState tk d c o = s.answer tk (ans 0x12 0x30) :=
  if_pos hsize

variable (hsize : accountedSize d c o ≤ 268435456)
include hsize

theorem createState_of_over_quota
    (hquota : ((s.releaseState d.slot c.head).overQuota d.tenant [(1, accountedWagons d c o)]).isSome = true) :
    s.createState tk d c o = s.answer tk (ans 0x12 1) :=
  (if_neg (Nat.not_lt.2 hsize)).trans (if_pos hquota)

variable (hquota : (s.releaseState d.slot c.head).overQuota d.tenant [(1, accountedWagons d c o)] = none)
include hquota

theorem createState_of_no_room (hroom : (s.releaseState d.slot c.head).roomFor 1 (ceilDiv (accountedWagons d c o) 16) 0 0 = false) :
    s.createState tk d c o = s.answer tk (ans 0x12 9) :=
  (if_neg (Nat.not_lt.2 hsize)).trans ((if_neg (mt Option.isSome_iff_ne_none.1 (not_not_intro hquota))).trans
    (if_pos (congrArg not hroom)))

theorem createState_of_fitting (hroom : (s.releaseState d.slot c.head).roomFor 1 (ceilDiv (accountedWagons d c o) 16) 0 0 = true) :
    s.createState tk d c o = (((recharged s d c o).finishWhere (Pend.creates d.slot) (ans 0x30 0)).setDir
      { d with opt := d.opt.map fun x => { x with closing := true }, optNext := some o }).park tk (.adapt d.slot (accountedWagons d c o)) :=
  (if_neg (Nat.not_lt.2 hsize)).trans ((if_neg (mt Option.isSome_iff_ne_none.1 (not_not_intro hquota))).trans
    (if_neg (ne_true_of_eq_false (congrArg not hroom))))

end

/-! What the command leaves. -/

/-- No charge of a state has head units, so its release takes the charges alone. -/
theorem releaseState_eq (s : State) (slot copy : Nat) :
    s.releaseState slot copy
      = { s with charges := s.charges.filter fun x => !(x.slot = slot && x.copy = copy && x.kind == ChargeKind.state) } := by
  have hnone : (s.charges.filter fun x => (x.slot = slot && x.copy = copy && x.kind == ChargeKind.state) && x.kind == .head) = [] := by
    refine List.filter_eq_nil_iff.2 fun x _ => ?_
    cases hkind : x.kind <;> simp
  simp only [State.releaseState, State.release, hnone, List.map_nil, List.foldl_nil]

theorem releaseState_leaves (s : State) (slot copy : Nat) :
    (s.releaseState slot copy).taken = s.taken ∧ (s.releaseState slot copy).dirs = s.dirs := by
  rw [releaseState_eq]
  exact ⟨rfl, rfl⟩

section
variable {s : State} {tk : Taken} (h : Facing s .adaptEnableAdapter tk)
include h

theorem exec_adaptEnableAdapter : exec .adaptEnableAdapter s = .next (tidied (s.begin.adaptReq tk)) :=
  facing_run h rfl rfl

theorem adaptEnable_fixed {t : State} (he : exec .adaptEnableAdapter s = .next t) : fixed t = fixed s.begin := by
  obtain rfl := Host.Outcome.next.inj ((exec_adaptEnableAdapter h).symm.trans he)
  exact (tidied_fixed _).trans (adaptReq_fixed _ _)

/-- The command completes its descriptor and does nothing else. -/
theorem adaptEnable_answers {a : Answer} (hreq : s.begin.adaptReq tk = s.begin.answer tk a) :
    ∃ t, exec .adaptEnableAdapter s = .next t ∧ Answered s t tk a ∧ calm t = calm s.begin := by
  refine ⟨_, exec_adaptEnableAdapter h, ?_⟩
  rw [hreq]
  exact answer_end s s.begin tk a _ ⟨rfl, rfl, rfl⟩

/-- The command's descriptor waits for `p`, the record `e` written, and the creations that waited for a state of `slot` are cancelled. -/
theorem adaptEnable_waits {v : State} {e : Dir} {p : Pend} (slot : Nat) (hlone : Lone s tk)
    (hkeeps : fixed v = fixed s.begin ∧ v.adMem = s.adMem) (hleaves : v.taken = s.taken ∧ v.dirs = s.dirs) (hp : p ≠ .unchecked)
    (hreq : s.begin.adaptReq tk = ((v.finishWhere (Pend.creates slot) (ans 0x30 0)).setDir e).park tk p) :
    ∃ t, exec .adaptEnableAdapter s = .next t ∧ fixed t = fixed s.begin ∧ Parked t tk p
      ∧ AllAnswered s t (fun p => ∃ w, p = .adapt slot w) (ans 0x30 0) ∧ DirNow s t e ∧ t.charges = v.charges
      ∧ t.adMem = s.adMem := by
  obtain ⟨hfixed, hmem⟩ := hkeeps
  obtain ⟨htaken, hdirs⟩ := hleaves
  have he := exec_adaptEnableAdapter h
  refine ⟨_, he, adaptEnable_fixed h he, ?_⟩
  rw [hreq, ← hmem]
  exact waits_behind_cancelled (s := s.begin) slot e hfixed htaken hdirs (front_of_facing h) hlone hp

variable {d : Dir} {c : Copy} (ht : s.adaptTarget (word12 tk.bytes) = some (d, c))
include ht

theorem adaptEnable_releases {o : OptSt} (h0 : optOf tk.bytes = 0) (ho : d.opt = some o ∨ (d.opt = none ∧ d.optNext = some o))
    (hlone : Lone s tk) :
    ∃ t, exec .adaptEnableAdapter s = .next t ∧ fixed t = fixed s.begin ∧ Parked t tk (.adaptRelease d.slot)
      ∧ AllAnswered s t (fun p => ∃ w, p = .adapt d.slot w) (ans 0x30 0)
      ∧ DirNow s t { d with opt := some { o with closing := true }, optNext := none }
      ∧ t.charges = (s.begin.releaseState d.slot c.head).charges ∧ t.adMem = s.adMem := by
  have hreq := adaptReq_of_release (s := s.begin) ht h0 ho
  exact adaptEnable_waits h d.slot hlone (releaseState_keeps ..) (releaseState_leaves ..) (by simp) hreq

variable (hh : hyperOk (optOf tk.bytes) (hyperOf tk.bytes) = true) (h0 : optOf tk.bytes ≠ 0)
include hh h0

theorem adaptEnable_updates {o : OptSt} (ho : d.opt = some o) (hsame : o.opt = optOf tk.bytes) (hopen : o.closing = false) :
    ∃ t, exec .adaptEnableAdapter s = .next t
      ∧ DirNow s t { d with opt := some { o with pmask := dF tk.bytes 10 0 4, hyper := hyperOf tk.bytes } }
      ∧ Answered s t tk (ansOk 0 0 0) ∧ t.charges = s.charges ∧ fixed t = fixed s.begin := by
  have hreq := adaptReq_of_same_optimiser (s := s.begin) ht hh h0 ho hsame hopen
  have hexec := exec_adaptEnableAdapter h
  refine ⟨_, hexec, ?_⟩
  have hfixed := adaptEnable_fixed h hexec
  generalize hg : s.begin.setOpt d c { o with pmask := dF tk.bytes 10 0 4, hyper := hyperOf tk.bytes } = g at hreq
  rw [hreq] at hfixed ⊢
  have hstands : Same s g := hg ▸ ⟨rfl, rfl, rfl⟩
  obtain ⟨hanswered, hcalm⟩ := answer_end s g tk (ansOk 0 0 0) (g.answer tk (ansOk 0 0 0)).taken.length hstands
  have hdir : DirNow s g _ := hg ▸ dirNow_setOpt s.begin d c _
  have hcharges : g.charges = s.charges := hg ▸ rfl
  exact ⟨dirNow_of_dirs hdir rfl (dirs_of_calm hcalm), hanswered, (charges_of_calm hcalm).trans hcharges, hfixed⟩

theorem adaptEnable_creates (hother : ∀ o, d.opt = some o → o.opt ≠ optOf tk.bytes ∨ o.closing = true)
    (hsize : accountedSize d c (freshState tk.bytes c) ≤ 268435456)
    (hquota : (s.begin.releaseState d.slot c.head).overQuota d.tenant [(1, accountedWagons d c (freshState tk.bytes c))] = none)
    (hroom : (s.begin.releaseState d.slot c.head).roomFor 1 (ceilDiv (accountedWagons d c (freshState tk.bytes c)) 16) 0 0 = true)
    (hlone : Lone s tk) :
    ∃ t, exec .adaptEnableAdapter s = .next t ∧ fixed t = fixed s.begin
      ∧ Parked t tk (.adapt d.slot (accountedWagons d c (freshState tk.bytes c)))
      ∧ AllAnswered s t (fun p => ∃ w, p = .adapt d.slot w) (ans 0x30 0)
      ∧ DirNow s t { d with opt := d.opt.map fun x => { x with closing := true }, optNext := some (freshState tk.bytes c) }
      ∧ t.charges = (s.begin.releaseState d.slot c.head).charges ++ [chargeOf d c (freshState tk.bytes c)] ∧ t.adMem = s.adMem := by
  have hreq := (adaptReq_of_creation (s := s.begin) ht hh h0 hother).trans (createState_of_fitting tk hsize hquota hroom)
  exact adaptEnable_waits h (v := recharged s.begin d c (freshState tk.bytes c)) d.slot hlone
    (releaseState_keeps s.begin d.slot c.head) (releaseState_leaves s.begin d.slot c.head) (by simp) hreq

end

/-! ADAPT_STATE_READY (R427). -/

/-- A creation follows: the copy in force is under no conversion, and a state is asked for. -/
def Follows (d : Dir) : Prop := d.cur.isSome = true ∧ d.conv = none ∧ d.optNext.isSome = true

/-- What a descriptor that waits for a state is answered. -/
def readyAnswer (x : Taken) : Answer :=
  match x.pend with
  | .adapt _ w => ansOk w 0 0
  | _ => ansOk 0 0 0

section
variable {s : State} {slot : Nat} {d : Dir} (hd : s.dirAt slot = some d)
include hd

theorem installState_of_not_follows (h : ¬ Follows d) : s.installState slot = s := by
  unfold State.installState
  simp only [hd]
  split
  · next c o hcur hnext =>
    refine if_pos (Option.isSome_iff_ne_none.2 fun hconv => h ⟨?_, hconv, ?_⟩)
    · rw [hcur]; rfl
    · rw [hnext]; rfl
  · rfl

theorem installState_of_follows {c : Copy} {o : OptSt} (hcur : d.cur = some c) (hconv : d.conv = none) (hnext : d.optNext = some o) :
    s.installState slot = finishEach (s.setOpt { d with optNext := none } c { o with ready := true })
      (s.taken.filter fun x => x.pend.creates slot) readyAnswer := by
  simp only [State.installState, hd, hcur, hnext, hconv, Option.isSome_none, Bool.false_eq_true, if_false]
  refine foldl_eq_finishEach (fun s x hx => ?_) _
  obtain ⟨w, hw⟩ := creates_iff.1 (List.mem_filter.1 hx).2
  simp only [readyAnswer, hw]

/-- A created state is ready, and the descriptors that wait for it complete. -/
theorem installState_readies {o : OptSt} (hf : Follows d) (hnext : d.optNext = some o) :
    let t := s.installState slot
    DirNow s t { d with opt := some { o with ready := true }, optNext := none } ∧ t.charges = s.charges ∧ Settles s t
      ∧ ∀ x ∈ s.taken, ∀ w, x.pend = .adapt slot w → ∃ c, AnsweredAt s t x (ansOk w 0 0) c := by
  obtain ⟨hcur, hconv, -⟩ := hf
  obtain ⟨c, hcur⟩ := Option.isSome_iff_exists.1 hcur
  generalize hu : s.setOpt { d with optNext := none } c { o with ready := true } = u
  generalize hxs : s.taken.filter (fun x => x.pend.creates slot) = xs
  have hinstall : s.installState slot = finishEach u xs readyAnswer := by
    rw [installState_of_follows hd hcur hconv hnext, hu, hxs]
  have hcalm := finishEach_calm u xs readyAnswer
  rw [hinstall]
  subst hu
  refine ⟨dirNow_of_dirs (dirNow_setOpt s _ c _) rfl (dirs_of_calm hcalm), (charges_of_calm hcalm :),
    (setOpt_settles ..).trans (finishEach_settles _ xs readyAnswer), fun x hx w hw => ?_⟩
  have hmem : x ∈ xs := hxs ▸ List.mem_filter.2 ⟨hx, creates_iff.2 ⟨w, hw⟩⟩
  obtain ⟨n, hn⟩ := finishEach_answers _ xs readyAnswer x hmem
  rw [readyAnswer, hw] at hn
  exact ⟨n, answeredAt_of_fixed hn (setOpt_fixed ..)⟩

end

/-- The state of a slot released, its space freed and its releases complete. -/
def freed (s : State) (slot : Nat) (d : Dir) : State :=
  ((s.clearState slot).setDir { d with opt := none }).finishWhere (fun p => p == .adaptRelease slot) (ansOk 0 0 0)

theorem freed_calm (s : State) (slot : Nat) (d : Dir) :
    calm (freed s slot d) = calm ((s.clearState slot).setDir { d with opt := none }) :=
  finishWhere_calm _ _ _

theorem freed_dirs (s : State) (slot : Nat) (d : Dir) : DirNow s (freed s slot d) { d with opt := none } :=
  dirNow_of_dirs (dirNow_setDir (s.clearState slot) _) rfl (dirs_of_calm (freed_calm s slot d))

theorem freed_charges (s : State) (slot : Nat) (d : Dir) : (freed s slot d).charges = s.charges :=
  (charges_of_calm (freed_calm s slot d) :)

theorem freed_fixed (s : State) (slot : Nat) (d : Dir) : fixed (freed s slot d) = fixed s :=
  (finishWhere_keeps _ _ _).1.trans ((setDir_keeps _ _).1.trans (clearState_fixed s slot))

/-- The releases that wait for the space complete. -/
theorem freed_answers (s : State) (slot : Nat) (d : Dir) :
    AllAnswered s (freed s slot d) (fun p => p = .adaptRelease slot) (ansOk 0 0 0) := by
  intro x hx hp
  obtain ⟨c, hc⟩ := finishWhere_answers ((s.clearState slot).setDir { d with opt := none }) (p := fun p => p == .adaptRelease slot)
    (ansOk 0 0 0) hx (by rw [hp]; exact beq_self_eq_true _)
  exact ⟨c, answeredAt_of_fixed hc ((setDir_keeps _ _).1.trans (clearState_fixed s slot))⟩

/-- A descriptor that waits for the creation still waits. -/
theorem mem_freed_taken {s : State} {slot w : Nat} {x : Taken} (d : Dir) (hx : x ∈ s.taken) (hlone : Lone s x)
    (hp : x.pend = .adapt slot w) : x ∈ (freed s slot d).taken :=
  mem_finishWhere_taken _ hx hlone (by rw [hp]; rfl)

section
variable {s : State} {slot : Nat} {d : Dir} (hd : s.dirAt slot = some d)
include hd

theorem stateReady_of_stateless (hopt : d.opt = none) : s.stateReady slot = s.installState slot := by
  simp only [State.stateReady, hd, hopt]

variable {o : OptSt} (ho : d.opt = some o)
include ho

theorem stateReady_of_released (hclosing : o.closing = true) (hbusy : s.stateBusy d = false) :
    s.stateReady slot = (freed s slot d).installState slot := by
  simp only [State.stateReady, hd, ho, hclosing, hbusy, Bool.not_true, Bool.or_self, Bool.false_eq_true, if_false, freed]

theorem stateReady_of_held (h : o.closing = true → s.stateBusy d = true) : s.stateReady slot = s := by
  have hheld : (!o.closing || s.stateBusy d) = true := by
    cases hc : o.closing with
    | false => rfl
    | true => exact h hc
  simp only [State.stateReady, hd, ho]
  exact if_pos hheld

end

/-- A released state's space is held by steps built for it and, the object not poisoned, by write-backs owed or under way. -/
theorem stateBusy_iff {s : State} {d : Dir} {slot : Nat} (hslot : d.slot = slot) :
    s.stateBusy d = true ↔ (s.tick.active = true ∧ stepsBuilt s.tick.cur d.handle = true) ∨ stepsBuilt s.tick.next d.handle = true
      ∨ (d.poisoned = false ∧ ((∃ r ∈ s.tmap, slotOf r.addr = slot ∧ r.dirty ≠ 0) ∨ (∃ e ∈ s.tierOld, slotOf e.addr = slot)
        ∨ ∃ r ∈ s.reads, ∃ a, slotOf a = slot ∧ r.kind = .writeBack a)) := by
  subst hslot
  simp only [State.stateBusy, State.owesBacks, Bool.or_eq_true, Bool.and_eq_true, Bool.not_eq_true', List.any_eq_true, decide_eq_true_eq,
    bne_iff_ne, or_assoc]
  refine or_congr_right (or_congr_right (and_congr_right fun _ => or_congr_right (or_congr_right ?_)))
  refine exists_congr fun r => and_congr_right fun _ => ?_
  cases r.kind <;> simp

theorem exec_adaptStateReady {s : State} (hlive : s.live = true) (slot : Nat) :
    exec (.adaptStateReady slot) s = .next (s.begin.stateReady slot) :=
  congrArg Host.Outcome.next (if_pos hlive)

/-- With no former state, or with one whose space may be freed: from `u`, where that space is free and its releases are complete, the
creation follows. -/
theorem exec_adaptStateReady_of_free {s : State} {slot : Nat} {d : Dir} (hlive : s.live = true) (hd : s.dirAt slot = some d)
    (hmay : d.opt = none ∨ (s.begin.stateBusy d = false ∧ ∃ o, d.opt = some o ∧ o.closing = true))
    (halone : ∀ x ∈ s.taken, Lone s x) :
    ∃ u, exec (.adaptStateReady slot) s = .next (u.installState slot) ∧ DirNow s u { d with opt := none } ∧ u.charges = s.charges
      ∧ fixed u = fixed s.begin ∧ (d.opt.isSome = true → AllAnswered s u (fun p => p = .adaptRelease slot) (ansOk 0 0 0))
      ∧ ∀ x ∈ s.taken, ∀ w, x.pend = .adapt slot w → x ∈ u.taken := by
  have hslot := slot_of_dirAt hd
  have hexec := exec_adaptStateReady hlive slot
  rcases hmay with hopt | ⟨hbusy, o, ho, hclosing⟩
  · refine ⟨s.begin, hexec.trans (congrArg _ (stateReady_of_stateless (s := s.begin) hd hopt)), ?_, rfl, rfl, fun hsome => ?_,
      fun x hx _ _ => hx⟩
    · rw [← hopt]
      exact ⟨(congrArg s.dirAt hslot).trans hd, fun _ _ => rfl⟩
    · rw [hopt] at hsome
      exact absurd hsome Bool.false_ne_true
  · exact ⟨_, hexec.trans (congrArg _ (stateReady_of_released (s := s.begin) hd ho hclosing hbusy)), freed_dirs s.begin slot d,
      freed_charges s.begin slot d, freed_fixed s.begin slot d, fun _ => freed_answers s.begin slot d,
      fun x hx w hw => mem_freed_taken (s := s.begin) d hx (halone x hx) hw⟩

/-- Settles O59: the command's branches one by one, then the release of a slot's state and the creation that follows it. -/
theorem adaptersTrained : Obligations.AdaptersTrained := by
  unfold Obligations.AdaptersTrained
  refine ⟨fun tk s h => ?_, fun slot d s hlive hd halone => ?_⟩
  · intro b opt hyper answers alone
    have hlone (halone : alone) : Lone s tk := halone tk (front_mem (front_of_facing h))
    refine ⟨fun ht => adaptEnable_answers h (adaptReq_of_none ht), fun d c ht => ⟨fun hh => ?_, fun hh => ⟨?_, ?_, ?_, ?_⟩⟩⟩
    · exact adaptEnable_answers h (adaptReq_of_bad_hyper ht hh)
    · exact fun h0 hopt hnext => adaptEnable_answers h (adaptReq_of_stateless ht h0 hopt hnext)
    · intro o h0 ho halone
      obtain ⟨t, hexec, hfixed, hparked, hcancelled, hdir, hcharges, hmem⟩ := adaptEnable_releases h ht h0 ho (hlone halone)
      rw [releaseState_eq] at hcharges
      exact ⟨t, hexec, hdir, hparked, hcancelled, hcharges, hmem, hfixed⟩
    · exact fun o h0 ho hsame hopen => adaptEnable_updates h ht hh h0 ho hsame hopen
    · intro h0 hother size w u
      have hreq := adaptReq_of_creation (s := s.begin) ht hh h0 hother
      refine ⟨fun hsize => ?_, fun hsize hquota => ?_, fun hsize hquota hroom => ?_, fun hsize hquota hroom halone => ?_⟩
      · exact adaptEnable_answers h (hreq.trans (createState_of_large tk hsize))
      · exact adaptEnable_answers h (hreq.trans (createState_of_over_quota tk hsize hquota))
      · exact adaptEnable_answers h (hreq.trans (createState_of_no_room tk hsize hquota hroom))
      · obtain ⟨t, hexec, hfixed, hparked, hcancelled, hdir, hcharges, hmem⟩ :=
          adaptEnable_creates h ht hh h0 hother hsize hquota hroom (hlone halone)
        exact ⟨t, hexec, hparked, hfixed, hdir, hcancelled, hmem, hcharges⟩
  · intro owes busy may follows released ready
    have hslot := slot_of_dirAt hd
    have hbusy : s.begin.stateBusy d = true ↔ busy := stateBusy_iff hslot
    have hfree (hmay : may) := exec_adaptStateReady_of_free hlive hd
      (hmay.imp_right fun ⟨hidle, hclosing⟩ => ⟨eq_false_of_ne_true (mt hbusy.1 hidle), hclosing⟩) halone
    refine ⟨fun o hmay hfollows hnext => ?_, fun hmay hstays hsome => ?_, fun hstands => ?_⟩
    · obtain ⟨u, hexec, hdir, hcharges, hfixed, hreleased, htaken⟩ := hfree hmay
      have hud : u.dirAt slot = some { d with opt := none } := hslot ▸ hdir.1
      obtain ⟨hdir', hcharges', hsettles, hready⟩ := installState_readies hud hfollows hnext
      refine ⟨_, hexec, (installState_fixed u slot).trans hfixed, hcharges'.trans hcharges, fun hsome x hx hp => ?_,
        dirNow_trans hdir hdir' rfl, fun x hx w hw => ?_⟩
      · obtain ⟨n, hn⟩ := hreleased hsome x hx hp
        exact ⟨n, answeredAt_settles hn hsettles⟩
      · obtain ⟨n, hn⟩ := hready x (htaken x hx w hw) w hw
        exact ⟨n, answeredAt_of_fixed (s := s.begin) hn hfixed⟩
    · obtain ⟨u, hexec, hdir, hcharges, hfixed, hreleased, -⟩ := hfree hmay
      have hud : u.dirAt slot = some { d with opt := none } := hslot ▸ hdir.1
      rw [installState_of_not_follows hud hstays] at hexec
      exact ⟨u, hexec, hfixed, hcharges, hreleased, hdir⟩
    · rw [exec_adaptStateReady hlive]
      refine congrArg Host.Outcome.next ?_
      rcases hstands with hheld | ⟨hopt, hstays⟩
      · obtain ⟨o, ho⟩ := Option.ne_none_iff_exists'.1 fun hnone => hheld (.inl hnone)
        exact stateReady_of_held (s := s.begin) hd ho fun hclosing =>
          hbusy.2 (Classical.not_not.1 fun hidle => hheld (.inr ⟨hidle, o, ho, hclosing⟩))
      · exact (stateReady_of_stateless (s := s.begin) hd hopt).trans (installState_of_not_follows (s := s.begin) hd hstays)

end Sys2Proof.Proofs.Adapters
end
